-- ==== Sys2Proof/Word.lean ====
section
/-! DEFINITION. The word types of the E256: registers are 64 bits (R510), memories are bytes (R4), and a
sparse array is a table from numbers to entries. -/
namespace Sys2Proof

/-- A 64-bit register, word or counter (R510). -/
abbrev Word := BitVec 64

/-- One byte of a memory, an entry or a frame (R4). -/
abbrev Byte := BitVec 8

/-- A string of bytes, the first at the lowest address. -/
abbrev Bytes := List Byte

/-- A 128-bit key, address or element (R154, R291). -/
abbrev Word128 := BitVec 128

/-- A sparse array: number and entry, numbers rising. What an absent number reads as is given where it is read. -/
abbrev Tab (α : Type) := List (Nat × α)

end Sys2Proof
end

