-- ==== Sys2Proof/Syntax.lean ====
section
/-! DEFINITION. The commands of the E256: one constructor of `Instr` per row of the table of operations and
events. A command is an act of the host, the board, a peer or a timer, or one step of an engine of the part. -/
namespace Sys2Proof

/-- The nine reference clocks (R501). -/
inductive RefClk where
  | fab (k : Fin 4)
  | pcie
  | cxl (p : Fin 2)
  | hbm
  | aon
deriving DecidableEq, Repr

/-- Where a register access lands: PF BAR0, or the window of one function (R509, R520). -/
inductive RegSpace where
  | bar0
  | window (inst : Nat)
deriving DecidableEq, Repr

/-- How the host answers a read of a range of its memory with an error (R522). -/
inductive HostErr where
  | poison      -- poisoned data
  | unsupported -- Unsupported Request, Completer Abort, timeout or a refused translation
deriving DecidableEq, Repr

/-- What a memory device has in store for the next access to one of its bursts or lines: an error that its code corrects, one
that it cannot (or an uncorrectable-error response), a command that fails three times, a poisoned response (R259–R261, R272). -/
inductive Upset where
  | corrected
  | uncorrectable
  | commandError
  | poison
deriving DecidableEq, Repr

/-- The world outside when host software rings a doorbell: what the software of the function has stored in its memory (R318,
R431: it makes its entries visible first), which ranges the host now answers with an error, the bursts of HBM and the lines
of the expanders that have gone bad since (log 88), and writes of MSI-X Message Control by function (R312, log 93). -/
structure HostStores where
  cells : List (Nat × Byte) := []
  errs  : List (Nat × Nat × HostErr) := []
  hbm   : List (Nat × Upset) := []
  cxl   : List (Nat × Upset) := []
  msix  : List (Nat × Nat) := []
deriving DecidableEq, Repr

/-- The read of the aperture whose search has ended, and whether a check detected a fault in it (R352). -/
structure ApAnswer where
  read   : Nat
  faulty : Bool := false
deriving DecidableEq, Repr

/-- What a Cold Start finds in the package and around it (R451, R454): the resources that do not work, and the
expanders. -/
structure ColdFinds where
  badEngines  : List Nat := []                    -- physical engines without a working march (R127)
  badChannels : List Nat := []                    -- channels that find no setting (R264)
  laneRepairs : List (Nat × Nat) := []            -- channel and lane of the repairs that training makes (R264)
  badLanes    : List Nat := []                    -- lanes that find no setting (R308)
  ports       : List (Nat × Nat × Nat) := []      -- per expansion port: bytes, width code, speed code; absent: none
  link        : Nat × Nat := (16, 6)              -- lanes and PCIe generation at which the host link trains (R312)
  marchFails  : List (Nat × Nat × Nat × Nat) := []  -- failing columns: quire, bank, sub-bank, column (R149)
  badQuires   : List Nat := []                    -- quires with a fault SECDED cannot mask (R151)
deriving DecidableEq, Repr

/-- What the flash reports of a write to the Colophon (R477, R482): the 256 KiB blocks, by number, that failed to program
or erase, and the rated cycles used by the most worn block, percent, where they have changed. -/
structure Flash where
  bad  : List Nat := []
  wear : Option Nat := none
deriving DecidableEq, Repr

/-- What a read of a word or burst with check bits finds (R142, R259, R262). -/
inductive CheckOutcome where
  | clean
  | corrected (column : Nat)   -- a single-bit or single-symbol error
  | uncorrectable
  | commandError               -- three parity errors on the command (R261)
deriving DecidableEq, Repr

/-- An Ethernet frame as the MAC of a port sees it, with the fields that the classification reads (R279–R283). -/
structure Frame where
  port      : Nat                 -- first lane of the receiving port, 0–127
  fcsOk     : Bool := true
  fecCw     : Nat := 0            -- codewords that FEC corrected in it (R310)
  ucw       : Nat := 0            -- FEC-uncorrectable codewords in it (R281)
  symErrs   : List (Nat × Nat) := []  -- FEC symbol errors by lane (R308)
  size      : Nat                 -- bytes, 64–9,216 accepted
  tags      : Nat := 0            -- 802.1Q tags
  prio      : Nat := 0            -- PCP of its tag
  dstMac    : Nat                 -- first byte on the wire in bits [7:0]
  etherType : Nat
  ipFamily  : Nat := 0            -- 4, 6 or 0 for none
  ipPlain   : Bool := true        -- no options, fragments or extension headers
  ipProto   : Nat := 0            -- 17 UDP, 1 ICMP, 58 ICMPv6
  ce        : Bool := false       -- ECN mark CE
  srcAddr   : Word128 := 0        -- IPv4 written as ::ffff:a.b.c.d
  udpPort   : Nat := 0            -- destination port
  udpLen    : Nat := 0            -- UDP payload bytes
  sumOk     : Bool := true        -- false: its UDP checksum is nonzero and wrong (R290)
  payload   : Bytes := []         -- UDP payload (Ahnig header, ciphertext, tag), ICMP message, or the frame body
  raw       : Bytes := []         -- the first 64 bytes of the frame, for the sample of R284
deriving DecidableEq, Repr

/-- What the regulator of one compute die answers over AVSBus (R438, R439); when the transaction has failed three
times, `milliW` is the estimate from the die's activity counters. -/
structure RailRead where
  ok      : Bool     -- false: the transaction failed three times in a row
  code    : Nat      -- measured voltage code
  amps    : Nat
  milliW  : Nat
deriving DecidableEq, Repr

/-- The thermal readings of one period, °C (R442): four sensors of each quire, four of each I/O die, one of each
stack. -/
structure Thermal where
  quire : List (List Int)
  iod   : List (List Int)
  stack : List Int
deriving DecidableEq, Repr

/-- Why a copy descriptor fails while it runs (R426). -/
inductive CopyCause where
  | readFault | denied | poison | writeError (status : Nat) | mappedOut
deriving DecidableEq, Repr

/-- The shared controllers whose repeated fault opens a containment cause (R475). -/
inductive ControlBlock where
  | collator | cutter | pager | queueEngine
deriving DecidableEq, Repr

/-- What is found faulty on the Spine (R474). -/
inductive SpineFault where
  | transfer (segment : Nat)     -- a transfer, sent again once
  | transferAgain (segment : Nat) -- the second failure of the same transfer
  | wire (bridge wire : Nat)     -- a die-to-die bridge wire
deriving DecidableEq, Repr

/-- A controller that holds a request without progress (R471). -/
inductive Stuck where
  | channel (c : Nat) | port (p : Nat) | press (u : Nat) | other (island : Nat)
deriving DecidableEq, Repr

/-- The session an SPDM request arrives in (R387, R389). -/
structure Session where
  secured : Bool
  mutualKey : Option Bytes    -- the requester's public key when mutually authenticated
deriving DecidableEq, Repr

/-- The SPDM requests of R389. -/
inductive SpdmReq where
  | getVersion | getCapabilities | negotiateAlgorithms | getDigests | getCertificate (slot offset length : Nat)
  | challenge (nonce : Bytes) | getMeasurements (index : Nat) | keyExchange (data : Bytes) | finish | endSession
  | other (code : Nat)
deriving DecidableEq, Repr

/-- The commands. The docstring of each names its row and its rule; engine steps carry the engine number `e` and
the fields of their instruction word (R100). -/
inductive Instr where
  -- operator engine instructions (chapter 04)
  | invalidInstruction (e : Nat)
  | add (e : Nat) (d a b : BitVec 5)
  | sub (e : Nat) (d a b : BitVec 5)
  | and (e : Nat) (d a b : BitVec 5)
  | or (e : Nat) (d a b : BitVec 5)
  | xor (e : Nat) (d a b : BitVec 5)
  | sll (e : Nat) (d a b : BitVec 5)
  | srl (e : Nat) (d a b : BitVec 5)
  | sra (e : Nat) (d a b : BitVec 5)
  | mul (e : Nat) (d a b : BitVec 5)
  | mulh (e : Nat) (d a b : BitVec 5)
  | mulhu (e : Nat) (d a b : BitVec 5)
  | div (e : Nat) (d a b : BitVec 5)
  | divu (e : Nat) (d a b : BitVec 5)
  | rem (e : Nat) (d a b : BitVec 5)
  | remu (e : Nat) (d a b : BitVec 5)
  | slt (e : Nat) (d a b : BitVec 5)
  | sltu (e : Nat) (d a b : BitVec 5)
  | min (e : Nat) (d a b : BitVec 5)
  | max (e : Nat) (d a b : BitVec 5)
  | minu (e : Nat) (d a b : BitVec 5)
  | maxu (e : Nat) (d a b : BitVec 5)
  | clz (e : Nat) (d a : BitVec 5)
  | ctz (e : Nat) (d a : BitVec 5)
  | popc (e : Nat) (d a : BitVec 5)
  | addi (e : Nat) (d a : BitVec 5) (imm : BitVec 16)
  | andi (e : Nat) (d a : BitVec 5) (imm : BitVec 16)
  | ori (e : Nat) (d a : BitVec 5) (imm : BitVec 16)
  | xori (e : Nat) (d a : BitVec 5) (imm : BitVec 16)
  | slti (e : Nat) (d a : BitVec 5) (imm : BitVec 16)
  | sltiu (e : Nat) (d a : BitVec 5) (imm : BitVec 16)
  | shi (e : Nat) (d a : BitVec 5) (imm : BitVec 16)
  | li (e : Nat) (d : BitVec 5) (imm : BitVec 16)
  | lsh (e : Nat) (d a : BitVec 5) (imm : BitVec 16)
  | setvl (e : Nat) (d a : BitVec 5) (imm : BitVec 16)
  | mfc (e : Nat) (d : BitVec 5) (imm : BitVec 16)
  | mtc (e : Nat) (a : BitVec 5) (imm : BitVec 16)
  | lds (e : Nat) (t a : BitVec 5) (sz : BitVec 2) (sx : BitVec 1) (off : BitVec 12)
  | sts (e : Nat) (t a : BitVec 5) (sz : BitVec 2) (off : BitVec 12)
  | vld (e : Nat) (t a : BitVec 5) (m : BitVec 1) (mk : BitVec 3) (ff : BitVec 1) (off : BitVec 11)
  | vst (e : Nat) (t a : BitVec 5) (m : BitVec 1) (mk : BitVec 3) (ff : BitVec 1) (off : BitVec 11)
  | aadd (e : Nat) (a b : BitVec 5)
  | aswp (e : Nat) (a b : BitVec 5)
  | fetch (e : Nat) (d a b : BitVec 5) (m : BitVec 1) (mk : BitVec 3)
  | ths (e : Nat) (d a b : BitVec 5)
  | thn (e : Nat) (d a : BitVec 5)
  | thw (e : Nat) (a b : BitVec 5)
  | mld (e : Nat) (d a : BitVec 5)
  | mst (e : Nat) (a b : BitVec 5)
  | beq (e : Nat) (a b : BitVec 5) (off : BitVec 16)
  | bne (e : Nat) (a b : BitVec 5) (off : BitVec 16)
  | blt (e : Nat) (a b : BitVec 5) (off : BitVec 16)
  | bge (e : Nat) (a b : BitVec 5) (off : BitVec 16)
  | bltu (e : Nat) (a b : BitVec 5) (off : BitVec 16)
  | bgeu (e : Nat) (a b : BitVec 5) (off : BitVec 16)
  | j (e : Nat) (off : BitVec 26)
  | jal (e : Nat) (off : BitVec 26)
  | jalr (e : Nat) (d a : BitVec 5)
  | vadd (e : Nat) (d a b : BitVec 5) (m : BitVec 1) (mk : BitVec 3) (s : BitVec 1)
  | vsub (e : Nat) (d a b : BitVec 5) (m : BitVec 1) (mk : BitVec 3) (s : BitVec 1)
  | vmul (e : Nat) (d a b : BitVec 5) (m : BitVec 1) (mk : BitVec 3) (s : BitVec 1)
  | vand (e : Nat) (d a b : BitVec 5) (m : BitVec 1) (mk : BitVec 3) (s : BitVec 1)
  | vor (e : Nat) (d a b : BitVec 5) (m : BitVec 1) (mk : BitVec 3) (s : BitVec 1)
  | vxor (e : Nat) (d a b : BitVec 5) (m : BitVec 1) (mk : BitVec 3) (s : BitVec 1)
  | vsll (e : Nat) (d a b : BitVec 5) (m : BitVec 1) (mk : BitVec 3) (s : BitVec 1)
  | vsrl (e : Nat) (d a b : BitVec 5) (m : BitVec 1) (mk : BitVec 3) (s : BitVec 1)
  | vsra (e : Nat) (d a b : BitVec 5) (m : BitVec 1) (mk : BitVec 3) (s : BitVec 1)
  | vmin (e : Nat) (d a b : BitVec 5) (m : BitVec 1) (mk : BitVec 3) (s : BitVec 1)
  | vmax (e : Nat) (d a b : BitVec 5) (m : BitVec 1) (mk : BitVec 3) (s : BitVec 1)
  | vminu (e : Nat) (d a b : BitVec 5) (m : BitVec 1) (mk : BitVec 3) (s : BitVec 1)
  | vmaxu (e : Nat) (d a b : BitVec 5) (m : BitVec 1) (mk : BitVec 3) (s : BitVec 1)
  | vaddcS (e : Nat) (d a b : BitVec 5) (m : BitVec 1) (mk : BitVec 3) (s : BitVec 1)
  | vaddcU (e : Nat) (d a b : BitVec 5) (m : BitVec 1) (mk : BitVec 3) (s : BitVec 1)
  | vsubcS (e : Nat) (d a b : BitVec 5) (m : BitVec 1) (mk : BitVec 3) (s : BitVec 1)
  | vsubcU (e : Nat) (d a b : BitVec 5) (m : BitVec 1) (mk : BitVec 3) (s : BitVec 1)
  | vmulcS (e : Nat) (d a b : BitVec 5) (m : BitVec 1) (mk : BitVec 3) (s : BitVec 1)
  | vmv (e : Nat) (d a : BitVec 5) (m : BitVec 1) (mk : BitVec 3)
  | vbcast (e : Nat) (d b : BitVec 5) (m : BitVec 1) (mk : BitVec 3)
  | vfadd (e : Nat) (d a b : BitVec 5) (m : BitVec 1) (mk : BitVec 3) (s : BitVec 1)
  | vfsub (e : Nat) (d a b : BitVec 5) (m : BitVec 1) (mk : BitVec 3) (s : BitVec 1)
  | vfmul (e : Nat) (d a b : BitVec 5) (m : BitVec 1) (mk : BitVec 3) (s : BitVec 1)
  | vfdiv (e : Nat) (d a b : BitVec 5) (m : BitVec 1) (mk : BitVec 3) (s : BitVec 1)
  | vfmin (e : Nat) (d a b : BitVec 5) (m : BitVec 1) (mk : BitVec 3) (s : BitVec 1)
  | vfmax (e : Nat) (d a b : BitVec 5) (m : BitVec 1) (mk : BitVec 3) (s : BitVec 1)
  | vfabs (e : Nat) (d a : BitVec 5) (m : BitVec 1) (mk : BitVec 3)
  | vfneg (e : Nat) (d a : BitVec 5) (m : BitVec 1) (mk : BitVec 3)
  | vcmp (e : Nat) (d a b : BitVec 5) (m : BitVec 1) (mk : BitVec 3) (s : BitVec 1) (kind : BitVec 2) (cond : BitVec 3)
  | mand (e : Nat) (d a b : BitVec 3)
  | mor (e : Nat) (d a b : BitVec 3)
  | mxor (e : Nat) (d a b : BitVec 3)
  | mandn (e : Nat) (d a b : BitVec 3)
  | mnot (e : Nat) (d a : BitVec 3)
  | mset (e : Nat) (d : BitVec 3)
  | mpop (e : Nat) (d : BitVec 5) (a : BitVec 3)
  | mffs (e : Nat) (d : BitVec 5) (a : BitVec 3)
  | mfromg (e : Nat) (d : BitVec 3) (a : BitVec 5)
  | mtog (e : Nat) (d : BitVec 5) (a : BitVec 3)
  | vcmprs (e : Nat) (d a : BitVec 5) (m : BitVec 1) (mk : BitVec 3)
  | vexpnd (e : Nat) (d a : BitVec 5) (m : BitVec 1) (mk : BitVec 3)
  | vscan (e : Nat) (d a : BitVec 5) (m : BitVec 1) (mk : BitVec 3)
  | vsort (e : Nat) (d a : BitVec 5) (m : BitVec 1) (mk : BitVec 3)
  | vsortp (e : Nat) (d a : BitVec 5) (m : BitVec 1) (mk : BitVec 3)
  | vunpk (e : Nat) (d a b : BitVec 5) (m : BitVec 1) (mk : BitVec 3) (s : BitVec 1)
  | vext (e : Nat) (d a b : BitVec 5)
  | vins (e : Nat) (d a b : BitVec 5)
  | vwidenS (e : Nat) (d a : BitVec 5) (m : BitVec 1) (mk : BitVec 3)
  | vwidenU (e : Nat) (d a : BitVec 5) (m : BitVec 1) (mk : BitVec 3)
  | vnarrow (e : Nat) (d a : BitVec 5) (m : BitVec 1) (mk : BitVec 3)
  | vcvtIf (e : Nat) (d a : BitVec 5) (m : BitVec 1) (mk : BitVec 3)
  | vcvtFi (e : Nat) (d a : BitVec 5) (m : BitVec 1) (mk : BitVec 3)
  | vcvtSd (e : Nat) (d a : BitVec 5) (m : BitVec 1) (mk : BitVec 3)
  | vcvtDs (e : Nat) (d a : BitVec 5) (m : BitVec 1) (mk : BitVec 3)
  | hashc (e : Nat) (d a b : BitVec 5) (m : BitVec 1) (mk : BitVec 3) (s : BitVec 1)
  | hashm (e : Nat) (d a b : BitVec 5) (m : BitVec 1) (mk : BitVec 3) (s : BitVec 1)
  | xclr (e : Nat) (d : BitVec 2)
  | xaddf (e : Nat) (d : BitVec 2) (a : BitVec 5) (m : BitVec 1) (mk : BitVec 3)
  | xaddi (e : Nat) (d : BitVec 2) (a : BitVec 5) (m : BitVec 1) (mk : BitVec 3)
  | xmacf (e : Nat) (d : BitVec 2) (a b : BitVec 5) (m : BitVec 1) (mk : BitVec 3) (s : BitVec 1)
  | xmrg (e : Nat) (d a : BitVec 2)
  | xrnd (e : Nat) (d : BitVec 5) (a : BitVec 2)
  | xrnds (e : Nat) (d : BitVec 5) (a : BitVec 2)
  | xrdw (e : Nat) (d : BitVec 5) (a : BitVec 2) (b : BitVec 5)
  | xpost (e : Nat) (a : BitVec 2) (b : BitVec 5)
  | xld (e : Nat) (d : BitVec 2) (a : BitVec 5)
  | xst (e : Nat) (a : BitVec 2) (b : BitVec 5)
  | bnext (e : Nat) (d : BitVec 5)
  | emit (e : Nat) (a b : BitVec 5) (m : BitVec 1) (mk : BitVec 3)
  | emitend (e : Nat)
  | spawn (e : Nat) (a b : BitVec 5)
  | commit (e : Nat)
  -- power, pins, clocks (R443–R503)
  | powerGoodRise (badSlots : List (Nat × Nat))
  | powerGoodFall
  | perstNAssert
  | perstNDeassert (badSlots : List (Nat × Nat))
  | hotReset (badSlots : List (Nat × Nat))
  | efuraStartTimeout
  | coldStartComplete (finds : ColdFinds)
  | refclkLoss (c : RefClk)
  | refclkReturn (c : RefClk)
  | hbmRefclkHoldExpiry
  | pwrbrkNAssert
  | pwrbrkNDeassert
  | ppsInEdge
  | ppsOutEdge
  | deviceReset (value : Word) (badSlots : List (Nat × Nat))
  | maintHoldWrite (value : Word)
  -- registers (R509–R517)
  | registerWrite (sp : RegSpace) (off size : Nat) (value : Word)
  | latchedLowHalfRead (off : Nat)
  | badRegisterAccess (sp : RegSpace) (off size : Nat) (write : Bool)
  | settingsPersist (flash : Flash)
  -- queues (R316–R333)
  | enableAdminQueues (inst : Nat)
  | disableAdminQueues (inst : Nat)
  | sqTailDoorbell (inst k : Nat) (value : Word) (stores : HostStores)
  | cqHeadDoorbell (inst k : Nat) (value : Word)
  | pushWindowWrite (inst k off : Nat) (data : Bytes)
  | fetchEntries
  | interruptCoalesceTimer (inst k : Nat)
  -- admin commands (R336): the fetched command of one function, SQ and CID
  | identify (inst sq cid : Nat)
  | getLogPage (inst sq cid : Nat)
  | setFeatures (inst sq cid : Nat)
  | getFeatures (inst sq cid : Nat)
  | firmwareImageDownload (inst sq cid : Nat)
  | firmwareCommit (inst sq cid : Nat)
  | activationLoaded (digestOk : Bool)
  | activationReady
  | activationTimeout
  | createSubmissionQueue (inst sq cid : Nat)
  | deleteSubmissionQueue (inst sq cid : Nat)
  | createCompletionQueue (inst sq cid : Nat)
  | deleteCompletionQueue (inst sq cid : Nat)
  | asynchronousEventRequest (inst sq cid : Nat)
  | createInstance (inst sq cid : Nat)
  | quiesceInstance (inst sq cid : Nat)
  | quiesceComplete (inst : Nat)
  | resumeInstance (inst sq cid : Nat)
  | removeInstance (inst sq cid : Nat)
  | setInstanceShare (inst sq cid : Nat)
  | functionLevelReset (inst : Nat)
  -- I/O commands (R337)
  | loadFolio (inst sq cid : Nat)
  | submitFolio (inst sq cid : Nat)
  | cancelFolio (inst sq cid : Nat)
  | loadSegments (inst sq cid : Nat)
  | readResults (inst sq cid : Nat)
  | thumbLoad (inst sq cid : Nat)
  | copy (inst sq cid : Nat)
  | cipher (inst sq cid : Nat)
  | cipherJobComplete (page : Nat) (coreFaults : List Nat)   -- the cores of chunks detected faulty and run again (R472, R476)
  | digest (inst sq cid : Nat)
  | digestJobStart
  | digestJobComplete (unit : Nat) (fault : Bool)              -- a block was detected faulty on two units (R476)
  | pressCompress (inst sq cid : Nat)
  | pressDecompress (inst sq cid : Nat)
  | pressRegisterDictionary (inst sq cid : Nat)
  | pressJobStart
  | pressJobComplete (unit : Nat) (fault : Bool)               -- the unit was detected faulty (R472, R476)
  | associationBind (inst sq cid : Nat)
  | associationUnbind (inst sq cid : Nat)
  | associationOpen (inst sq cid : Nat)
  | associationClose (inst sq cid : Nat)
  | associationRekey (inst sq cid : Nat)
  | flush (inst sq cid : Nat)
  -- Cutter, Collator, power controller, engine events
  | cutLeaf (inst sub sig : Nat)
  | dispatchPass
  | traceRingEnable (ring : Option Nat) (value : Word)
  | budgetRefill (otherMilliW : Nat)
  | creditRefill
  | powerEstimateTick (milliW : Nat)
  | telemetryRead (rails : List RailRead)
  | thermalSensorRead (r : Thermal)
  | voltageTargetRevision (busOk : List Bool) (usedPercent : List Nat)
  | stepLimitReached (e : Nat)
  | stallWatchdogExpiry (e : Nat)
  | engineFaultDetected (e mech : Nat)
  | engineFaultCount (e : Nat)
  | commitApplied (leaf : Word)
  | completionReportWrite (inst sub : Nat)
  | trimmerBatch (t : Nat)
  | mergerBatch (q : Nat)
  | fetchDeliver (e : Nat)
  | pagerSweep (inst : Nat)
  | pageEvictComplete (inst va : Nat)
  | pageRestoreComplete (inst va : Nat) (badBlocks : List Nat)
  | frameZeroComplete (frame : Nat)
  | pageTableWalk (value : Word)
  | pageTableWalkComplete
  | qmRsetWrite (inst k : Nat) (value : Word)
  | qmScrubRead (q off : Nat) (found : CheckOutcome)
  | marchStart (q : Nat) (value : Word)
  | marchRun (q : Nat) (fails : List (Nat × Nat × Nat)) (unmaskable : Bool)
  | marchComplete (q : Nat)
  | thumbBankRetention (q bank : Nat)
  | thumbBankWakeComplete (q bank : Nat)
  | thumbThrottleUpdate (q : Nat)
  | hbmRefresh (c bank : Nat)
  | hbmScrubRead (c : Nat) (found : CheckOutcome)
  | hbmRecalibration (c : Nat) (found : Bool)
  | channelMigration (c : Nat)
  | channelMapOutComplete (c : Nat)
  | cxlLinkDown (p : Nat)
  | cxlRetrainTimeout (p : Nat)
  -- fabric (chapter 10)
  | receiveData (f : Frame)
  | receiveAck (f : Frame)
  | receiveProbe (f : Frame)
  | receiveProbeReply (f : Frame)
  | receiveRekey (f : Frame)
  | receiveClose (f : Frame)
  | receiveCloseAck (f : Frame)
  | receiveEstablish (f : Frame)
  | receiveSlowPathFrame (f : Frame)
  | receiveOtherFrame (f : Frame)
  | receivePfcFrame (port prio : Nat) (pause : Bool)
  | pfcWatchdogExpiry (port prio : Nat)
  | pfcIgnoreEnd (port prio : Nat)
  | sendData (a : Nat)
  | ackDelayTimer (a : Nat)
  | backlogAckTimer (a : Nat)
  | retransmitTimeout (a : Nat)
  | rateControlPeriod (a : Nat)
  | pathProbeTimer (a path : Nat)
  | assocNoPathTimeout (a : Nat)
  | assocOpenTimeout (a : Nat)
  | establishHelloRepeat (a : Nat)
  | unpairedHelloExpiry (n : Nat)
  | rekeyPolicyTimer (a : Nat)
  | rekeyKeyEraseTimer (a : Nat)
  | portAlignmentLoss (port : Nat) (lanes : List Nat)
  | portRetrainComplete (port : Nat) (badLanes : List Nat)
  | fabGroupModeWrite (g : Nat) (value : Word)
  | portAddressWrite (off : Nat) (value : Word)
  -- aperture, mailboxes, copy engines
  | apertureRead (w off : Nat)
  | apertureAnswer (a : ApAnswer)
  | apertureDeadline (n : Nat)
  | apertureWrite (w off : Nat)
  | apertureSpeculativeRead (w off : Nat)
  | apertureWindowConfigWrite (w : Nat) (value : Word)
  | hbmWindowAccess (off size : Nat) (store : Option Bytes)
  | mailboxUpDoorbell (inst : Nat) (value : Word)
  | mailboxDownDoorbell (inst : Nat) (value : Word)
  | mailboxTimeout (inst : Nat) (up : Bool)
  | copyDescriptorStart (c : Nat)
  | copyDescriptorComplete (c : Nat)
  | copyDescriptorFail (c : Nat) (cause : CopyCause)
  | copyLateWriteError (c : Nat) (desc tag : Word) (cause : Nat)
  | copyResumeDoorbell (inst k : Nat) (stores : HostStores)
  -- Slipcase, SPDM, IDE, TDISP
  | slipcaseWatchdogExpiry
  | lockstepMismatch
  | slipcaseRestartComplete
  | setDomainPolicy (s : Session) (domain : Bytes) (rekeyHours : Nat) (ownerHash : Bytes)
  | advanceFuseSvn (s : Session) (svn : Nat)
  | spdmRequest (s : Session) (r : SpdmReq)
  | ideKmQuery (s : Session) (stream : Nat)
  | ideKmKeyProg (s : Session) (stream dir slot : Nat) (key : Bytes)
  | ideKmKeySetGo (s : Session) (stream dir slot : Nat)
  | ideKmKeySetStop (s : Session) (stream dir slot : Nat)
  | lockInterface (vf : Nat)
  | getDeviceInterfaceReport (vf : Nat)
  | tdiRequestRejected (vf : Nat)
  -- faults and logs (chapter 19)
  | progressMonitorExpiry (r : Stuck)
  | controlFaultDetected (b : ControlBlock) (die : Nat) (again : Bool) (req : Option (Nat × Nat × Nat))
  | spineFaultDetected (f : SpineFault)
  | faultInjectArm (value : Word)
  | logRecordFlush (flash : Flash)
  | optimeSave (flash : Flash)
  -- links, decoders and secure services (rows at the table's end)
  | cxlLinkRetrainComplete (p : Nat)
  | hdmDecoderCommit (k base size : Nat)
  | smbusMctpMessage (read : Bool)
  | atsInvalidation (inst addr length : Nat)
  | tdiRun (vf stream : Nat)
  | xtsReserveRefill
deriving DecidableEq, Repr

end Sys2Proof
end

