-- ==== Sys2Proof/Decode.lean ====
section
/-! DEFINITION. The table of operations and events gives no row any bits, so no word spells a command: commands
reach the block as rows with operands. The words of operator engine instructions (R100) are decoded in
`Sys2Proof.Machine.EngineWord`, from the instruction memory of the engine. -/
namespace Sys2Proof

/-- The command that a word spells by the table's bits: the table gives no row bits, so none. -/
def decodeTableWord (_nbits _w : Nat) : Option Instr := none

end Sys2Proof
end

