-- ==== Sys2Proof/Machine/Bits.lean ====
section
/-! DEFINITION. Helpers over sparse tables, bytes and bit fields: little-endian fields (R4), sign extension, and
the CRC-32C of the formats. -/
namespace Sys2Proof.Machine

/-- The entry of a table at `k`, if listed. -/
def Tab.find {α : Type} (t : Tab α) (k : Nat) : Option α :=
  match t with
  | [] => none
  | (k', v) :: r => if k' = k then some v else Tab.find r k

/-- The entry of a table at `k`, or the value an unlisted number reads as. -/
def Tab.get {α : Type} (t : Tab α) (k : Nat) (d : α) : α := (Tab.find t k).getD d

/-- Replaces or inserts the entry at `k`; numbers stay rising. -/
def Tab.set {α : Type} (t : Tab α) (k : Nat) (v : α) : Tab α :=
  match t with
  | [] => [(k, v)]
  | (k', v') :: r =>
    if k < k' then (k, v) :: (k', v') :: r
    else if k = k' then (k, v) :: r
    else (k', v') :: Tab.set r k v

/-- Removes the entry at `k`. -/
def Tab.del {α : Type} (t : Tab α) (k : Nat) : Tab α := t.filter (fun p => p.1 != k)

/-- Applies `f` to the listed entry at `k`; an unlisted number stays unlisted. -/
def Tab.upd {α : Type} (t : Tab α) (k : Nat) (f : α → α) : Tab α :=
  t.map (fun p => if p.1 = k then (p.1, f p.2) else p)

/-- Is number `k` listed? -/
def Tab.has {α : Type} (t : Tab α) (k : Nat) : Bool := t.any (fun p => p.1 == k)

/-- Replaces element `i` of a list. -/
def setAt {α : Type} (l : List α) (i : Nat) (v : α) : List α := l.set i v

/-- Applies `f` to the elements that satisfy `p`. -/
def updWhere {α : Type} (l : List α) (p : α → Bool) (f : α → α) : List α :=
  l.map (fun x => if p x then f x else x)

/-- Bits [hi:lo] of a number. -/
def bits (v hi lo : Nat) : Nat := (v >>> lo) % 2 ^ (hi + 1 - lo)

/-- Bit `k` of a number. -/
def bitAt (v k : Nat) : Bool := (v >>> k) % 2 == 1

/-- A Bool as a bit. -/
def b2n (b : Bool) : Nat := if b then 1 else 0

/-- `n` bytes of `v`, least significant first (R4). -/
def leBytes : Nat → Nat → Bytes
  | 0, _ => []
  | n + 1, v => BitVec.ofNat 8 v :: leBytes n (v / 256)

/-- The number of a little-endian byte string (R4). -/
def ofLe : Bytes → Nat
  | [] => 0
  | b :: r => b.toNat + 256 * ofLe r

/-- The number of a big-endian byte string (the orders of IEEE 802.3 and IP headers, R4, and of the ciphers). -/
def ofBe (b : Bytes) : Nat := b.foldl (fun acc x => acc * 256 + x.toNat) 0

/-- `n` bytes of `v`, most significant first. -/
def beBytes (n v : Nat) : Bytes := (leBytes n v).reverse

/-- `n` zero bytes. -/
def zeros (n : Nat) : Bytes := List.replicate n 0

/-- Bytes `off` to `off + n − 1` of a string; bytes past its end read zero. -/
def slice (b : Bytes) (off n : Nat) : Bytes :=
  let t := (b.drop off).take n
  t ++ zeros (n - t.length)

/-- The little-endian field of `n` bytes at `off`. -/
def fld (b : Bytes) (off n : Nat) : Nat := ofLe (slice b off n)

/-- Pads with zeros to `n` bytes, or cuts to `n`. -/
def sumOf (l : List Nat) : Nat := l.foldl (· + ·) 0

def padTo (b : Bytes) (n : Nat) : Bytes := slice b 0 n

/-- Are bytes `off` to `off + n − 1` all zero? -/
def zeroAt (b : Bytes) (off n : Nat) : Bool := (slice b off n).all (· == 0)

/-- A two's-complement number of `w` bits. -/
def signed (v w : Nat) : Int :=
  let v := v % 2 ^ w
  if v < 2 ^ (w - 1) then (v : Int) else (v : Int) - (2 ^ w : Nat)

/-- The `w`-bit two's-complement image of an integer. -/
def unsigned (i : Int) (w : Nat) : Nat := (i % (2 ^ w : Nat)).toNat

/-- One bit step of the reflected CRC-32C polynomial 0x82F6_3B78. -/
def crcStep (c : Nat) : Nat := if c % 2 = 1 then (c / 2) ^^^ 0x82F63B78 else c / 2

/-- One byte of CRC-32C. -/
def crcByte (c : Nat) (b : Byte) : Nat :=
  let c := c ^^^ b.toNat
  crcStep (crcStep (crcStep (crcStep (crcStep (crcStep (crcStep (crcStep c)))))))

/-- CRC-32C over a byte string from register value `init`, without the final inversion. -/
def crcRaw (init : Nat) (b : Bytes) : Nat := b.foldl crcByte init

/-- CRC-32C (Castagnoli) of a byte string. -/
def crc32c (b : Bytes) : Nat := crcRaw 0xFFFFFFFF b ^^^ 0xFFFFFFFF

/-- ASCII bytes of a list of character codes. -/
def ascii (s : String) : Bytes := s.toList.map (fun c => BitVec.ofNat 8 c.toNat)

/-- The number of set bits below `n`. -/
def popcount : Nat → Nat → Nat
  | 0, _ => 0
  | n + 1, v => (v % 2) + popcount n (v / 2)

/-- Ceiling of a division. -/
def ceilDiv (a b : Nat) : Nat := (a + b - 1) / b

/-- Floor of the base-2 logarithm (0 for 0). -/
def log2 (n : Nat) : Nat := n.log2

/-- The first element of a list that satisfies `p`, with its index. -/
def findIdxFrom {α : Type} (p : α → Bool) : List α → Nat → Option (Nat × α)
  | [], _ => none
  | x :: r, i => if p x then some (i, x) else findIdxFrom p r (i + 1)

/-- Insertion into a list sorted by `le`, after equal elements (stable). -/
def insertBy {α : Type} (le : α → α → Bool) (x : α) : List α → List α
  | [] => [x]
  | y :: r => if le y x then y :: insertBy le x r else x :: y :: r

/-- Stable insertion sort. -/
def sortBy {α : Type} (le : α → α → Bool) (l : List α) : List α :=
  l.foldl (fun acc x => insertBy le x acc) []

/-- A list without repeats, first occurrences kept. -/
def dedup {α : Type} [DecidableEq α] (l : List α) : List α :=
  l.foldl (fun acc x => if acc.contains x then acc else acc ++ [x]) []

end Sys2Proof.Machine
end

