-- ==== Sys2Proof/Machine/Aes.lean ====
section
/-! DEFINITION. AES and the modes that the manual names: XTS for stored pages (R232), and CBC, CTR, GCM and key
wrap for the cipher complex (R400). Blocks are 16 bytes, the first byte of the standard's block first. -/
namespace Sys2Proof.Machine

/-- Multiplication by x in GF(2^8) of AES. -/
def xtime (a : Nat) : Nat := let b := a * 2; if 256 ≤ b then (b ^^^ 0x11B) % 256 else b

/-- Multiplication in GF(2^8) of AES, bit by bit of the second factor. -/
def gfMulAux : Nat → Nat → Nat → Nat
  | 0, _, _ => 0
  | n + 1, a, b => (if b % 2 = 1 then a else 0) ^^^ gfMulAux n (xtime a) (b / 2)

def gfMul (a b : Nat) : Nat := gfMulAux 8 a b

/-- Inverse in GF(2^8), as the 254th power. -/
def gfInv (a : Nat) : Nat :=
  let a2 := gfMul a a
  let a4 := gfMul a2 a2
  let a8 := gfMul a4 a4
  let a16 := gfMul a8 a8
  let a32 := gfMul a16 a16
  let a64 := gfMul a32 a32
  let a128 := gfMul a64 a64
  gfMul a128 (gfMul a64 (gfMul a32 (gfMul a16 (gfMul a8 (gfMul a4 a2)))))

/-- An 8-bit rotation to the left. -/
def rotl8 (a n : Nat) : Nat := ((a <<< n) ||| (a >>> (8 - n))) % 256

/-- The AES S-box. -/
def aesSub (a : Nat) : Nat :=
  let i := gfInv a
  i ^^^ rotl8 i 1 ^^^ rotl8 i 2 ^^^ rotl8 i 3 ^^^ rotl8 i 4 ^^^ 0x63

/-- The inverse S-box. -/
def aesSubInv (b : Nat) : Nat := gfInv (rotl8 b 1 ^^^ rotl8 b 3 ^^^ rotl8 b 6 ^^^ 0x05)

/-- Element `i` of a list of numbers, 0 past its end. -/
def nth (l : List Nat) (i : Nat) : Nat := l.getD i 0

def xorL (a b : List Nat) : List Nat := List.zipWith (· ^^^ ·) a b

/-- The words of the key schedule (4 bytes each), extended by `n` words. -/
def aesExpand (nk : Nat) : Nat → Nat → List (List Nat) → List (List Nat)
  | 0, _, ws => ws
  | n + 1, rcon, ws =>
    let i := ws.length
    let prev := ws.getLastD [0, 0, 0, 0]
    let t :=
      if i % nk = 0 then
        let r := [nth prev 1, nth prev 2, nth prev 3, nth prev 0].map aesSub
        xorL r [rcon, 0, 0, 0]
      else if nk > 6 ∧ i % nk = 4 then prev.map aesSub
      else prev
    let w := xorL (ws.getD (i - nk) [0, 0, 0, 0]) t
    aesExpand nk n (if i % nk = 0 then xtime rcon else rcon) (ws ++ [w])

/-- Splits a list into groups of `k`, at most `n` of them. -/
def groups {α : Type} (k : Nat) : Nat → List α → List (List α)
  | 0, _ => []
  | n + 1, l => if l = [] then [] else l.take k :: groups k n (l.drop k)
termination_by structural n => n

/-- The round keys of a 16- or 32-byte key, 16 bytes each. -/
def aesKeys (key : List Nat) : List (List Nat) :=
  let nk := key.length / 4
  let rounds := nk + 6
  let ws := aesExpand nk (4 * (rounds + 1) - nk) 1 (groups 4 8 key)
  (groups 4 15 ws).map List.flatten

def shiftRows (b : List Nat) : List Nat :=
  (List.range 16).map (fun i => nth b ((i + 4 * (i % 4)) % 16))

def unshiftRows (b : List Nat) : List Nat :=
  (List.range 16).map (fun i => nth b ((i + 16 - 4 * (i % 4)) % 16))

/-- MixColumns with the coefficients of one row of its matrix. -/
def mixCols (c0 c1 c2 c3 : Nat) (b : List Nat) : List Nat :=
  (List.range 16).map (fun i =>
    let k := 4 * (i / 4)
    let r := i % 4
    gfMul (nth b (k + r)) c0 ^^^ gfMul (nth b (k + (r + 1) % 4)) c1
      ^^^ gfMul (nth b (k + (r + 2) % 4)) c2 ^^^ gfMul (nth b (k + (r + 3) % 4)) c3)

/-- The rounds of AES encryption after the first key addition. -/
def aesRounds : List (List Nat) → List Nat → List Nat
  | [], b => b
  | [k], b => xorL (shiftRows (b.map aesSub)) k
  | k :: r, b => aesRounds r (xorL (mixCols 2 3 1 1 (shiftRows (b.map aesSub))) k)

/-- The rounds of AES decryption, round keys last first. -/
def aesUnrounds : List (List Nat) → List Nat → List Nat
  | [], b => b
  | [k], b => xorL ((unshiftRows b).map aesSubInv) k
  | k :: r, b => aesUnrounds r (mixCols 14 11 13 9 (xorL ((unshiftRows b).map aesSubInv) k))

def toNats (b : Bytes) : List Nat := b.map BitVec.toNat
def ofNats (l : List Nat) : Bytes := l.map (BitVec.ofNat 8)

/-- AES encryption of one block under a 16- or 32-byte key. -/
def aesEnc (key blk : Bytes) : Bytes :=
  match aesKeys (toNats key) with
  | [] => blk
  | k :: r => ofNats (aesRounds r (xorL (toNats blk) k))

/-- AES decryption of one block. -/
def aesDec (key blk : Bytes) : Bytes :=
  match (aesKeys (toNats key)).reverse with
  | [] => blk
  | k :: r => ofNats (aesUnrounds r (xorL (toNats blk) k))

def xorB (a b : Bytes) : Bytes := List.zipWith (· ^^^ ·) a b

/-- Multiplication of an XTS tweak (a little-endian number) by x. -/
def xtsMul (t : Nat) : Nat := let u := t * 2; if 2 ^ 128 ≤ u then (u - 2 ^ 128) ^^^ 0x87 else u

/-- The 16-byte pieces of a byte string. -/
def blocks16 (b : Bytes) : List Bytes := groups 16 (b.length / 16 + 1) b

/-- XTS over whole blocks, from a tweak. -/
def xtsBlocks (f : Bytes → Bytes) : List Bytes → Nat → Bytes
  | [], _ => []
  | b :: r, t =>
    let tb := leBytes 16 t
    xorB (f (xorB b tb)) tb ++ xtsBlocks f r (xtsMul t)

/-- The first tweak of a data unit: the unit's number under the second key. -/
def xtsTweak (key2 : Bytes) (tweak : Nat) : Nat := ofLe (aesEnc key2 (leBytes 16 tweak))

/-- XTS encryption of a data unit of at least one block, with ciphertext stealing for a partial last block
(IEEE 1619). -/
def xtsEnc (key1 key2 : Bytes) (tweak : Nat) (d : Bytes) : Bytes :=
  let t0 := xtsTweak key2 tweak
  let n := d.length / 16
  let p := d.length % 16
  if p = 0 then xtsBlocks (aesEnc key1) (blocks16 d) t0
  else
    let whole := xtsBlocks (aesEnc key1) (blocks16 (d.take (16 * n))) t0
    let cc := whole.drop (16 * (n - 1))
    let last := d.drop (16 * n)
    let tn := (List.range n).foldl (fun t _ => xtsMul t) t0
    whole.take (16 * (n - 1)) ++ xtsBlocks (aesEnc key1) [last ++ cc.drop p] tn ++ cc.take p

/-- XTS decryption of a data unit. -/
def xtsDec (key1 key2 : Bytes) (tweak : Nat) (d : Bytes) : Bytes :=
  let t0 := xtsTweak key2 tweak
  let n := d.length / 16
  let p := d.length % 16
  if p = 0 then xtsBlocks (aesDec key1) (blocks16 d) t0
  else
    let head := xtsBlocks (aesDec key1) (blocks16 (d.take (16 * (n - 1)))) t0
    let tm := (List.range (n - 1)).foldl (fun t _ => xtsMul t) t0
    let tn := xtsMul tm
    let pp := xtsBlocks (aesDec key1) [(d.drop (16 * (n - 1))).take 16] tn
    let last := d.drop (16 * n)
    head ++ xtsBlocks (aesDec key1) [last ++ pp.drop p] tm ++ pp.take p

/-- Multiplication in GF(2^128) of GHASH; the first bit of a block is its most significant. -/
def ghashMulAux : Nat → Nat → Nat → Nat
  | 0, _, _ => 0
  | n + 1, v, y =>
    (if bitAt y n then v else 0) ^^^ ghashMulAux n (if v % 2 = 1 then (v / 2) ^^^ (0xE1 <<< 120) else v / 2) y

def ghashMul (x y : Nat) : Nat := ghashMulAux 128 x y

/-- GHASH over whole blocks from a state. -/
def ghash (h st : Nat) (d : Bytes) : Nat :=
  (blocks16 d).foldl (fun y b => ghashMul (y ^^^ ofBe (padTo b 16)) h) st

/-- The counter block `n` places after `c`: the last four bytes count modulo 2^32. -/
def incr32 (c : Nat) (n : Nat) : Nat := (c >>> 32) <<< 32 ||| ((c + n) % 2 ^ 32)

/-- A key stream applied to data: the encryptions of successive counters. -/
def ctrBlocks (key : Bytes) (next : Nat → Nat) : List Bytes → Nat → Bytes
  | [], _ => []
  | b :: r, c => xorB b (aesEnc key (beBytes 16 c)) ++ ctrBlocks key next r (next c)

/-- CBC encryption from a chaining value. -/
def cbcEnc (key : Bytes) : List Bytes → Bytes → Bytes
  | [], _ => []
  | b :: r, iv => let c := aesEnc key (xorB b iv); c ++ cbcEnc key r c

/-- CBC decryption from a chaining value. -/
def cbcDec (key : Bytes) : List Bytes → Bytes → Bytes
  | [], _ => []
  | b :: r, iv => xorB (aesDec key b) iv ++ cbcDec key r b

/-- One pass of AES key wrap (RFC 3394) over the semiblocks, from step `t`. -/
def kwPass (kek : Bytes) : List Bytes → Bytes → Nat → Bytes × List Bytes
  | [], a, _ => (a, [])
  | r :: rs, a, t =>
    let b := aesEnc kek (a ++ r)
    let a' := xorB (b.take 8) (beBytes 8 t)
    let (a'', out) := kwPass kek rs a' (t + 1)
    (a'', b.drop 8 :: out)

/-- AES key wrap (RFC 3394) of `n` semiblocks. -/
def kwWrap (kek data : Bytes) : Bytes :=
  let rs := groups 8 (data.length / 8 + 1) data
  let n := rs.length
  let (a, out) := (List.range 6).foldl (fun (p : Bytes × List Bytes) j => kwPass kek p.2 p.1 (n * j + 1))
    (List.replicate 8 (0xA6 : Byte), rs)
  a ++ out.flatten

/-- One pass of AES key unwrap, last semiblock first, from step `t` down. -/
def kwUnpass (kek : Bytes) : List Bytes → Bytes → Nat → Bytes × List Bytes
  | [], a, _ => (a, [])
  | r :: rs, a, t =>
    let b := aesDec kek (xorB a (beBytes 8 t) ++ r)
    let (a'', out) := kwUnpass kek rs (b.take 8) (t - 1)
    (a'', b.drop 8 :: out)

/-- AES key unwrap: the data, or none when the check value is wrong. -/
def kwUnwrap (kek data : Bytes) : Option Bytes :=
  let rs := groups 8 (data.length / 8 + 1) (data.drop 8)
  let n := rs.length
  let (a, out) := (List.range 6).foldl
    (fun (p : Bytes × List Bytes) j => kwUnpass kek p.2 p.1 (n * (6 - j))) (data.take 8, rs.reverse)
  if a = List.replicate 8 (0xA6 : Byte) then some out.reverse.flatten else none

end Sys2Proof.Machine
end

