-- ==== Sys2Proof/Config.lean ====
section
/-! DEFINITION. What the manual leaves open: constants without a body, so that nothing can be proved of their
values. Each is applied to what it depends on, or to the counter of fresh values in the state. -/
namespace Sys2Proof

/-- A fresh free value, one per number drawn (undefined bytes, random keys and tags, placement choices). -/
opaque Config.free : Nat → Word

/-- The fused serial number, 16 ASCII bytes (R339, R519): a value of the part. -/
opaque Config.serial : Nat → Byte

/-- The blocks a compressor makes: the manual leaves the matches it finds open (R237, R241). Format, level, the
stream's earlier data and the block. -/
opaque Config.compress : (fmt level : Nat) → (hist : Bytes) → Bytes → Bytes

/-- The width flag of the Frame_Content_Size field that the ZSTD compressor writes (RFC 8878 allows several). -/
opaque Config.fcsFlag : Nat → Nat

/-- Public-key operations of the Slipcase that the manual names by an outside standard only: signatures,
verification and the shared secret of a key exchange (R383, R389, R392). -/
opaque Config.sign : (key : Nat) → Bytes → Bytes
opaque Config.verify : (key : Bytes) → (msg sig : Bytes) → Bool
opaque Config.ecdh : (priv : Nat) → (pub : Bytes) → Bytes

/-- The fused firmware signing keys; `none` for a revoked one (R391, R392). -/
opaque Config.fwKey : Nat → Option Bytes

/-- The public key of a private one; the device's own identity key is private key 0 (R376, R383). -/
opaque Config.pub : Nat → Bytes

/-- Nolryn's signature over this part's serial and identity key, and the public key that verifies it (R383, R384). -/
opaque Config.endorse : Bytes
opaque Config.rootKey : Bytes

/-- The 14-bit hash of an association index and a path in the UDP source port (R290). -/
opaque Config.pathHash : (assoc path : Nat) → Nat

/-- Spare columns of a sub-bank that the factory's fuses have assigned, of its two (R148): quire, bank, sub-bank. -/
opaque Config.fuseSpares : (q bank sub : Nat) → Nat

/-- The SHA-384 digest that a measurement block reports (R389): its index and the data that it measures; the manual does
not say how the data is laid out. -/
opaque Config.measure : (index : Nat) → (what : Bytes) → Bytes

/-- What an answer of the Slipcase holds beyond its code (SPDM 1.3 and IDE_KM, which the manual names and does not
restate): the answer's code, the request's data, a number drawn. -/
opaque Config.answerBody : (code : Nat) → (req : Bytes) → Nat → Bytes

/-- Bytes of a group's receive buffer for one priority, and frames that a group's slow-path queue holds: the manual names both
and gives neither size (R287, R309). -/
opaque Config.rxBuffer : Nat
opaque Config.slowQueue : Nat

/-- The frame that Efura firmware sends of its own accord at an instant, if any, and its port: the manual says that it sends
LLDP and runs PTP, and not when or with what content (R285). -/
opaque Config.efuraFrame : (timebase : Nat) → Option (Nat × Bytes)

end Sys2Proof
end

