-- ==== Sys2Proof/Machine/Lz4.lean ====
section
/-! DEFINITION. The LZ4 block decoder and the Nolryn Press blocks of R245. -/
namespace Sys2Proof.Machine

/-- The extra length bytes of an LZ4 length: each 255 adds and goes on. -/
def lz4Len : Nat → Bytes → Nat → Option (Nat × Bytes)
  | 0, _, _ => none
  | _ + 1, [], _ => none
  | n + 1, b :: r, acc => if b.toNat = 255 then lz4Len n r (acc + 255) else some (acc + b.toNat, r)

/-- Copies `n` bytes from `off` bytes back, byte by byte, onto the output. -/
def lz4Copy (off : Nat) : Nat → Bytes → Bytes
  | 0, out => out
  | n + 1, out => lz4Copy off n (out ++ [out.getD (out.length - off) 0])

/-- The sequences of an LZ4 block; `hist` output bytes precede the block. `none`: malformed. -/
def lz4Seqs : Nat → Bytes → Bytes → Option Bytes
  | 0, _, _ => none
  | _ + 1, [], _ => none
  | n + 1, t :: r, out =>
    let ll := t.toNat / 16
    match (if ll = 15 then lz4Len r.length r 15 else some (ll, r)) with
    | none => none
    | some (ll, r) =>
      if r.length < ll then none
      else
        let out := out ++ r.take ll
        let r := r.drop ll
        if r = [] then some out
        else if r.length < 2 then none
        else
          let off := ofLe (r.take 2)
          let r := r.drop 2
          let ml := t.toNat % 16
          match (if ml = 15 then lz4Len r.length r 15 else some (ml, r)) with
          | none => none
          | some (ml, r) =>
            if off = 0 ∨ out.length < off then none
            else lz4Seqs n r (lz4Copy off (ml + 4) out)

/-- Decodes an LZ4 block after `hist` bytes of history. -/
def lz4Decode (hist blk : Bytes) : Option Bytes :=
  (lz4Seqs (blk.length + 1) blk hist).map (fun o => o.drop hist.length)

/-- LZ4 length bytes beyond 15. -/
def lz4LenBytes : Nat → Nat → Bytes
  | 0, _ => []
  | n + 1, v => if v < 255 then [BitVec.ofNat 8 v] else 255 :: lz4LenBytes n (v - 255)

/-- An LZ4 block of one literal run (R243). -/
def lz4Literal (d : Bytes) : Bytes :=
  if d.length < 15 then BitVec.ofNat 8 (16 * d.length) :: d
  else 0xF0 :: (lz4LenBytes (d.length + 1) (d.length - 15) ++ d)

/-- The LZ4 body of a compressor, checked against its input (R241); `none` when it does not shrink or fails the
self-check. -/
def lz4Body (d : Bytes) : Option Bytes :=
  let c := Config.compress 1 0 [] d
  if c.length < d.length ∧ lz4Decode [] c = some d then some c else none

/-- The 16-byte header of an NPB block (R245). -/
def npbHeader (flags stored orig crc : Nat) : Bytes :=
  leBytes 2 0x424E ++ [0x01, BitVec.ofNat 8 flags] ++ leBytes 4 stored ++ leBytes 4 orig ++ leBytes 4 crc

/-- One NPB block of at most 64 KiB of data. -/
def npbBlock (last : Bool) (d : Bytes) : Bytes :=
  let f := 2 * b2n last
  let crc := crc32c d
  if d.all (· == 0) then npbHeader (f + 4) 0 d.length crc
  else match lz4Body d with
    | some c => npbHeader f c.length d.length crc ++ c
    | none => npbHeader (f + 1) d.length d.length crc ++ d

/-- An NPB stream of data (R245). -/
def npbStream (lastJob : Bool) (d : Bytes) : Bytes :=
  let bs := groups' 65536 (d.length / 65536 + 1) d
  (bs.zipIdx.map (fun p => npbBlock (lastJob && p.2 + 1 == bs.length) p.1)).flatten
where
  groups' (k : Nat) : Nat → Bytes → List Bytes
    | 0, _ => []
    | n + 1, l => if l = [] then [] else l.take k :: groups' k n (l.drop k)

/-- What reading one NPB block gives. -/
inductive NpbRead where
  | good (data rest : Bytes) (last : Bool)
  | badLength            -- malformed, or a declared length disagrees (0x3002)
  | badCheck (orig : Nat) (rest : Bytes) (last : Bool)  -- the CRC-32C fails (0x3003)
deriving DecidableEq, Repr

/-- Reads one NPB block from the front of a stream. -/
def npbRead (b : Bytes) : NpbRead :=
  if b.length < 16 then .badLength
  else
    let flags := fld b 3 1
    let stored := fld b 4 4
    let orig := fld b 8 4
    let body := (b.drop 16).take stored
    let rest := b.drop (16 + stored)
    if fld b 0 2 ≠ 0x424E ∨ fld b 2 1 ≠ 1 ∨ 8 ≤ flags ∨ 65536 < stored ∨ orig = 0 ∨ 65536 < orig
        ∨ body.length < stored then .badLength
    else
      let data :=
        if bitAt flags 2 then (if stored = 0 then some (zeros orig) else none)
        else if bitAt flags 0 then some body
        else lz4Decode [] body
      match data with
      | none => .badLength
      | some d =>
        if d.length ≠ orig then .badLength
        else if crc32c d ≠ fld b 12 4 then .badCheck orig rest (bitAt flags 1)
        else .good d rest (bitAt flags 1)

/-- Decodes a page's NPB blocks from offset `pos` of its image; `bad` tells which stored bytes answer with an error. A block
whose body is bad, whose CRC-32C fails, or that cannot be read, gives `none`; behind a header that cannot be read no block is
found (R236). -/
def npbPage (bad : Nat → Nat → Bool) : Nat → Nat → Bytes → List (Option Bytes)
  | 0, _, _ => []
  | n + 1, pos, b =>
    let next := fun (rest : Bytes) => pos + (b.length - rest.length)
    let lost := fun (rest : Bytes) => bad (pos + 16) (b.length - rest.length - 16)
    match (if bad pos 16 then .badLength else npbRead b) with
    | .good d rest _ => (if lost rest then none else some d) :: npbPage bad n (next rest) rest
    | .badCheck _ rest _ => none :: npbPage bad n (next rest) rest
    | .badLength => none :: npbPage bad n pos []

end Sys2Proof.Machine
end

