-- ==== Sys2Proof/Machine/Zstd.lean ====
section
/-! DEFINITION. The inner coding of a ZSTD compressed block and of a ZSTD dictionary, as RFC 8878 gives it (R237, R238;
log 45): FSE and Huffman tables, literals, sequences, repeated offsets. -/
namespace Sys2Proof.Machine

/-- An FSE distribution: its accuracy log and the normalized counts, −1 for "less than one" (RFC 8878, 4.1.1). -/
structure FseDist where
  al    : Nat
  norms : List Int
deriving DecidableEq, Repr

/-- What a ZSTD block leaves for the next one: Huffman weights, the three sequence distributions, the last three offsets
(RFC 8878, 3.1.1). -/
structure ZState where
  huf  : Option (List Nat) := none
  ll   : Option FseDist := none
  off  : Option FseDist := none
  ml   : Option FseDist := none
  reps : Nat × Nat × Nat := (1, 4, 8)
deriving DecidableEq, Repr

-- ---------------------------------------------------------------- bit streams

/-- The bits of a byte string, least significant first. -/
def bitsOf (b : Bytes) : List Bool := (b.map (fun x => (List.range 8).map (fun k => x.getLsbD k))).flatten

/-- The number of a list of bits, most significant first. -/
def msbNum (l : List Bool) : Nat := l.foldl (fun n b => 2 * n + b2n b) 0

/-- Takes `n` bits, the first one least significant; `none` past the end. -/
def lsbTake (n : Nat) (l : List Bool) : Option (Nat × List Bool) :=
  if l.length < n then none else some (msbNum (l.take n).reverse, l.drop n)

/-- Takes `n` bits, the first one most significant; `none` past the end. -/
def msbTake (n : Nat) (l : List Bool) : Option (Nat × List Bool) :=
  if l.length < n then none else some (msbNum (l.take n), l.drop n)

/-- The bits of a stream that is read from its end: the last byte's highest set bit is the end mark. -/
def backBits (b : Bytes) : Option (List Bool) :=
  if b.getLastD 0 = 0 then none else some (((bitsOf b).reverse.dropWhile (!·)).drop 1)

-- ---------------------------------------------------------------- FSE (RFC 8878, 4.1)

/-- Zero counts after a zero count: two bits at a time, 3 going on. -/
def fseZeros : Nat → List Bool → Option (Nat × List Bool)
  | 0, _ => none
  | f + 1, l => match lsbTake 2 l with
    | none => none
    | some (3, l) => (fseZeros f l).map (fun (p : Nat × List Bool) => (p.1 + 3, p.2))
    | some (n, l) => some (n, l)

/-- The counts of a distribution; `left` points of probability are still to be given out. -/
def fseCounts : Nat → Nat → List Bool → List Int → Option (List Int × List Bool)
  | 0, _, _, _ => none
  | f + 1, left, l, acc =>
    if left = 0 then some (acc, l)
    else
      let n := log2 (left + 1) + 1
      let half := 2 ^ (n - 1)
      let low := 2 ^ n - 1 - (left + 1)
      match lsbTake (n - 1) l with
      | none => none
      | some (v, l) =>
        match (if v < low then some (v, l) else (lsbTake 1 l).map (fun p =>
            (if p.1 = 1 then v + half - low else v, p.2))) with
        | none => none
        | some (v, l) =>
          let p : Int := (v : Int) - 1
          if left < p.natAbs then none
          else if v = 1 then
            match fseZeros (l.length + 1) l with
            | none => none
            | some (z, l) => fseCounts f left l (acc ++ List.replicate (z + 1) 0)
          else fseCounts f (left - p.natAbs) l (acc ++ [p])

/-- A distribution at the front of a byte string: at most `maxAl` and `maxSym`; answers it and the bytes after it. -/
def fseRead (maxAl maxSym : Nat) (b : Bytes) : Option (FseDist × Bytes) :=
  match lsbTake 4 (bitsOf b) with
  | none => none
  | some (a, l) =>
    if maxAl < a + 5 then none
    else match fseCounts (maxSym + 3) (2 ^ (a + 5)) l [] with
      | none => none
      | some (ns, l) =>
        if maxSym + 1 < ns.length then none
        else some ({ al := a + 5, norms := ns }, b.drop (b.length - l.length / 8))

/-- A distribution of one symbol (RLE). -/
def fseOne (sym : Nat) : FseDist := { al := 0, norms := List.replicate sym 0 ++ [1] }

/-- The symbol of each state: counts of −1 take the last cells, the others are spread with a step. -/
def FseDist.spread (d : FseDist) : List Nat :=
  let size := 2 ^ d.al
  let low := (d.norms.zipIdx.filter (fun p => p.1 == -1)).map (·.2)
  let step := size / 2 + size / 8 + 3
  let places := ((List.range size).map (fun k => k * step % size)).filter (fun k => decide (k + low.length < size))
  let syms := (d.norms.zipIdx.map (fun p => List.replicate p.1.toNat p.2)).flatten
  ((sortBy (fun (a b : Nat × Nat) => decide (a.1 ≤ b.1)) (places.zip syms)).map (·.2)) ++ low.reverse

/-- The cells of the states in order, from state number on: symbol, bits to read, base of the next state. -/
def fseCells (al : Nat) : List Nat → List Nat → List (Nat × Nat × Nat)
  | [], _ => []
  | sym :: r, next =>
    let x := next.getD sym 1
    let nb := al - log2 x
    (sym, nb, x * 2 ^ nb - 2 ^ al) :: fseCells al r (next.set sym (x + 1))

/-- The decoding table of a distribution. -/
def FseDist.table (d : FseDist) : List (Nat × Nat × Nat) :=
  fseCells d.al d.spread (d.norms.map (fun n => if n = -1 then 1 else n.toNat))

/-- The cell of a state. -/
def fseCell (t : List (Nat × Nat × Nat)) (st : Nat) : Nat × Nat × Nat := t.getD st (0, 0, 0)

/-- The next state. -/
def fseNext (t : List (Nat × Nat × Nat)) (st : Nat) (l : List Bool) : Option (Nat × List Bool) :=
  let c := fseCell t st
  (msbTake c.2.1 l).map (fun p => (c.2.2 + p.1, p.2))

-- ---------------------------------------------------------------- Huffman (RFC 8878, 4.2)

/-- Weights coded with two interleaved states, until the bits of a state are no longer there. -/
def hufPairs (t : List (Nat × Nat × Nat)) : Nat → Nat → Nat → List Bool → List Nat → Option (List Nat)
  | 0, _, _, _, _ => none
  | f + 1, a, b, l, acc =>
    let acc := acc ++ [(fseCell t a).1]
    match fseNext t a l with
    | none => some (acc ++ [(fseCell t b).1])
    | some (a, l) => hufPairs t f b a l acc

/-- The weights that a description gives, but for the last one; and the bytes after it. -/
def hufWeights (b : Bytes) : Option (List Nat × Bytes) :=
  match b with
  | [] => none
  | h :: r =>
    let n := h.toNat
    if n < 128 then
      if r.length < n then none
      else match fseRead 6 255 (r.take n) with
        | none => none
        | some (d, body) => match backBits body with
          | none => none
          | some l => match msbTake d.al l with
            | none => none
            | some (a, l) => match msbTake d.al l with
              | none => none
              | some (c, l) => (hufPairs d.table 256 a c l []).map (fun w => (w, r.drop n))
    else
      let k := n - 127
      let m := ceilDiv k 2
      if r.length < m then none
      else some ((((r.take m).map (fun x => [x.toNat / 16, x.toNat % 16])).flatten).take k, r.drop m)

/-- The points of weights: 2^(weight − 1). -/
def hufPoints (ws : List Nat) : Nat := ws.foldl (fun n w => n + (if w = 0 then 0 else 2 ^ (w - 1))) 0

/-- A Huffman description: the weights of all symbols, the last one from the others. -/
def hufRead (b : Bytes) : Option (List Nat × Bytes) :=
  match hufWeights b with
  | none => none
  | some (ws, r) =>
    let p := hufPoints ws
    let top := log2 p + 1
    let rest := 2 ^ top - p
    if p = 0 ∨ 11 < top ∨ rest ≠ 2 ^ log2 rest ∨ 255 < ws.length then none
    else some (ws ++ [log2 rest + 1], r)

/-- The bits of the longest code. -/
def hufTop (ws : List Nat) : Nat := log2 (hufPoints ws)

/-- Symbol and code length of every value of the longest code's bits: rising weights, then rising symbols. -/
def hufTable (ws : List Nat) : List (Nat × Nat) :=
  let top := hufTop ws
  ((List.range top).map (fun k =>
    ((ws.zipIdx.filter (fun p => p.1 == k + 1)).map (fun p => List.replicate (2 ^ k) (p.2, top - k))).flatten)).flatten

/-- Decodes `n` symbols; the bits must end with the last one. -/
def hufSyms (t : List (Nat × Nat)) (top : Nat) : Nat → List Bool → Bytes → Option Bytes
  | 0, l, acc => if l = [] then some acc.reverse else none
  | n + 1, l, acc =>
    let v := msbNum (l.take top) * 2 ^ (top - min top l.length)
    let (sym, k) := t.getD v (0, 0)
    if k = 0 ∨ l.length < k then none else hufSyms t top n (l.drop k) (BitVec.ofNat 8 sym :: acc)

/-- One stream of Huffman codes. -/
def hufStream (ws : List Nat) (n : Nat) (b : Bytes) : Option Bytes :=
  match backBits b with
  | none => none
  | some l => hufSyms (hufTable ws) (hufTop ws) n l []

-- ---------------------------------------------------------------- literals (RFC 8878, 3.1.1.3.1)

/-- The literals of a Huffman-coded section in one stream, or in four behind a jump table. -/
def hufLits (ws : List Nat) (four : Bool) (n : Nat) (b : Bytes) : Option Bytes :=
  if !four then hufStream ws n b
  else
    let k := ceilDiv n 4
    let a := fld b 0 2
    let c := fld b 2 2
    let e := fld b 4 2
    if b.length < 6 + a + c + e ∨ n < 3 * k then none
    else
      let b := b.drop 6
      match hufStream ws k (b.take a), hufStream ws k ((b.drop a).take c),
          hufStream ws k ((b.drop (a + c)).take e), hufStream ws (n - 3 * k) (b.drop (a + c + e)) with
      | some w, some x, some y, some z => some (w ++ x ++ y ++ z)
      | _, _, _, _ => none

/-- The literals section: the literals, the weights that stay in force, and the bytes after it. -/
def zLiterals (huf : Option (List Nat)) (b : Bytes) : Option (Bytes × Option (List Nat) × Bytes) :=
  if b = [] then none
  else
    let h := fld b 0 1
    let kind := h % 4
    let form := h / 4 % 4
    if kind < 2 then
      let len := [1, 2, 1, 3].getD form 1
      let n := fld b 0 len / (if form % 2 = 0 then 8 else 16)
      let r := b.drop len
      let k := if kind = 0 then n else 1
      if b.length < len + k ∨ 131072 < n then none
      else some (if kind = 0 then r.take n else List.replicate n (r.headD 0), huf, r.drop k)
    else
      let len := [3, 3, 4, 5].getD form 3
      let w := [10, 10, 14, 18].getD form 10
      let v := fld b 0 len / 16
      let n := v % 2 ^ w
      let k := v / 2 ^ w
      if b.length < len + k ∨ 131072 < n then none
      else
        let body := (b.drop len).take k
        let r := b.drop (len + k)
        match (if kind = 2 then hufRead body else huf.map (fun ws => (ws, body))) with
        | none => none
        | some (ws, body) => (hufLits ws (form != 0) n body).map (fun o => (o, some ws, r))

-- ---------------------------------------------------------------- sequences (RFC 8878, 3.1.1.3.2)

/-- Base and extra bits of a literals length code. -/
def llCode (c : Nat) : Nat × Nat :=
  if c < 16 then (c, 0)
  else [(16, 1), (18, 1), (20, 1), (22, 1), (24, 2), (28, 2), (32, 3), (40, 3), (48, 4), (64, 6), (128, 7), (256, 8),
    (512, 9), (1024, 10), (2048, 11), (4096, 12), (8192, 13), (16384, 14), (32768, 15), (65536, 16)].getD (c - 16) (0, 0)

/-- Base and extra bits of a match length code. -/
def mlCode (c : Nat) : Nat × Nat :=
  if c < 32 then (c + 3, 0)
  else [(35, 1), (37, 1), (39, 1), (41, 1), (43, 2), (47, 2), (51, 3), (59, 3), (67, 4), (83, 4), (99, 5), (131, 7),
    (259, 8), (515, 9), (1027, 10), (2051, 11), (4099, 12), (8195, 13), (16387, 14), (32771, 15),
    (65539, 16)].getD (c - 32) (0, 0)

/-- The predefined distributions (RFC 8878, 3.1.1.3.2.2). -/
def llPre : FseDist := { al := 6, norms := [4, 3, 2, 2, 2, 2, 2, 2, 2, 2, 2, 2, 2, 1, 1, 1, 2, 2, 2, 2, 2, 2, 2, 2, 2, 3, 2,
  1, 1, 1, 1, 1, -1, -1, -1, -1] }
def offPre : FseDist := { al := 5, norms := [1, 1, 1, 1, 1, 1, 2, 2, 2] ++ List.replicate 15 1 ++ List.replicate 5 (-1) }
def mlPre : FseDist := { al := 6, norms := [1, 4, 3, 2, 2, 2, 2, 2, 2] ++ List.replicate 37 1 ++ List.replicate 7 (-1) }

/-- The distribution that a mode names: predefined, one symbol, described, or the last one. -/
def zDist (mode : Nat) (pre : FseDist) (last : Option FseDist) (maxAl maxSym : Nat) (b : Bytes) : Option (FseDist × Bytes) :=
  match mode with
  | 0 => some (pre, b)
  | 1 => match b with
    | [] => none
    | x :: r => if maxSym < x.toNat then none else some (fseOne x.toNat, r)
  | 2 => fseRead maxAl maxSym b
  | _ => last.map (fun d => (d, b))

/-- A sequence: literals, offset value, match length. -/
structure ZSeq where
  ll  : Nat
  off : Nat
  ml  : Nat
deriving DecidableEq, Repr

/-- The sequences of a block: three states read from the end; the bits must end with the last sequence. -/
def zSeqs (tl tf tm : List (Nat × Nat × Nat)) : Nat → Nat → Nat → Nat → List Bool → Option (List ZSeq)
  | 0, _, _, _, l => if l = [] then some [] else none
  | n + 1, a, o, m, l =>
    let oc := (fseCell tf o).1
    let (mb, mx) := mlCode (fseCell tm m).1
    let (lb, lx) := llCode (fseCell tl a).1
    match msbTake oc l with
    | none => none
    | some (ov, l) => match msbTake mx l with
      | none => none
      | some (mv, l) => match msbTake lx l with
        | none => none
        | some (lv, l) =>
          let q : ZSeq := { ll := lb + lv, off := 2 ^ oc + ov, ml := mb + mv }
          if n = 0 then (if l = [] then some [q] else none)
          else match fseNext tl a l with
            | none => none
            | some (a, l) => match fseNext tm m l with
              | none => none
              | some (m, l) => match fseNext tf o l with
                | none => none
                | some (o, l) => (zSeqs tl tf tm n a o m l).map (q :: ·)

/-- The offset of a sequence, and the three last offsets after it; 0 is no offset (RFC 8878, 3.1.1.5). -/
def zOffset (r : Nat × Nat × Nat) (q : ZSeq) : Nat × (Nat × Nat × Nat) :=
  if 3 < q.off then (q.off - 3, (q.off - 3, r.1, r.2.1))
  else match q.off + (if q.ll = 0 then 1 else 0) with
    | 1 => (r.1, r)
    | 2 => (r.2.1, (r.2.1, r.1, r.2.2))
    | 3 => (r.2.2, (r.2.2, r.1, r.2.1))
    | _ => (r.1 - 1, (r.1 - 1, r.1, r.2.1))

/-- Copies `n` bytes from `off` bytes back onto an output kept newest byte first. -/
def zCopy (off : Nat) : Nat → Bytes → Bytes
  | 0, out => out
  | n + 1, out => zCopy off n (out.getD (off - 1) 0 :: out)

/-- Runs the sequences over the literals. `out`, newest byte first, begins with `dl` dictionary bytes; an offset
stays inside the window, or reaches the dictionary while the frame is no longer than the window (R244). -/
def zRun (win dl : Nat) : List ZSeq → Bytes → Bytes → Nat × Nat × Nat → Option (Bytes × (Nat × Nat × Nat))
  | [], lits, out, r => some (lits.reverse ++ out, r)
  | q :: qs, lits, out, r =>
    if lits.length < q.ll then none
    else
      let out := (lits.take q.ll).reverse ++ out
      let (off, r) := zOffset r q
      if off = 0 ∨ out.length < off ∨ (win < off ∧ win + dl < out.length) then none
      else zRun win dl qs (lits.drop q.ll) (zCopy off q.ml out) r

/-- A compressed block after the dictionary's content and the frame's output: its bytes, and what it leaves. -/
def zstdDecode (z : ZState) (win : Nat) (dict sofar blk : Bytes) : Option (Bytes × ZState) :=
  match zLiterals z.huf blk with
  | none => none
  | some (lits, huf, b) =>
    if b = [] then none
    else
      let h := fld b 0 1
      let hl := if h < 128 then 1 else if h < 255 then 2 else 3
      let n := if h < 128 then h else if h < 255 then (h - 128) * 256 + fld b 1 1 else fld b 1 2 + 0x7F00
      if b.length < hl then none
      else if n = 0 then (if b.length = hl then some (lits, { z with huf := huf }) else none)
      else
        let m := fld b hl 1
        if b.length < hl + 1 ∨ m % 4 ≠ 0 then none
        else match zDist (m / 64) llPre z.ll 9 35 (b.drop (hl + 1)) with
          | none => none
          | some (dl, b) => match zDist (m / 16 % 4) offPre z.off 8 31 b with
            | none => none
            | some (df, b) => match zDist (m / 4 % 4) mlPre z.ml 9 52 b with
              | none => none
              | some (dm, b) => match backBits b with
                | none => none
                | some l => match msbTake dl.al l with
                  | none => none
                  | some (a, l) => match msbTake df.al l with
                    | none => none
                    | some (o, l) => match msbTake dm.al l with
                      | none => none
                      | some (c, l) => match zSeqs dl.table df.table dm.table n a o c l with
                        | none => none
                        | some qs =>
                          let old := sofar.reverse ++ dict.reverse
                          match zRun win dict.length qs lits old z.reps with
                          | none => none
                          | some (out, reps) =>
                            some ((out.take (out.length - old.length)).reverse,
                              { huf := huf, ll := some dl, off := some df, ml := some dm, reps := reps })

-- ---------------------------------------------------------------- dictionaries (RFC 8878, 5)

/-- The tables, offsets and content of a dictionary with the magic number; `none`: it is not one, or malformed. -/
def zstdFormatted (d : Bytes) : Option (ZState × Bytes) :=
  if d.length < 8 ∨ ofLe (d.take 4) ≠ 0xEC30A437 then none
  else match hufRead (d.drop 8) with
    | none => none
    | some (ws, b) => match fseRead 8 31 b with
      | none => none
      | some (df, b) => match fseRead 9 52 b with
        | none => none
        | some (dm, b) => match fseRead 9 35 b with
          | none => none
          | some (dl, b) =>
            let r := (fld b 0 4, fld b 4 4, fld b 8 4)
            let c := b.drop 12
            if b.length < 12 ∨ r.1 = 0 ∨ r.2.1 = 0 ∨ r.2.2 = 0
              ∨ c.length < r.1 ∨ c.length < r.2.1 ∨ c.length < r.2.2 then none
            else some ({ huf := some ws, off := some df, ml := some dm, ll := some dl, reps := r }, c)

/-- What a dictionary gives a frame: the first state and the content; any other byte string is content alone
(log 45). -/
def zstdDict (d : Bytes) : ZState × Bytes := (zstdFormatted d).getD ({}, d)

end Sys2Proof.Machine
end

