-- ==== Sys2Proof/Machine/Codec.lean ====
section
/-! DEFINITION. The stream formats of the Press (R237–R245): LZ4 frames, ZSTD frames, DEFLATE, ZLIB and GZIP, with
their check values. -/
namespace Sys2Proof.Machine

-- ---------------------------------------------------------------- check values

def m32 (n : Nat) : Nat := n % 2 ^ 32
def m64 (n : Nat) : Nat := n % 2 ^ 64
def rotl32 (a n : Nat) : Nat := m32 (a <<< n) ||| (a >>> (32 - n))
def rotl64 (a n : Nat) : Nat := m64 (a <<< n) ||| (a >>> (64 - n))

def xp1 : Nat := 2654435761
def xp2 : Nat := 2246822519
def xp3 : Nat := 3266489917
def xp4 : Nat := 668265263
def xp5 : Nat := 374761393

def xxRound32 (acc v : Nat) : Nat := m32 (rotl32 (m32 (acc + v * xp2)) 13 * xp1)

/-- Splits bytes into little-endian numbers of `k` bytes; answers them and the rest. -/
def leWords (k : Nat) : Nat → Bytes → List Nat × Bytes
  | 0, b => ([], b)
  | n + 1, b => let (l, r) := leWords k n (b.drop k); (ofLe (b.take k) :: l, r)

def xxStripes32 : List Nat → (Nat × Nat × Nat × Nat) → (Nat × Nat × Nat × Nat)
  | a :: b :: c :: d :: r, (v1, v2, v3, v4) =>
    xxStripes32 r (xxRound32 v1 a, xxRound32 v2 b, xxRound32 v3 c, xxRound32 v4 d)
  | _, v => v

/-- The 32-bit xxHash with seed 0. -/
def xxh32 (d : Bytes) : Nat :=
  let n := d.length
  let (ws, tail) := leWords 4 (n / 16 * 4) d
  let h :=
    if 16 ≤ n then
      let (a, b, c, e) := xxStripes32 ws (m32 (xp1 + xp2), xp2, 0, 2 ^ 32 - xp1)
      m32 (rotl32 a 1 + rotl32 b 7 + rotl32 c 12 + rotl32 e 18)
    else xp5
  let h := m32 (h + n)
  let (ws, tail) := leWords 4 (tail.length / 4) tail
  let h := ws.foldl (fun h w => m32 (rotl32 (m32 (h + w * xp3)) 17 * xp4)) h
  let h := tail.foldl (fun h b => m32 (rotl32 (m32 (h + b.toNat * xp5)) 11 * xp1)) h
  let h := m32 ((h ^^^ (h >>> 15)) * xp2)
  let h := m32 ((h ^^^ (h >>> 13)) * xp3)
  h ^^^ (h >>> 16)

def yp1 : Nat := 11400714785074694791
def yp2 : Nat := 14029467366897019727
def yp3 : Nat := 1609587929392839161
def yp4 : Nat := 9650029242287828579
def yp5 : Nat := 2870177450012600261

def xxRound64 (acc v : Nat) : Nat := m64 (rotl64 (m64 (acc + v * yp2)) 31 * yp1)
def xxMerge64 (h v : Nat) : Nat := m64 ((h ^^^ xxRound64 0 v) * yp1 + yp4)

def xxStripes64 : List Nat → (Nat × Nat × Nat × Nat) → (Nat × Nat × Nat × Nat)
  | a :: b :: c :: d :: r, (v1, v2, v3, v4) =>
    xxStripes64 r (xxRound64 v1 a, xxRound64 v2 b, xxRound64 v3 c, xxRound64 v4 d)
  | _, v => v

/-- The 64-bit xxHash with seed 0. -/
def xxh64 (d : Bytes) : Nat :=
  let n := d.length
  let (ws, tail) := leWords 8 (n / 32 * 4) d
  let h :=
    if 32 ≤ n then
      let (a, b, c, e) := xxStripes64 ws (m64 (yp1 + yp2), yp2, 0, 2 ^ 64 - yp1)
      let h := m64 (rotl64 a 1 + rotl64 b 7 + rotl64 c 12 + rotl64 e 18)
      xxMerge64 (xxMerge64 (xxMerge64 (xxMerge64 h a) b) c) e
    else yp5
  let h := m64 (h + n)
  let (ws, tail) := leWords 8 (tail.length / 8) tail
  let h := ws.foldl (fun h w => m64 (rotl64 (h ^^^ xxRound64 0 w) 27 * yp1 + yp4)) h
  let (ws, tail) := leWords 4 (tail.length / 4) tail
  let h := ws.foldl (fun h w => m64 (rotl64 (h ^^^ m64 (w * yp1)) 23 * yp2 + yp3)) h
  let h := tail.foldl (fun h b => m64 (rotl64 (h ^^^ m64 (b.toNat * yp5)) 11 * yp1)) h
  let h := m64 ((h ^^^ (h >>> 33)) * yp2)
  let h := m64 ((h ^^^ (h >>> 29)) * yp3)
  h ^^^ (h >>> 32)

/-- The Adler-32 of ZLIB. -/
def adler32 (d : Bytes) : Nat :=
  let (a, b) := d.foldl (fun (p : Nat × Nat) x =>
    let a := (p.1 + x.toNat) % 65521
    (a, (p.2 + a) % 65521)) (1, 0)
  b * 65536 + a

/-- One bit step of the reflected CRC-32 of GZIP. -/
def crc32Step (c : Nat) : Nat := if c % 2 = 1 then (c / 2) ^^^ 0xEDB88320 else c / 2

/-- The CRC-32 of GZIP. -/
def crc32 (d : Bytes) : Nat :=
  (d.foldl (fun c b =>
    let c := c ^^^ b.toNat
    crc32Step (crc32Step (crc32Step (crc32Step (crc32Step (crc32Step (crc32Step (crc32Step c)))))))) 0xFFFFFFFF)
    ^^^ 0xFFFFFFFF

-- ---------------------------------------------------------------- DEFLATE (RFC 1951)

/-- Why decoding stops: the input ends, or the stream is malformed. -/
inductive Stop where
  | short
  | bad
deriving DecidableEq, Repr

/-- Takes a number of `n` bits, least significant first. -/
def takeBits : Nat → List Bool → Except Stop (Nat × List Bool)
  | 0, l => .ok (0, l)
  | _ + 1, [] => .error .short
  | n + 1, b :: r =>
    match takeBits n r with
    | .ok (v, r) => .ok (b2n b + 2 * v, r)
    | .error e => .error e

/-- A canonical Huffman code: the code lengths of its symbols. -/
abbrev Huff := List Nat

/-- The symbols of a code length, in rising order. -/
def Huff.syms (h : Huff) (len : Nat) : List Nat := (h.zipIdx.filter (fun p => p.1 == len)).map (·.2)

/-- Decodes one symbol: `code`, `first` and the lengths left. -/
def Huff.sym (h : Huff) : Nat → Nat → Nat → Nat → List Bool → Except Stop (Nat × List Bool)
  | 0, _, _, _, _ => .error .bad
  | _ + 1, _, _, _, [] => .error .short
  | n + 1, len, code, first, b :: r =>
    let code := 2 * code + b2n b
    let ss := h.syms len
    if code < first + ss.length ∧ first ≤ code then .ok (ss.getD (code - first) 0, r)
    else Huff.sym h n (len + 1) code ((first + ss.length) * 2) r

def Huff.decode (h : Huff) (l : List Bool) : Except Stop (Nat × List Bool) := h.sym 15 1 0 0 l

/-- Is a set of code lengths over-subscribed? -/
def Huff.overfull (h : Huff) : Bool :=
  decide (32768 < ((h.filter (· != 0)).map (fun l => 2 ^ (15 - l))).foldl (· + ·) 0)

def lenBase : List Nat :=
  [3, 4, 5, 6, 7, 8, 9, 10, 11, 13, 15, 17, 19, 23, 27, 31, 35, 43, 51, 59, 67, 83, 99, 115, 131, 163, 195, 227, 258]
def lenExtra : List Nat := [0, 0, 0, 0, 0, 0, 0, 0, 1, 1, 1, 1, 2, 2, 2, 2, 3, 3, 3, 3, 4, 4, 4, 4, 5, 5, 5, 5, 0]
def distBase : List Nat :=
  [1, 2, 3, 4, 5, 7, 9, 13, 17, 25, 33, 49, 65, 97, 129, 193, 257, 385, 513, 769, 1025, 1537, 2049, 3073, 4097, 6145,
   8193, 12289, 16385, 24577]

/-- The symbols of a compressed block, up to its end code. -/
def inflateCodes (lit dist : Huff) : Nat → List Bool → Bytes → Except Stop (Bytes × List Bool)
  | 0, _, _ => .error .bad
  | n + 1, l, out =>
    match lit.decode l with
    | .error e => .error e
    | .ok (s, l) =>
      if s < 256 then inflateCodes lit dist n l (out ++ [BitVec.ofNat 8 s])
      else if s = 256 then .ok (out, l)
      else if 286 ≤ s then .error .bad
      else
        match takeBits (lenExtra.getD (s - 257) 0) l with
        | .error e => .error e
        | .ok (x, l) =>
          match dist.decode l with
          | .error e => .error e
          | .ok (d, l) =>
            if 30 ≤ d then .error .bad
            else match takeBits (if d < 4 then 0 else d / 2 - 1) l with
              | .error e => .error e
              | .ok (y, l) =>
                let off := distBase.getD d 1 + y
                if out.length < off ∨ 32768 < off then .error .bad
                else inflateCodes lit dist n l (lz4Copy off (lenBase.getD (s - 257) 3 + x) out)

/-- The code lengths of a dynamic block. -/
def codeLengths (cl : Huff) : Nat → Nat → List Bool → List Nat → Except Stop (List Nat × List Bool)
  | 0, _, _, _ => .error .bad
  | n + 1, want, l, acc =>
    if want ≤ acc.length then (if acc.length = want then .ok (acc, l) else .error .bad)
    else match cl.decode l with
      | .error e => .error e
      | .ok (s, l) =>
        if s < 16 then codeLengths cl n want l (acc ++ [s])
        else
          let (k, base, v) := if s = 16 then (2, 3, acc.getLast?.getD 0) else if s = 17 then (3, 3, 0) else (7, 11, 0)
          if s = 16 ∧ acc = [] then .error .bad
          else match takeBits k l with
            | .error e => .error e
            | .ok (x, l) => codeLengths cl n want l (acc ++ List.replicate (base + x) v)

def fixedLit : Huff :=
  List.replicate 144 8 ++ List.replicate 112 9 ++ List.replicate 24 7 ++ List.replicate 8 8

/-- Takes `n` code lengths of three bits. -/
def takeThrees : Nat → List Bool → List Nat → Except Stop (List Nat × List Bool)
  | 0, l, acc => .ok (acc, l)
  | n + 1, l, acc =>
    match takeBits 3 l with
    | .error e => .error e
    | .ok (v, l) => takeThrees n l (acc ++ [v])

/-- A dynamic block's tables. -/
def dynTables (l : List Bool) : Except Stop (Huff × Huff × List Bool) :=
  match takeBits 5 l with
  | .error e => .error e
  | .ok (hl, l) => match takeBits 5 l with
    | .error e => .error e
    | .ok (hd, l) => match takeBits 4 l with
      | .error e => .error e
      | .ok (hc, l) => match takeThrees (hc + 4) l [] with
        | .error e => .error e
        | .ok (cls, l) =>
          let order := [16, 17, 18, 0, 8, 7, 9, 6, 10, 5, 11, 4, 12, 3, 13, 2, 14, 1, 15]
          let cl : Huff := (order.zip cls).foldl (fun t p => setAt t p.1 p.2) (List.replicate 19 0)
          if cl.overfull then .error .bad
          else match codeLengths cl 400 (hl + 257 + hd + 1) l [] with
            | .error e => .error e
            | .ok (ls, l) =>
              let lit : Huff := ls.take (hl + 257)
              let dist : Huff := ls.drop (hl + 257)
              if lit.overfull ∨ dist.overfull ∨ lit.getD 256 0 = 0 then .error .bad else .ok (lit, dist, l)

/-- One DEFLATE block: the output after it, the bits left, and whether it is the last. -/
def inflateBlock (l : List Bool) (out : Bytes) : Except Stop (Bytes × List Bool × Bool) :=
  match takeBits 3 l with
  | .error e => .error e
  | .ok (h, l) =>
    let fin := h % 2 == 1
    match h / 2 with
    | 0 =>
      let l := l.drop (l.length % 8)
      match takeBits 16 l with
      | .error e => .error e
      | .ok (n, l) => match takeBits 16 l with
        | .error e => .error e
        | .ok (m, l) =>
          if n + m ≠ 65535 then .error .bad
          else if l.length < 8 * n then .error .short
          else
            let body := (List.range n).map (fun k => BitVec.ofNat 8 (((l.drop (8 * k)).take 8).foldr (fun b v => b2n b + 2 * v) 0))
            .ok (out ++ body, l.drop (8 * n), fin)
    | 1 =>
      match inflateCodes fixedLit (List.replicate 30 5) (l.length + 1) l out with
      | .error e => .error e
      | .ok (o, l) => .ok (o, l, fin)
    | 2 =>
      match dynTables l with
      | .error e => .error e
      | .ok (lit, dist, l) => match inflateCodes lit dist (l.length + 1) l out with
        | .error e => .error e
        | .ok (o, l) => .ok (o, l, fin)
    | _ => .error .bad

-- ---------------------------------------------------------------- streams (R240)

/-- The state of a stream between jobs (R240). The E256's own layout of it is not given: the model keeps it as data. -/
structure Stream where
  fmt     : Nat
  open_   : Bool := false          -- inside a frame
  flags   : Nat := 0               -- frame flags: block check, content check, independent blocks
  max     : Nat := 0               -- block maximum
  size    : Option Nat := none     -- declared content size
  dict    : Nat := 0
  sofar   : Bytes := []            -- output of the open frame
  win     : Nat := 0               -- window of the open ZSTD frame
  z       : ZState := {}           -- what the blocks of the open ZSTD frame leave
  bit     : Nat := 0               -- bits already used of the next input byte (DEFLATE)
  tail    : Bool := false          -- the last DEFLATE block has been read
  ended    : Bool := false          -- the stream has ended
deriving DecidableEq, Repr

/-- A decoding in progress: the state, the output of this job, what is verified, and the input left. -/
structure Dec where
  st    : Stream
  out   : Bytes := []
  ver   : Nat := 0
  left  : Bytes
deriving DecidableEq, Repr

/-- What one block or header of a stream does. -/
inductive DecStep where
  | go (d : Dec)         -- a whole block or header was taken
  | short                -- the input ends before the next one
  | fail (status : Nat)
  | done (d : Dec)       -- the stream ends here

def Stop.step : Stop → DecStep
  | .short => .short
  | .bad => .fail 0x3002

/-- Is a number one of a skippable frame? -/
def skippable (m : Nat) : Bool := decide (0x184D2A50 ≤ m) && decide (m ≤ 0x184D2A5F)

/-- What follows a frame: another frame of the stream, or its end (R238, R240). -/
def betweenFrames (d : Dec) (magic : Nat) (first : Bool) (header : Dec → DecStep) : DecStep :=
  if d.left.length < 4 then (if first then .short else .done d)
  else
    let m := ofLe (d.left.take 4)
    if skippable m then
      if d.left.length < 8 then .short
      else
        let n := fld d.left 4 4
        if d.left.length < 8 + n then .short
        else .go { d with left := d.left.drop (8 + n), st := { d.st with tail := true } }
    else if m = magic then header d
    else if first then .fail 0x3002
    else .done d

/-- An LZ4 frame header (R238). -/
def lz4Header (d : Dec) : DecStep :=
  let b := d.left.drop 4
  if b.length < 3 then .short
  else
    let flg := fld b 0 1
    let bd := fld b 1 1
    let sz := bitAt flg 3
    let n := 2 + (if sz then 8 else 0)
    if bits flg 7 6 ≠ 1 ∨ bitAt flg 1 ∨ bits bd 3 0 ≠ 0 ∨ bitAt bd 7 ∨ bits bd 6 4 < 4 then .fail 0x3002
    else if bitAt flg 0 then .fail 0x1002
    else if b.length < n + 1 then .short
    else if xxh32 (b.take n) / 256 % 256 ≠ fld b n 1 then .fail 0x3003
    else .go { d with
      left := b.drop (n + 1)
      st := { d.st with open_ := true, tail := true, flags := flg, max := 4 ^ (bits bd 6 4 + 4), sofar := [],
                        size := if sz then some (fld b 2 8) else none } }

/-- One block of an LZ4 frame, or its end. -/
def lz4Block (d : Dec) : DecStep :=
  if d.left.length < 4 then .short
  else
    let w := ofLe (d.left.take 4)
    let chk := bitAt d.st.flags 2
    if w = 0 then
      if chk && decide (d.left.length < 8) then .short
      else if (d.st.size.map (fun n => n != d.st.sofar.length)).getD false then .fail 0x3002
      else if chk && xxh32 d.st.sofar != fld d.left 4 4 then .fail 0x3003
      else .go { d with left := d.left.drop (if chk then 8 else 4), ver := if chk then d.out.length else d.ver,
                        st := { d.st with open_ := false, sofar := [] } }
    else
      let n := w % 2 ^ 31
      let bchk := bitAt d.st.flags 4
      let tot := 4 + n + (if bchk then 4 else 0)
      if d.st.max < n then .fail 0x3002
      else if d.left.length < tot then .short
      else
        let body := (d.left.drop 4).take n
        if bchk && xxh32 body != fld d.left (4 + n) 4 then .fail 0x3003
        else
          let hist := if bitAt d.st.flags 5 then [] else d.st.sofar.drop (d.st.sofar.length - 65536)
          match (if 2 ^ 31 ≤ w then some body else lz4Decode hist body) with
          | none => .fail 0x3002
          | some o =>
            if d.st.max < o.length then .fail 0x3002
            else .go { st := { d.st with sofar := d.st.sofar ++ o }, out := d.out ++ o,
                       ver := if bchk then d.ver + o.length else d.ver, left := d.left.drop tot }

/-- The Dictionary_ID of the frame header behind a magic number, 0 without one (R239). -/
def zstdDictId (b : Bytes) : Nat :=
  let f := fld b 0 1
  fld b (1 + (if bitAt f 5 then 0 else 1)) ([0, 1, 2, 4].getD (bits f 1 0) 0)

/-- A ZSTD frame header (R238): `dicts` are the dictionaries at hand. -/
def zstdHeader (dicts : Tab Bytes) (d : Dec) : DecStep :=
  let b := d.left.drop 4
  if b = [] then .short
  else
    let f := fld b 0 1
    let single := bitAt f 5
    let w := if single then 0 else 1
    let dn := [0, 1, 2, 4].getD (bits f 1 0) 0
    let fn := [if single then 1 else 0, 2, 4, 8].getD (bits f 7 6) 0
    if bitAt f 3 then .fail 0x3002
    else if b.length < 1 + w + dn + fn then .short
    else
      let wd := fld b 1 1
      let fcs := fld b (1 + w + dn) fn + (if fn = 2 then 256 else 0)
      let win := if single then fcs else 2 ^ (10 + wd / 8) + 2 ^ (10 + wd / 8) / 8 * (wd % 8)
      let dict := zstdDictId b
      if 8388608 < win then .fail 0x1002
      else if dict ≠ 0 ∧ !Tab.has dicts dict then .fail 0x1002
      else .go { d with
        left := b.drop (1 + w + dn + fn)
        st := { d.st with open_ := true, tail := true, flags := f, max := min win 131072, sofar := [], win := win,
                          z := (zstdDict (Tab.get dicts dict [])).1, dict := dict, size := if fn = 0 then none else some fcs } }

/-- One block of a ZSTD frame, with the frame's end after its last block; `dict` is the content of its dictionary. -/
def zstdBlock (dict : Bytes) (d : Dec) : DecStep :=
  if d.left.length < 3 then .short
  else
    let h := ofLe (d.left.take 3)
    let n := h / 8
    let kind := h / 2 % 4
    let body := if kind = 1 then 1 else n
    let chk := bitAt d.st.flags 2
    let last := h % 2 == 1
    let tot := 3 + body + (if last && chk then 4 else 0)
    if kind = 3 ∨ (kind ≠ 1 ∧ d.st.max < n) then .fail 0x3002
    else if d.left.length < tot then .short
    else
      let blk := (d.left.drop 3).take body
      match (if kind = 0 then some (blk, d.st.z) else if kind = 1 then some (List.replicate n (blk.headD 0), d.st.z)
             else zstdDecode d.st.z d.st.win dict d.st.sofar blk) with
      | none => .fail 0x3002
      | some (o, z) =>
        let sofar := d.st.sofar ++ o
        if d.st.max < o.length then .fail 0x3002
        else if last && (d.st.size.map (fun m => m != sofar.length)).getD false then .fail 0x3002
        else if last && chk && xxh64 sofar % 2 ^ 32 != fld d.left (3 + body) 4 then .fail 0x3003
        else .go { st := { d.st with sofar := if last then [] else sofar, open_ := !last, z := z }
                   out := d.out ++ o, ver := if last && chk then d.out.length + o.length else d.ver
                   left := d.left.drop tot }

/-- Skips a zero-terminated name. -/
def skipName (b : Bytes) : Option Bytes :=
  match b.dropWhile (· != 0) with
  | [] => none
  | _ :: r => some r

/-- A GZIP header (RFC 1952). -/
def gzipHeader (b : Bytes) : Except Stop Bytes :=
  if b.length < 10 then .error .short
  else
    let f := fld b 3 1
    if fld b 0 2 ≠ 0x8B1F ∨ fld b 2 1 ≠ 8 ∨ 32 ≤ f then .error .bad
    else
      let r := b.drop 10
      let r := if bitAt f 2 then
          (if r.length < 2 ∨ r.length < 2 + fld r 0 2 then none else some (r.drop (2 + fld r 0 2)))
        else some r
      let r := r.bind (fun r => if bitAt f 3 then skipName r else some r)
      let r := r.bind (fun r => if bitAt f 4 then skipName r else some r)
      match r with
      | none => .error .short
      | some r =>
        if bitAt f 1 then
          if r.length < 2 then .error .short
          else .ok (r.drop 2)
        else .ok r

/-- A GZIP header whose FHCRC fails is a failed check value (R244). -/
def gzipHcrcBad (b rest : Bytes) : Bool :=
  bitAt (fld b 3 1) 1 && (let n := b.length - rest.length - 2; crc32 (b.take n) % 65536 != fld b n 2)

/-- One block of a DEFLATE, ZLIB or GZIP stream, its header or its trailer. -/
def deflateStep (d : Dec) : DecStep :=
  let st := d.st
  if !st.open_ then
    if st.fmt = 4 then .go { d with st := { st with open_ := true } }
    else if st.fmt = 5 then
      if d.left.length < 2 then .short
      else
        let c := fld d.left 0 1
        let f := fld d.left 1 1
        if c % 16 ≠ 8 ∨ 7 < c / 16 then .fail 0x3002
        else if (c * 256 + f) % 31 ≠ 0 then .fail 0x3003
        else if bitAt f 5 then .fail 0x1002
        else .go { d with left := d.left.drop 2, st := { st with open_ := true } }
    else match gzipHeader d.left with
      | .error e => e.step
      | .ok r => if gzipHcrcBad d.left r then .fail 0x3003 else .go { d with left := r, st := { st with open_ := true } }
  else if st.tail then
    let left := if st.bit = 0 then d.left else d.left.drop 1
    let fin := { d with left := left, ver := d.out.length, st := { st with bit := 0, ended := true } }
    if st.fmt = 4 then .done { fin with ver := d.ver }
    else if st.fmt = 5 then
      if left.length < 4 then .short
      else if ofBe (left.take 4) ≠ adler32 st.sofar then .fail 0x3003
      else .done { fin with left := left.drop 4 }
    else if left.length < 8 then .short
    else if fld left 0 4 ≠ crc32 st.sofar then .fail 0x3003
    else if fld left 4 4 ≠ st.sofar.length % 2 ^ 32 then .fail 0x3002
    else .done { fin with left := left.drop 8 }
  else match inflateBlock ((bitsOf d.left).drop st.bit) st.sofar with
    | .error e => e.step
    | .ok (o, l, fin) =>
      let used := 8 * d.left.length - l.length
      .go { st := { st with sofar := o, bit := used % 8, tail := fin }, out := d.out ++ o.drop st.sofar.length,
            ver := d.ver, left := d.left.drop (used / 8) }

/-- One block of an NPB stream. -/
def npbStep (d : Dec) : DecStep :=
  if d.left.length < 16 ∨ (fld d.left 0 2 = 0x424E ∧ fld d.left 4 4 ≤ 65536 ∧ d.left.length < 16 + fld d.left 4 4) then
    (if 3 ≤ d.left.length ∧ (fld d.left 0 2 ≠ 0x424E ∨ fld d.left 2 1 ≠ 1) then .fail 0x3002 else .short)
  else match npbRead d.left with
    | .badLength => .fail 0x3002
    | .badCheck _ _ _ => .fail 0x3003
    | .good o rest last =>
      let d' := { d with out := d.out ++ o, ver := d.ver + o.length, left := rest, st := { d.st with ended := last } }
      if last then .done d' else .go d'

/-- One step of a decoding; after the end of its stream a job reads nothing (R240). -/
def Dec.step (dicts : Tab Bytes) (d : Dec) : DecStep :=
  if d.st.ended then .done d else
  match d.st.fmt with
  | 2 => if d.st.open_ then lz4Block d else betweenFrames d 0x184D2204 (!d.st.tail) lz4Header
  | 3 => if d.st.open_ then zstdBlock (zstdDict (Tab.get dicts d.st.dict [])).2 d
         else betweenFrames d 0xFD2FB528 (!d.st.tail) (zstdHeader dicts)
  | 7 => npbStep d
  | _ => deflateStep d

/-- The dictionary that the frame header in front of a decoding names (R239). -/
def Dec.wants (d : Dec) : Nat := if d.st.fmt = 3 ∧ !d.st.open_ ∧ ofLe (d.left.take 4) = 0xFD2FB528 then zstdDictId (d.left.drop 4) else 0

/-- What a decompress job ends with. -/
structure DecOut where
  status : Nat
  dec    : Dec
deriving DecidableEq, Repr

/-- A decompress job: whole blocks until the input or the stream ends (R240, R244). -/
def Dec.run (dicts : Tab Bytes) (last : Bool) : Nat → Dec → DecOut
  | 0, d => { status := 0x3002, dec := d }
  | n + 1, d =>
    match d.step dicts with
    | .go d => Dec.run dicts last n d
    | .done d => { status := 0, dec := d }
    | .fail st => { status := st, dec := d }
    | .short => { status := if last then 0x3002 else 0, dec := d }

/-- An LZ4_BLOCK job: the declared length must agree (R238, R244). -/
def decLz4Block (input : Bytes) (expected : Nat) : DecOut :=
  let d : Dec := { st := { fmt := 1 }, left := [] }
  match lz4Decode [] input with
  | none => { status := 0x3002, dec := d }
  | some o => { status := if o.length = expected ∧ o.length ≤ 4194304 then 0 else 0x3002, dec := { d with out := o } }

-- ---------------------------------------------------------------- compression (R238, R241, R243)

/-- Groups of at most `k` bytes. -/
def chunks (k : Nat) : Nat → Bytes → List Bytes
  | 0, _ => []
  | n + 1, l => if l = [] then [] else l.take k :: chunks k n (l.drop k)

/-- The compressor's output for one block, its self-check, and whether it is kept (R241, R243). -/
structure Packed where
  bytes : Bytes
  kept  : Bool
  ok    : Bool
deriving DecidableEq, Repr

/-- Compresses a block and compares what it decodes to with the input (R241); a block that does not shrink is stored
raw (R243). -/
def packLz4 (d : Bytes) : Packed :=
  let c := Config.compress 1 0 [] d
  if c.length < d.length then { bytes := c, kept := true, ok := decide (lz4Decode [] c = some d) }
  else { bytes := d, kept := false, ok := true }

/-- As `packLz4`, for a ZSTD block after a dictionary's content and the frame's earlier data; and what it leaves. -/
def packZstd (level : Nat) (st : Stream) (dict d : Bytes) : Packed × ZState :=
  let c := Config.compress 3 level (dict ++ st.sofar) d
  if c.length < d.length then
    match zstdDecode st.z st.win dict st.sofar c with
    | some (o, z) => ({ bytes := c, kept := true, ok := decide (o = d) }, z)
    | none => ({ bytes := c, kept := true, ok := false }, st.z)
  else ({ bytes := d, kept := false, ok := true }, st.z)

/-- What a compress job gives: its output, the state after it and its self-check. -/
structure CompOut where
  out : Bytes
  st  : Stream
  ok  : Bool
deriving DecidableEq, Repr

def compLz4Block (d : Bytes) : CompOut :=
  let p := packLz4 d
  { out := if p.kept then p.bytes else lz4Literal d, st := { fmt := 1 }, ok := p.ok }

/-- An LZ4_FRAME job: independent blocks of 2^log2 bytes, content checksum always, content size for a single job. -/
def compLz4Frame (st : Stream) (log2 : Nat) (first last : Bool) (d : Bytes) : CompOut :=
  let single := first && last
  let desc := [BitVec.ofNat 8 (0x64 + 8 * b2n single), BitVec.ofNat 8 ((log2 / 2 - 4) * 16)]
    ++ (if single then leBytes 8 d.length else [])
  let head := if first then leBytes 4 0x184D2204 ++ desc ++ [BitVec.ofNat 8 (xxh32 desc / 256)] else []
  let ps := (chunks (2 ^ log2) (d.length / 2 ^ log2 + 1) d).map packLz4
  let body := (ps.map (fun p => leBytes 4 (p.bytes.length + (if p.kept then 0 else 2 ^ 31)) ++ p.bytes)).flatten
  let all := st.sofar ++ d
  { out := head ++ body ++ (if last then zeros 4 ++ leBytes 4 (xxh32 all) else [])
    st := { st with sofar := all }, ok := ps.all (·.ok) }

/-- The blocks of a ZSTD job: their bytes, the stream after them, and whether every self-check held. -/
def zstdBlocks (level : Nat) (dict : Bytes) (last : Bool) : List Bytes → Stream → Bytes × Stream × Bool
  | [], st => ([], st, true)
  | d :: r, st =>
    let (p, z) := packZstd level st dict d
    let h := b2n (last && r.isEmpty) + (if p.kept then 4 else 0) + 8 * p.bytes.length
    let (o, st, ok) := zstdBlocks level dict last r { st with sofar := st.sofar ++ d, z := z }
    (leBytes 3 h ++ p.bytes ++ o, st, p.ok && ok)

/-- A ZSTD job: a window of 2^log2 bytes, content checksum always, content size for a single job. -/
def compZstd (st : Stream) (level winLog dictId : Nat) (dict : Bytes) (first last : Bool) (d : Bytes) : CompOut :=
  let single := first && last
  let need := if d.length < 65536 + 256 ∧ 256 ≤ d.length then 1 else if d.length < 2 ^ 32 then 2 else 3
  let flag := if single then max need (Config.fcsFlag d.length % 4) else 0
  let fn := [0, 2, 4, 8].getD flag 0
  let head := if first then
      leBytes 4 0xFD2FB528 ++ [BitVec.ofNat 8 (64 * flag + 4 + (if dictId = 0 then 0 else 3)),
        BitVec.ofNat 8 ((winLog - 10) * 8)] ++ (if dictId = 0 then [] else leBytes 4 dictId)
        ++ leBytes fn (d.length - (if fn = 2 then 256 else 0))
    else []
  let blk := min 131072 (2 ^ winLog)   -- the block maximum of RFC 8878
  let cs := chunks blk (d.length / blk + 1) d
  let cs := if last ∧ cs = [] then [[]] else cs
  let (z, content) := zstdDict dict
  let st := if first then { st with z := z, win := 2 ^ winLog } else st
  let (o, st, ok) := zstdBlocks level content last cs st
  { out := head ++ o ++ (if last then leBytes 4 (xxh64 st.sofar % 2 ^ 32) else []), st := st, ok := ok }

/-- An NPB job (R245). -/
def compNpb (st : Stream) (last : Bool) (d : Bytes) : CompOut :=
  let cs := chunks 65536 (d.length / 65536 + 1) d
  let one := fun (p : Bytes × Nat) =>
    let f := 2 * b2n (last && p.2 + 1 == cs.length)
    if p.1.all (· == 0) then (npbHeader (f + 4) 0 p.1.length (crc32c p.1), true)
    else
      let k := packLz4 p.1
      (npbHeader (f + (if k.kept then 0 else 1)) k.bytes.length p.1.length (crc32c p.1) ++ k.bytes, k.ok)
  let r := cs.zipIdx.map one
  { out := (r.map (·.1)).flatten, st := st, ok := r.all (·.2) }

end Sys2Proof.Machine
end

