-- ==== Sys2Proof/Machine/State.lean ====
section
/-! DEFINITION. The state of the E256 as plain data, the state of a package whose power has never been good, and
the reasons a step can stop. Memories share one list of cells in one canonical form (`Space` gives each its
place). -/
namespace Sys2Proof.Machine

/-- The reasons a command can stop the machine. No command of the E256 stops it (R476: every fault is an effect on
the state), so this type has no constructor: safe, since nothing is hidden behind it. -/
inductive Fault where
deriving DecidableEq, Repr

/-- The reasons a command has no meaning. -/
inductive Refusal where
  | notModelled (mnemonic : String)   -- raised by the dispatch alone, for a row without a meaning: safe
deriving DecidableEq, Repr

/-- The byte memories of the machine and of its host, each with its place in the one list of cells. -/
inductive Space where
  | host (fn : Nat)     -- host memory under the I/O virtual addresses of one function (R317)
  | hbm                 -- the eight HBM stacks by device physical address (R251)
  | t1                  -- expander memory, by T1 unit number × 65,536 (R219, R270)
  | quire (q : Nat)     -- the 8 MiB of one quire memory (R129)
  | dmem (e : Nat)      -- engine data memory, 512 KiB (R95)
  | imem (e : Nat)      -- engine instruction memory, 64 KiB (R95)
  | mbx (i : Nat)       -- mailbox page of one instance (R367)
  | colophon            -- staging area of the Colophon (R461, R477)
deriving DecidableEq, Repr

/-- The key of a space's byte 0. -/
def Space.base : Space → Nat
  | .hbm => 1 <<< 80
  | .t1 => 2 <<< 80
  | .colophon => 3 <<< 80
  | .quire q => (16 + q) <<< 80
  | .host f => (256 + f) <<< 80
  | .dmem e => (512 + e) <<< 80
  | .imem e => (1024 + e) <<< 80
  | .mbx i => (4096 + i) <<< 80

/-- Memory: address and byte pairs, addresses rising, no entry zero. An unlisted byte reads zero: R153 and R264 for
on-chip memory and HBM after Cold Start; for the others DESIGN CHOICE (log 2). -/
abbrev Mem := List Host.Cell

-- ---------------------------------------------------------------- outputs

/-- What leaves the package. -/
inductive Output where
  | msix (fn vec addr data : Nat)                      -- a message-signalled interrupt (R333)
  | readData (off : Nat) (value : Word)                -- the data of a register read (R512)
  | line (w : Nat) (data : Bytes)                      -- a response line of an aperture window (R351)
  | hbmw (data : Bytes)                                -- the data of a load in the HBM window (R313)
  | hbmwErr                                            -- the error answer of an HBM-window access (R313, R453)
  | frame (port : Nat) (data : Bytes)                  -- a frame sent by a port (R288)
  | spdm (data : Bytes)                                -- an answer of the Slipcase on the DOE mailbox (R389)
  | tdisp (fn : Nat) (data : Bytes)                    -- an answer of a TDISP request (R390)
  | mctp (data : Bytes)                                -- an answer over SMBus (R312)
  | atsDone (fn addr length : Nat)                     -- an ATS invalidation completion (R312)
  | ppsOut                                             -- an edge on PPS_OUT (R286)
  | avs (die target : Nat)                             -- an AVSBus voltage command (R436)
  | slowPath (time : Nat) (frame : Frame)              -- a frame handed to Efura firmware with its timestamp (R285)
  | pfc (port prio : Nat) (pause : Bool)               -- a PFC frame that the port sends: XOFF or XON (R287)
  | txStamp (port time : Nat)                          -- the timestamp of a PTP event message that was sent (R286)
deriving DecidableEq, Repr

-- ---------------------------------------------------------------- package, mode, firmware

/-- The sideband signals (R503). -/
structure Pins where
  perstN      : Bool := false
  pwrbrkN     : Bool := true
  thermtripN  : Bool := true      -- false: asserted and latched (R443)
  thermAlertN : Bool := true
  alertN      : Bool := true
  ppsIn       : Bool := false
  ppsOut      : Bool := false
  factoryEn   : Bool := false
  gpio        : Byte := 0
  cxlPerstN   : List Bool := [false, false]
deriving DecidableEq, Repr

/-- DEV_STATUS.MODE (R22). -/
inductive Mode where
  | coldStart | service | constrained | maintenance | containment | factory
deriving DecidableEq, Repr

/-- A live activation in progress (R463). -/
structure Activation where
  cmd    : Nat      -- fetch number of the Firmware Commit
  slot   : Nat
  paused : Bool := false
deriving DecidableEq, Repr

/-- A register write held until after step 7 of a live activation (R515). -/
structure DeferredWrite where
  off   : Nat
  value : Nat
deriving DecidableEq, Repr

/-- The device-wide conditions of R449, R451, R467 and R512. -/
structure Dev where
  cold       : Bool := true
  factory    : Bool := false
  maint      : List Nat := []            -- active holders by bit number (R455)
  constrain  : Bool := false
  contained  : Bool := false             -- CONTAINMENT entered and not left by Resume Instance 0 (R458)
  containDue : Bool := false             -- a cause detected in the placement pause: CONTAINMENT after step 7 (R465)
  causes     : List (Nat × Nat) := []    -- open causes, first first: CAUSE and resource (R456)
  depends    : List Nat := []            -- tenants whose quiesce or reset the map-out of a control share awaits (R475)
  coldStep   : Nat := 1
  coldFail   : Nat := 0
  restart    : Bool := false             -- PERST_N was asserted: Cold Start starts again at its deassertion
  tried      : List Nat := []            -- boot slots that have failed in this Cold Start (R452)
  booted     : Bool := false             -- a slot has been verified and its Efura component started
  modeSince  : Nat := 0
  serviceAt  : Nat := 0
  maintHold  : Bool := false
  activeSlot : Nat := 1
  actState   : Nat := 0
  rollbacks  : Nat := 0
  act        : Option Activation := none
  deferred   : List DeferredWrite := []  -- R515
  resetDue   : Option Nat := none        -- a device reset written during the pause (R465)

  heldEn     : Bool := false             -- R453
  badAccess  : Nat := 0
  badLast    : Nat := 0
  latch      : Option (Nat × Nat) := none
  constrainedNs : Nat := 0               -- CONSTRAINED time of the HEALTH page (R340)
  leavesFailed  : Tab Nat := []          -- HEALTH: leaves failed, per instance (R340)
  cmdsFailed    : Tab Nat := []          -- HEALTH: commands failed, per instance (R340)
deriving DecidableEq, Repr

-- ---------------------------------------------------------------- logs and the Colophon

/-- An error record (R483). -/
structure ErrRec where
  seq     : Nat
  time    : Nat
  boot    : Nat
  kind    : Nat
  status  : Nat
  inst    : Nat
  flags   : Nat
  sq      : Nat
  cid     : Nat
  channel : Nat
  obj     : Nat
  tag     : Nat
  detail  : Nat
  count   : Nat
deriving DecidableEq, Repr

/-- A fault-history record (R484). -/
structure FhRec where
  seq      : Nat
  time     : Nat
  boot     : Nat
  kind     : Nat
  status   : Nat
  outcome  : Nat
  mech     : Nat
  mode     : Nat
  inst     : Nat
  resource : Nat
  count    : Nat
  flags    : Nat
  addr     : Nat
  leaf     : Nat
  data     : Bytes
deriving DecidableEq, Repr

/-- The log buffer of R480 and its losses (R481). -/
structure LogBuf where
  err     : List ErrRec := []
  fh      : List FhRec := []
  lostErr : Nat := 0
  lostFh  : Nat := 0
  lostBy  : Tab Nat := []      -- error records dropped, per instance (R486)
deriving DecidableEq, Repr

/-- A firmware slot (R460, R391): version, SVN and the marks of its image. -/
structure FwSlot where
  filled   : Bool := false
  version  : Nat := 0
  svn      : Nat := 0
  digest   : Nat := 0        -- DIGEST of the stored image (R391)
  rejected : Bool := false
deriving DecidableEq, Repr

/-- The domain policy of R387. -/
structure DomainPolicy where
  domain     : Bytes
  rekeyHours : Nat
  ownerHash  : Bytes
deriving DecidableEq, Repr

/-- A fault event kept for the counts of R472: resource type and index, operating time. -/
structure CountEvent where
  kind : Nat
  idx  : Nat
  at_  : Nat
deriving DecidableEq, Repr

/-- A soft repair of a column (R149): quire, bank, sub-bank, column, spare, timebase value. -/
structure SoftRepair where
  quire : Nat
  bank  : Nat
  sub   : Nat
  col   : Nat
  spare : Nat
  time  : Nat
deriving DecidableEq, Repr

/-- The non-volatile store (R477): it outlives every reset and a loss of power. -/
structure Col where
  settings    : Tab Nat := []               -- persisted register values by offset (R517)
  dirty       : List Nat := []              -- offsets written and not yet saved
  features    : Tab Nat := []               -- saved features: 256 × instance + FID (R341)
  featDirty   : Tab Nat := []               -- features with SAVE not yet in the settings area (R517)
  slots       : List FwSlot := [{ filled := true, version := 1 }, { filled := true, version := 1 }, {}]
  nextSlot    : Nat := 1
  staged      : List Nat := []              -- 4 KiB units written since the last erase (R461)
  retiredEng  : List Nat := []              -- physical engines retired
  spareOf     : Tab Nat := []               -- engine number and the spare that stands in for it (R13)
  mapQuires   : List Nat := []              -- quires mapped out (R151)
  retFrames   : List Nat := []              -- frames retired (R269)
  mapChans    : List Nat := []              -- channels mapped out (R267)
  laneRepairs : List (Nat × Nat) := []      -- channel and lane of HBM lane repairs (R264)
  mapPorts    : List Nat := []              -- expansion ports mapped out (R273)
  retLanes    : List Nat := []              -- fabric lanes retired (R308)
  retPress    : List Nat := []              -- Press units retired
  retAes      : List Nat := []              -- AES cores retired
  spareWires  : List Nat := []              -- spare wires steered in: bridge × 2^16 + wire ÷ 32 (R474)
  softPending : List (Nat × Nat) := []      -- quire and column awaiting a soft repair (R149)
  softRepairs : List SoftRepair := []
  counts      : List CountEvent := []       -- R473
  optime      : Nat := 0
  optimeSaved : Nat := 0
  boots       : Nat := 0
  errNext     : Nat := 0
  fhNext      : Nat := 0
  errLog      : List ErrRec := []
  fhLog       : List FhRec := []
  spareBlocks : Nat := 1916
  retBlocks   : Nat := 0
  wear        : Nat := 0
  errLost     : Nat := 0                    -- blocks of the error log and of the fault-history log that no spare has
  fhLost      : Nat := 0                    -- replaced (R482)
  domain      : Option DomainPolicy := none
  ideSettings : List Nat := []
  fuseSvn     : Nat := 0
  prodLock    : Bool := true
deriving DecidableEq, Repr

-- ---------------------------------------------------------------- instances and queues

/-- A submission queue (R317, R324). -/
structure Sq where
  pool     : Nat := 0             -- number in the device pool of 4,096
  depth    : Nat
  base     : Nat
  cq       : Nat
  cls      : Nat := 0
  batch    : Bool := false
  head     : Nat := 0
  tail     : Nat := 0
  deleting : Bool := false
  win      : Tab Byte := []       -- bytes written to the push window since the last tail doorbell
  fromWin  : List (Nat × Bytes) := []  -- ring index and entry taken from the window at the last doorbell
deriving DecidableEq, Repr

/-- A completion queue (R317, R333). -/
structure Cq where
  pool   : Nat := 0               -- number in the device pool of 4,096 (R192)
  depth  : Nat
  base   : Nat
  iv     : Nat := 0
  ien    : Bool := false
  head   : Nat := 0
  tail   : Nat := 0
  phase  : Bool := true
  unsig  : Nat := 0               -- entries posted and not yet signalled
deriving DecidableEq, Repr

/-- A completion held for a full queue (R332). -/
structure Held where
  cq     : Nat
  sq     : Nat
  cid    : Nat
  status : Nat
  covers : Nat
  batch  : Bool
  result : Nat
  detail : Nat
deriving DecidableEq, Repr

/-- An asynchronous event (R342). -/
structure Event where
  typ    : Nat
  info   : Nat
  lid    : Nat
  detail : Nat
deriving DecidableEq, Repr

/-- The allotment of Create Instance (R360). -/
structure Alloc where
  urgentOk     : Bool := false
  minEngines   : Nat := 0
  groups       : Nat := 1
  urgentGroups : Nat := 0
  sqs          : Nat := 2
  cqs          : Nat := 2
  aperture     : Nat := 0
  copy         : Nat := 0
  slotLimit    : Nat := 1024
  t0           : Nat := 1
  t1           : Nat := 0
  t2           : Nat := 0
  t2Base       : Nat := 0
  t2Len        : Nat := 0
  assocs       : Nat := 0
  share        : Nat := 0
  mbxTimeout   : Nat := 1
  thumb        : List Nat := []   -- one bank mask per array
  weights      : List Nat := []   -- one weight per local group
deriving DecidableEq, Repr

/-- The signals of a mailbox page (R367–R369); its bytes lie in `Space.mbx`. -/
structure Mbx where
  status   : Nat := 0             -- MBX_STATUS bits
  upSeq    : Nat := 0             -- SEQ of the tenant's waiting request
  downSeq  : Nat := 0
  upTimed  : Option Nat := none   -- SEQ of the tenant's timed-out request without a response
  downTimed : Option Nat := none
deriving DecidableEq, Repr

/-- An instance (R359–R375). -/
structure Inst where
  alloc      : Alloc := {}
  quiesced   : Bool := false
  quiescing  : Bool := false
  removing   : Bool := false
  resetting  : Bool := false
  rdy        : Bool := false
  disabling  : Bool := false      -- EN written 0 while fetched admin commands run (R316)
  sqs        : Tab Sq := []
  cqs        : Tab Cq := []
  hold       : List Held := []
  aers       : List Nat := []     -- fetch numbers of outstanding Asynchronous Event Requests, oldest first
  events     : List Event := []
  features   : Tab Nat := []
  mbx        : Mbx := {}
  subs       : Nat := 0           -- submission sequence number (R39)
  energy     : Int := 0           -- account A (R366)
  rrSq       : Tab Nat := []      -- by class, the SQ that took the last turn (R323)
  credits    : List Nat := [0, 0, 0]  -- weighted round robin of HIGH, MEDIUM and LOW: turns left (R323)
  quiesceCmd : Option Nat := none -- fetch number of the Quiesce Instance that waits
deriving DecidableEq, Repr

/-- How far a fetched command has come. -/
inductive Phase where
  | fetched       -- not started
  | running       -- started, not finished
  | done          -- succeeded in a BATCH queue and not yet covered by a completion
  | marker        -- a failed COMPLETE command whose batch completion is due (R330)
deriving DecidableEq, Repr

/-- A fetched command without its completion (R322, R329). -/
structure Cmd where
  no      : Nat             -- fetch number: device-wide, rising
  inst    : Nat
  sq      : Nat
  cid     : Nat
  op      : Nat
  flags   : Nat
  entries : List Bytes      -- the entry, or the entries of the chain
  phase   : Phase := .fetched
  status  : Nat := 0
  result  : Nat := 0
  detail  : Nat := 0
  prog    : Nat := 0        -- progress of a command that runs in parts (Load Segments)
  sub     : Nat := 0
deriving DecidableEq, Repr

/-- An HDM decoder (R312, R346). -/
structure Hdm where
  base      : Nat := 0
  size      : Nat := 0
  committed : Bool := false
deriving DecidableEq, Repr

-- ---------------------------------------------------------------- Pager and memory controllers

/-- A range of a device virtual address space (R216). -/
structure Range where
  inst    : Nat
  base    : Nat
  len     : Nat
  direct  : Bool := false     -- HOST_DIRECT
  big     : Bool := false     -- 2 MiB pages
  write   : Bool := false
  home    : Nat := 0          -- tier 0, 1 or 2
  inPlace : Bool := false
  place   : Nat := 0          -- 0 ANY, 1 CHANNEL, 2 SPREAD
  channel : Nat := 0
  closing : Option Nat := none  -- an UNMAP that waits (R218): fetch number of its command
deriving DecidableEq, Repr

/-- The STATE of a table entry (R222). -/
inductive PgState where
  | zero | t0 | t1 | t2 | movingOut | movingIn
deriving DecidableEq, Repr

/-- A table entry of a PAGED page (R222). A page without an entry is in state ZERO. -/
structure Page where
  state      : PgState := .zero
  origin     : PgState := .zero   -- while moving: the tier it moves from
  loc        : Nat := 0           -- LOCATION (word 1)
  compressed : Bool := false
  dirty      : Bool := false
  copy       : Bool := false
  copyTier   : Nat := 0
  copyUnit   : Nat := 0
  unitsM1    : Nat := 0
  channel    : Nat := 0
  segment    : Bool := false
  big        : Bool := false
  inPlace    : Bool := false
  toTier     : Nat := 0           -- an eviction in progress: tier chosen (0: an all-zero page), first unit, units
  toUnit     : Nat := 0
  toUnits    : Nat := 0
  restored   : Nat := 0           -- order of its last restore (R233: copies are freed oldest restore first)
deriving DecidableEq, Repr

/-- A frame descriptor (R224), with the order in which the instance took the frame (R229). A frame on the free list
has no descriptor here. -/
structure FrameDesc where
  alloc    : Bool := true
  secure   : Bool := false
  inst     : Nat := 0
  use      : Nat := 0             -- 0 DATA, 1 SEGMENT, 2 STAGING, 3 PAGE_TABLE, 4 ZEROING, 5 RETIRED, 6 HOST_WINDOW
  pins     : Nat := 0
  accessed : Bool := false
  logBuf   : Bool := false        -- part of the 64 MiB log buffer (R480)
  seq      : Nat := 0
deriving DecidableEq, Repr

/-- Who waits for a page (R230, R234). -/
inductive Waiter where
  | engine (e : Nat)
  | trimmer (leaf : Nat)
  | fetch (e : Nat)
  | cmd (no : Nat)
  | copy (c : Nat)
  | inbox (a : Nat)
  | window
  | trace
deriving DecidableEq, Repr

/-- The owner tag of a T1 unit: bits [14:4] of a frame descriptor (R224). -/
structure T1Tag where
  inst   : Nat
  use    : Nat := 0
  secure : Bool := false
deriving DecidableEq, Repr

/-- A demand for frames, in the order in which requesters began to wait (R230): a restore of a page (R234), or, at the address
2^48 + n − 1 where no page lies, the `n` frames that requester `who` lacks for its stage or its folio image (R43, R220). -/
structure Restore where
  inst : Nat
  va   : Nat
  who  : Option Waiter := none
deriving DecidableEq, Repr

/-- The Pager (R215–R236). -/
structure Pager where
  ranges   : List Range := []
  pages    : Tab Page := []           -- key: instance × 2^48 + page base
  frames   : Tab FrameDesc := []
  seq      : Nat := 0
  hand     : Tab Nat := []            -- per instance: order number of the frame last passed by the hand
  restores : List Restore := []       -- in the order the requesters began to wait
  t1Tags   : Tab T1Tag := []          -- owner tags of the T1 units in use (R224)
  t2Used   : Tab Nat := []            -- T2 units in use: instance × 2^40 + unit
  noRoom   : List (Waiter × Nat) := []  -- requesters that fail at their next attempt, with the status (R231)
  waiters  : List (Waiter × Nat × Nat) := []  -- requester, instance and page it waits for
deriving DecidableEq, Repr

/-- One HBM channel (R255–R269). -/
structure Chan where
  state     : Nat := 0                       -- 0 TRAINING, 1 IN_SERVICE, 2 MIGRATING, 3 MAPPED_OUT
  openRow   : Tab Nat := []                  -- per bank, the open row
  acts      : Tab (List (Nat × Nat)) := []   -- per bank, the activate-count table (row, count)
  nbrs      : Tab (List Nat) := []           -- per bank, the rows that its last neighbour refresh covered (R257)
  owedBase  : Nat := 0                       -- refresh commands that fell due for each bank before `owedAt` (R255, R256)
  owedAt    : Nat := 0
  refreshed : Tab Nat := []                  -- per bank, refresh commands issued
  twice     : Bool := false                  -- REFRESH_2X
  scrub     : Nat := 0                       -- next burst of the patrol pass (R262)
  cmdErrs   : List Nat := []                 -- timebase of the last command errors (R265)
  reserve   : Nat := 0                       -- reserve frames held in the channel (R266)
  covered   : Bool := false                  -- its lost frames have been covered (R266)
  ptOut     : Bool := false                  -- its page-table frames have moved out of it (R221)
  migrated  : Nat := 0
deriving DecidableEq, Repr

/-- What Cold Start fixes for HBM: mapping order, page-table frames, the channels in service (R221, R254, R266). -/
structure HbmPool where
  order    : Nat := 2
  ptFrames : Nat := 1024
  chans    : List Nat := []
  pool     : Nat := 0        -- frames of the T0 pool
  poolCut  : Nat := 0        -- pool frames given up to map-outs and retirements (R266)
  retiring : List (Nat × Nat × Nat) := []  -- frames to be retired once their contents can move: frame, row, count (R269)
deriving DecidableEq, Repr

/-- A CXL expansion port (R270–R273). -/
structure CxlPort where
  state    : Nat := 0        -- 0 DOWN, 1 TRAINING, 2 UP, 3 MAPPED_OUT
  width    : Nat := 0
  speed    : Nat := 0
  bytes    : Nat := 0
deriving DecidableEq, Repr

/-- A Press job: a command, or the Pager moving a page (R240, R247). -/
structure PressJob where
  cmd  : Option Nat := none
  inst : Nat
  fmt  : Nat
  page : Option Nat := none
  part : Nat := 0                       -- a page's job: which share of its blocks, of how many (R246)
  parts : Nat := 1
  dicts : List (Nat × Nat × Nat) := []  -- Dictionary_ID, address and length when the job started (R239)
deriving DecidableEq, Repr

/-- A stream context saved at an address of an instance (R240; log 28). -/
structure PressStream where
  inst : Nat
  addr : Nat
  st   : Stream
deriving DecidableEq, Repr

/-- The Press (R237–R247). -/
structure Press where
  waiting : List PressJob := []
  units   : Tab PressJob := []          -- running job of each unit
  rr      : Nat := 0
  dicts   : Tab (Nat × Nat) := []       -- instance × 2^32 + Dictionary_ID: address and length (R239)
  streams : List PressStream := []      -- stream contexts (R240)
deriving DecidableEq, Repr

-- ---------------------------------------------------------------- scheduling groups, Thumb banks, copy channels

/-- A scheduling group of the device (R189, R197–R200). -/
structure Group where
  inst    : Nat
  local_  : Nat
  urgent  : Bool := false
  weight  : Nat := 1
  deficit : Int := 0
  skips   : Nat := 0          -- SKIP_PERIODS
  skipped : Bool := false     -- skipped in the current period
  placed  : Bool := false     -- a leaf was placed in the current period
deriving DecidableEq, Repr

/-- A bank of a Thumb index array (R154, R156, R159). -/
structure Bank where
  owner    : Nat
  retained : Bool := false
  waking   : Bool := false
  epoch    : Nat := 0         -- counts entry writes and clears (R351)
deriving DecidableEq, Repr

/-- A copy channel held by an instance (R419–R433). -/
structure CopyChan where
  inst    : Nat
  local_  : Nat
  state   : Nat := 0              -- 0 IDLE, 1 RUNNING, 2 ENDED, 3 HALTED
  cur     : Nat := 0              -- running or last completed descriptor, in NEXT form
  desc    : Option Bytes := none  -- the descriptor in progress, read whole
  pos     : Nat := 0              -- bytes of it moved
  done    : Bool := false         -- it has completed; its NEXT is to be taken
  next    : Nat := 0              -- the next descriptor, in NEXT form, 0 for none
  fault   : Nat := 0              -- the status with which it fails while its write-back waits, or 0
  halt    : Bool := false         -- a late write error: HALTED after this descriptor
  last    : Nat := 0              -- LAST_STATUS
  resume  : Bool := false         -- RESUME_PENDING
  bytes   : Nat := 0
  late    : Nat := 0
deriving DecidableEq, Repr

/-- A key slot of the IDE engine (R388): its key, and whether its key set carries traffic. -/
structure IdeKey where
  key : Bytes
  go  : Bool := false
deriving DecidableEq, Repr

/-- A TDI that has left CONFIG_UNLOCKED (R390): 1 CONFIG_LOCKED, 2 RUN, 3 ERROR; its IDE stream. -/
structure Tdi where
  state  : Nat
  stream : Nat := 0
deriving DecidableEq, Repr

/-- The Slipcase (R376–R396). -/
structure Slc where
  state    : Nat := 0         -- 0 BOOT, 1 RUNNING, 2 RESTARTING, 3 RUNNING_GOLDEN
  restarts : Nat := 0
  golden   : Bool := false    -- the golden component has been booted (R396)
  sessions : Nat := 0         -- secured SPDM sessions (R389)
  reserve  : Nat := 0         -- unused XTS pairs
  denied   : Nat := 0
  activeSvn : Nat := 0
  ide      : Tab IdeKey := [] -- by stream × 4 + direction × 2 + slot (R388)
  tdis     : Tab Tdi := []    -- by VF
deriving DecidableEq, Repr

-- ---------------------------------------------------------------- engines (R93–R127)

/-- An exact accumulator (R115): VALUE × 2^−1,074, COUNT and the four FLAGS. -/
structure ExactAcc where
  value : BitVec 4096 := 0
  count : Word := 0
  flags : BitVec 4 := 0
deriving DecidableEq, Repr

/-- A Thumb index entry (R154). -/
structure ThumbEntry where
  key      : Word128
  care     : Word128
  priority : BitVec 16
  payload  : BitVec 32
  valid    : Bool
deriving DecidableEq, Repr

/-- A staged write of a leaf (R42, R108). Quire offsets are those of the engine's own quire. -/
inductive StageItem where
  | quire (off : Nat) (b : Bytes)            -- a write to quire memory
  | dev (va : Nat) (b : Bytes)               -- a write to the device address space
  | aadd (off : Nat) (v : Word)              -- AADD
  | aswp (off : Nat) (v : Word)              -- ASWP
  | accQuire (off : Nat) (a : ExactAcc)      -- XPOST to an image in quire memory
  | accDev (va : Nat) (a : ExactAcc)         -- XPOST to an image in device memory
  | thumb (idx : Nat) (t : ThumbEntry)       -- THW
  | record (va : Nat) (b : Bytes)            -- a record in reserved space (R121, R179)
  | send (assoc : Nat) (b : Bytes)           -- a record for an association (R181, R298)
deriving DecidableEq, Repr

/-- Space that a leaf has reserved for a record (R121, R179): its address, length and header. -/
structure Reserved where
  va     : Nat
  len    : Nat
  header : Bytes
  chunk  : Option Nat := none      -- the chunk of a local partition buffer
  rows   : Nat := 0
deriving DecidableEq, Repr

/-- A batch in an input window (R119): window offset, length, END. -/
structure Batch where
  off   : Nat
  len   : Nat
  last  : Bool
deriving DecidableEq, Repr

/-- A FETCH that waits at the fetch unit (R113, R183). -/
structure FetchReq where
  d    : Nat
  pos  : List Nat       -- element addresses
  on   : List Bool      -- active elements
  mask : Option Nat     -- the mask that bounds them
  pins : List Nat := [] -- frames of pages in place, pinned while others are restored (R184)
deriving DecidableEq, Repr

/-- The leaf that an engine runs: registers and control values (R99), window, stage. -/
structure EngRun where
  leaf    : Nat
  pc      : Nat
  g       : Vector Word 32
  v       : Vector (BitVec 512) 32
  m       : Vector Word 8
  acc     : Vector ExactAcc 4
  vl      : Nat
  ew      : Nat := 3
  vlen    : Nat := 512
  sb      : Word := 0xFFFFFFFFFFFFFFFF
  ffi     : Nat := 0
  ovf     : Bool := false
  spawns  : Nat := 0
  steps   : Nat := 0
  limit   : Nat
  free    : Option Nat := none          -- counter of the free bytes under the undefined working space (R98)
  stage   : List StageItem := []
  staged  : Nat := 0                    -- bytes of the stage (R43)
  spill   : List Nat := []              -- staging frames
  pins    : List Nat := []              -- frames pinned for staged writes (R42)
  resv    : List Reserved := []
  cols    : Tab (Nat × List Nat) := []  -- open row group: column, EW code and values
  rows    : Nat := 0                    -- rows of the row groups closed so far
  spawned : List Nat := []              -- leaves spawned and HELD
  batches : List Batch := []            -- delivered and not released, oldest first
  handed  : Bool := false               -- the oldest has been returned by BNEXT
  ended   : Bool := false               -- the END batch has been released
  tail    : Nat := 0                    -- window offset after the newest batch
  fetch   : Option FetchReq := none
  banks   : Nat := 0                    -- Thumb banks searched (R158)
  waking  : Nat := 0                    -- banks of its Thumb operation while it waits for a wake or its turn (R159, R160)
deriving DecidableEq, Repr

/-- A cursor context of an engine slot (R162). -/
structure Cursor where
  open_  : Bool := false
  used   : Bool := false               -- closed after its last match (R163)
  key    : Word128 := 0
  mask   : Nat := 0
  prio   : Nat := 0
  idx    : Nat := 0
  gen    : Nat := 0
  order  : Nat := 0
deriving DecidableEq, Repr

/-- A detected engine fault in its 100 µs hold (R445): mechanism, physical engine, leaf, whether it ended the second
attempt, whether it was injected, whether SAG was set on the die meanwhile. -/
structure EngFault where
  mech     : Nat
  phys     : Nat
  leaf     : Nat
  last     : Bool
  injected : Bool
  sag      : Bool
deriving DecidableEq, Repr

/-- What an engine keeps between leaves (R97, R98, R162). -/
structure Eng where
  run      : Option EngRun := none
  code     : Option (Nat × Nat × Nat) := none   -- instance, submission and code section held
  codeLen  : Nat := 0
  const    : Option (Nat × Nat × Nat) := none   -- instance, submission and constant pool held
  lastInst : Option Nat := none
  cursors  : List Cursor := [{}, {}, {}, {}]
  faults   : List EngFault := []                -- detected faults in their hold, oldest first
  retire   : Option (Nat × Nat) := none         -- a retirement that waits for the attempt's end: engine, count (R127)
deriving DecidableEq, Repr

-- ---------------------------------------------------------------- folios, runs, leaves (R25–R56)

/-- A folio slot: the image and the frames that hold it under the quota (R220, R337). -/
structure FolioSlot where
  image  : Bytes
  frames : List Nat
deriving DecidableEq, Repr

/-- A sketch block (R83): sparse registers and buckets. -/
structure Sketch where
  hll      : Tab Nat := []
  hh       : List (Nat × Nat × Nat) := []   -- KEY, COUNT, ERROR
  histo    : Tab Nat := []
  scanned  : Nat := 0
  selected : Nat := 0
  nulls    : Nat := 0
  recheck  : Nat := 0
deriving DecidableEq, Repr

/-- The input units of a leaf (R38). -/
inductive LeafSrc where
  | none                                         -- a spawned leaf
  | scan (first count trimmer : Nat)             -- first descriptor, descriptors, Trimmer
  | chunks (addrs : List Nat)                    -- partition buffer chunks
  | merge (first count : Nat)                    -- records of the merged sequence
  | inbox (assoc first count : Nat)              -- messages of an association, by message number
deriving DecidableEq, Repr

/-- The state of a leaf in a slot (R40, R192). -/
inductive LeafState where
  | ready | running | committing | held
deriving DecidableEq, Repr

/-- How far a merge has come (R170, R171): records taken from each run, the last key of each, records merged. -/
structure MergePos where
  taken : List Nat
  last  : List (Option Nat)
  done  : Nat := 0
deriving DecidableEq, Repr

/-- A leaf in a ready-leaf slot (R39, R192), with the progress of its source. -/
structure Leaf where
  inst     : Nat
  sub      : Nat
  sig      : Nat
  ord      : Nat
  group    : Nat
  cls      : Nat
  home     : Option Nat
  cq       : Nat                    -- pool number of its completion queue
  state    : LeafState := .ready
  commitAt : Nat := 0               -- timebase of its COMMIT, while COMMITTING (R17)
  waked    : Bool := false          -- its commit has waited for a wake or its turn (R159, R160)
  attempts : Nat := 0
  exclude  : Option Nat := none
  seq      : Int                    -- order in the group's ready list
  arg      : Nat := 0               -- spawn argument
  src      : LeafSrc
  engine   : Nat := 0
  unit_    : Nat := 0               -- source unit in progress
  row      : Nat := 0               -- rows (or records) of that unit delivered
  rowBase  : Nat := 0
  merge    : Option MergePos := none
  mergeAt  : Option MergePos := none
  fetched  : Nat := 0               -- reads that HBM_TRIM_BYTES has counted: 8 × page group + reads of it (R92)
  sketches : Tab Sketch := []
  rowsIn   : Nat := 0
  rowsOut  : Nat := 0
  steps    : Nat := 0
  stage    : List StageItem := []   -- while COMMITTING
  spill    : List Nat := []
  pins     : List Nat := []
  resv     : List Reserved := []
  spawned  : List Nat := []
deriving DecidableEq, Repr

/-- A chunk of a local partition buffer region (R178). -/
structure Chunk where
  part    : Nat
  quire   : Nat
  used    : Nat := 64
  rows    : Nat := 0       -- reserved rows
  real    : Nat := 0       -- rows of committed records
  records : Nat := 0
  open_   : Bool := true
deriving DecidableEq, Repr

/-- The end of a signature (R53). -/
inductive SigState where
  | notStarted | running | finished | failed | cancelled | skipped
deriving DecidableEq, Repr

/-- A signature of a run (R36–R39). -/
structure SigRun where
  state    : SigState := .notStarted
  enabled  : Bool := false
  first    : Nat := 0               -- FIRST_STATUS
  retries  : Nat := 0
  ok_      : Nat := 0
  failed   : Nat := 0
  rowsIn   : Nat := 0
  rowsOut  : Nat := 0
  ords     : Nat := 0               -- next ordinal of the Cutter, and of a SPAWN once the input is exhausted
  spawns   : Nat := 0               -- leaves spawned while the Cutter still cut (R39; log 31)
  passed   : Bool := false          -- SKIPPED by its decision point's choice of another alternative (R36)
  assocOrd : Tab Nat := []          -- next ordinal per association (R300)
  ended    : List Nat := []         -- associations whose end-of-stream has been taken (R300)
  cutAt    : Nat := 0               -- position of the Cutter in the source
  drained  : Bool := false          -- input exhausted
  lost     : Bool := false          -- a leaf was cancelled, or failed not under CONTINUE
  merger   : Option Nat := none     -- quire of the merger
  building : Bool := false          -- its THUMB_BUILD start waits for a wake or its turn (R159, R160, R166)
  sketches : Tab Sketch := []
  divert   : Option (List Nat) := none
  chunks   : List Chunk := []       -- in order of allocation
  mpos     : MergePos := { taken := [], last := [] }
  started  : Nat := 0               -- order of starting (R173)
deriving DecidableEq, Repr

/-- A decision record (R53). -/
structure DecRec where
  dec    : Nat
  chosen : Nat
  kind   : Nat
  sig    : Nat
  hh     : Nat
  value  : Nat
  time   : Nat
deriving DecidableEq, Repr

/-- A failed-leaf record (R53). -/
structure FailRec where
  leaf     : Nat
  status   : Nat
  engine   : Nat
  attempts : Nat
  detail   : Nat
deriving DecidableEq, Repr

/-- A run of a folio (R35–R56). -/
structure Run where
  inst      : Nat
  sub       : Nat
  slot      : Nat
  image     : Bytes
  cmd       : Nat
  sigs      : List SigRun := []
  decs      : List DecRec := []
  decided   : List Nat := []         -- decision points evaluated or passed over
  fails     : List FailRec := []
  failed    : Nat := 0
  removed   : Nat := 0               -- leaves removed and counted as cancelled, 0x6002 (R49, R51; log 81)
  committed : Nat := 0
  steps     : Nat := 0
  start     : Option Nat := none
  finish    : Option Nat := none
  stop      : Nat := 0               -- status of the failure that stopped the run, or 0
  cancelled : Bool := false
  limit     : Bool := false
  results   : Tab Nat := []          -- next free offset of each result buffer, by its address
deriving DecidableEq, Repr

-- ---------------------------------------------------------------- quires, Trimmers, Collator (R57–R214)

/-- A dictionary held by a Trimmer (R69): its tag, its bytes and its held size. -/
structure HeldDict where
  leafRun : Nat       -- instance × 2^17 + submission
  sig     : Nat
  stream  : Nat
  id      : Nat
  aux     : Bytes
  size    : Nat
  users   : List Nat    -- leaves whose page group in progress needs it
deriving DecidableEq, Repr

/-- A Trimmer (R57): leaves in service or waiting, first four in service, the one served last at their end;
dictionaries, least recently used first. -/
structure Trim where
  leaves : List Nat := []
  dicts  : List HeldDict := []
  reason : Nat := 0
deriving DecidableEq, Repr

/-- A march in a quire (R146). -/
structure March where
  busy   : Bool := false
  wait   : Bool := false
  mode   : Nat := 0                            -- MODE and TARGET of the test in progress
  target : Nat := 0
  result : Nat := 0
  fails  : Nat := 0
  run    : Option (Nat × Nat × Nat × Bool) := none   -- columns failing, repaired, unrepaired; unmaskable
deriving DecidableEq, Repr

/-- What the arbiter of a Thumb array keeps (R160): aperture searches taken in a row while another requester waited; was
its last other operation an entry write; the engine slot served last. -/
structure ThumbArb where
  apRow : Nat := 0
  wrote : Bool := true
  slot  : Nat := 15
deriving DecidableEq, Repr

/-- A quire (R128–R188). -/
structure Quire where
  credit   : Int := 0
  refill   : Nat := 0
  march    : March := {}
  drain    : Bool := false
  throttle : Nat := 0
  rr       : Nat := 0                      -- last merge served by the merger
  arb      : ThumbArb := {}                -- arbiter of its Thumb array (R160)
  region   : Tab (List Nat) := []          -- QM_REGION[m][0..7] as each master has loaded them (R138)
deriving DecidableEq, Repr

/-- A write that reached quire memory, kept while the timebase stands still (R134): the bytes before it; for a Spine-side
write, what the engine side still sees there. `past`: a leaf or a copy descriptor has started since, so that reads no
longer fall in its instant (log 63). -/
structure Arrival where
  time  : Nat
  quire : Nat
  off   : Nat
  len   : Nat
  spine : Bool
  slot  : Nat
  leaf  : Nat
  old   : Bytes
  orig  : Bytes
  past  : Bool := false
deriving DecidableEq, Repr

/-- A dispatch trace ring (R207); `fresh`: its header is still to be written. -/
structure Ring where
  base  : Nat
  size  : Nat
  fresh : Bool := true
  prod  : Nat := 0
  cons  : Nat := 0        -- CONS as last read (R210)
  lost  : Nat := 0
deriving DecidableEq, Repr

/-- The Collator (R189–R212). -/
structure Coll where
  ptr      : Nat := 0
  uptr     : Nat := 0
  requests : List Nat := []              -- groups that wait for a reservation
  grants   : List (Nat × Nat) := []      -- group and quire, in grant order
  limited  : Bool := false
  clear    : Nat := 0                    -- consecutive periods without a limit (R205)
  seq      : Int := 0
  starts   : Nat := 0                    -- signatures started so far (R173)
  idle     : List Nat := []              -- quires with an IDLE record in this period
  accept   : Nat := 255                  -- engine whose commit the Spine port arbiter accepted last (R17)
  spawns   : List Nat := []              -- engines whose SPAWN waits, in order of arrival
  cutters  : List (Nat × Nat × Nat) := []  -- insertions that wait: instance, submission, signature
  rings    : Tab Ring := []              -- 0 the device ring, i + 1 the ring of instance i
  backlog  : List (Nat × Bytes) := []    -- records whose ring page is being restored
deriving DecidableEq, Repr

-- ---------------------------------------------------------------- associations and inboxes (R291–R300)

/-- A committed record that an association sends: number, stream offset, bytes (R298). -/
structure Message where
  no    : Nat
  off   : Nat
  bytes : Bytes
  eos   : Bool
  quire : Nat := 16   -- the partitioner that holds it (16: none, R181)
deriving DecidableEq, Repr

/-- An authentic DATA payload that waits for the pages of its inbox (R21, R234), in the receive buffer of the group and
priority on which it came (R287). -/
structure RxPart where
  off   : Nat
  bytes : Bytes
  eos   : Bool
  group : Nat
  prio  : Nat
deriving DecidableEq, Repr

/-- A complete message of an inbox (R299, R300): its bytes lie in the association's slabs. -/
structure InMsg where
  no  : Nat           -- message number in the peer's stream
  off : Nat
  len : Nat
  rows : Nat          -- ROWS of its record header
  eos : Bool
deriving DecidableEq, Repr

/-- A path of an association (R291, R294, R295): its port by first lane, its peer address, its rate in 2^-16 MB/s, its
congestion estimate in 2^-32, and the bytes of the period's path reports. -/
structure Path where
  lane    : Nat
  family  : Nat
  ip      : Nat
  rate    : Nat := 0
  alpha   : Nat := 2 ^ 32
  suspect : Bool := false
  rtos    : Nat := 0           -- consecutive retransmission timeouts
  next    : Nat := 0           -- timebase from which pacing allows a frame
  rx      : Nat := 0
  ce      : Nat := 0
deriving DecidableEq, Repr

/-- A DATA frame not yet acknowledged (R302). -/
structure Sent where
  psn   : Nat
  off   : Nat
  len   : Nat
  eos   : Bool
  path  : Nat
  at_   : Nat
  retx  : Bool := false
  fast  : Bool := false        -- fast retransmission done
  sack  : Bool := false
deriving DecidableEq, Repr

/-- A receive key with the NONCE_SEQs it has seen, as ranges (R283, R304). -/
structure RxKey where
  epoch : Nat
  key   : Bytes
  salt  : Bytes
  seen  : List (Nat × Nat) := []
deriving DecidableEq, Repr

/-- A key exchange in progress (R384). -/
structure Est where
  initiator : Bool
  xid       : Nat
  eph       : Nat              -- ephemeral private key
  hello     : Bytes
  reply     : Bytes := []
deriving DecidableEq, Repr

/-- An association entry (R291). -/
structure Assoc where
  inst     : Nat
  state    : Nat := 1          -- 1 OPENING, 2 OPEN, 3 CLOSING, 4 FAILED, 5 HELD
  group    : Nat := 0
  local_   : Nat := 0          -- local inbox that the peer's stream feeds
  remote   : Nat := 0          -- remote inbox that this side's stream feeds
  tag      : Nat := 0
  peerTag  : Nat := 0
  addr     : Nat := 0          -- PEER_ADDR
  care     : Nat := 0          -- PEER_CARE
  prio     : Nat := 0
  paths    : List Path := []
  seg      : Nat := 8192
  est      : Option Est := none
  -- keys
  txEpoch  : Nat := 0
  txKey    : Bytes := []
  txSalt   : Bytes := []
  txSeq    : Nat := 0
  txNext   : Option (Bytes × Bytes) := none   -- key and salt of the new epoch, in use once the peer's REKEY arrives
  rx       : List RxKey := []
  erase    : Bool := false     -- a frame of the new epoch has arrived: the old key goes in 20 ms
  rekeyDue : Bool := false     -- a counter has reached 2^63 (R304)
  rekeyAsk : Bool := false     -- a rekey is to start (R386)
  epochAt  : Nat := 0          -- timebase at which the transmit epoch began
  rekeySent : Bool := false    -- REKEY sent and not yet answered by a frame of the new epoch
  -- sending
  out      : List Message := []  -- committed records not yet wholly acknowledged
  outNo    : Nat := 0          -- number of the next record
  outEnd   : Nat := 0          -- stream offset after the last record
  sent     : Nat := 0          -- stream offset sent so far
  psn      : Nat := 0          -- next PSN, not reduced
  flight   : List Sent := []   -- by PSN
  resend   : List Nat := []    -- PSNs to be sent again
  credit   : Nat := 131072     -- CREDIT_LIMIT of the peer
  srtt     : Nat := 0          -- ns; 0 before the first sample
  rttvar   : Nat := 0
  rto      : Nat := 0          -- timer period, ns
  rtoRuns  : Nat := 0          -- consecutive expiries
  rtoAt    : Nat := 0          -- timebase at which the timer last restarted
  timer    : Nat := 0          -- FAB_TIMER_CFG as of that start (R311)
  minMbs   : Nat := 1          -- FAB_RC_CFG.MIN_MBS as of the last period (R311)
  probes   : List (Nat × Nat × Nat) := []  -- NONCE_SEQ, path and time of PROBEs not yet answered
  closing  : Bool := false     -- CLOSE has been sent
  closed   : Bool := false     -- the exchange of CLOSE has ended while the Slipcase was unavailable (R394)
  -- receiving
  cum      : Nat := 0          -- CUM_PSN, not reduced
  got      : List Nat := []    -- PSNs received above it
  unplaced : List RxPart := [] -- payloads received whose pages are not in place
  parts    : List (Nat × Bytes × Bool) := []  -- payloads beyond the last complete message: offset, bytes, EOS
  inEnd    : Nat := 0          -- stream offset after the last complete message
  inNo     : Nat := 0          -- number of the next message to become complete
  msgs     : List InMsg := []  -- complete messages not yet freed, oldest first
  cutNo    : Nat := 0          -- number of the next message the Cutter takes
  slabs    : Tab Nat := []     -- stream offset ÷ 64 KiB and the inbox slab granted for it
  granted  : Nat := 0          -- slabs granted so far
  backlog  : Nat := 0          -- BACKLOG_64K last reported by the peer
  ackRun   : Nat := 0          -- DATA frames since the last ACK
  ackPath  : Nat := 0          -- path on which the latest DATA frame arrived
  ackLimit : Nat := 131072     -- CREDIT_LIMIT last reported
  rxRep    : Tab (Nat × Nat) := []  -- per path of the peer, bytes and CE-marked bytes since the last ACK
deriving DecidableEq, Repr

/-- An inbox (R297). -/
structure Inbox where
  inst : Nat
  base : Nat
  len  : Nat
  rr   : Nat := 0      -- association granted a slab last
deriving DecidableEq, Repr

/-- A HELLO that no local request matches yet (R384). -/
structure Hello where
  port    : Nat
  src     : Nat
  payload : Bytes
deriving DecidableEq, Repr

/-- A fabric port, by its first lane (R277, R308, R310). -/
structure FabPort where
  state  : Nat := 1            -- 1 TRAINING, 2 UP, 3 DOWN, 4 DOWN_RETIRED
  lanes  : Nat
  paused : Nat := 0            -- priorities that the peer holds paused
  ignore : Nat := 0            -- priorities whose PAUSE is ignored for 100 ms
  held   : List (Nat × Bytes) := []  -- frames of paused priorities that wait to be sent, with their priority
  lost   : List Nat := []      -- lanes to which the retrain in progress is charged
  ucw    : List (Nat × Nat) := []    -- uncorrectable codewords of the last millisecond, with their time (R281)
  errs   : Tab Nat := []       -- FEC symbol errors by lane since the port came up (R308)
deriving DecidableEq, Repr

/-- The fabric's device-wide state: ports, unpaired HELLOs, and the rate windows of R283–R285 and R386 as start time and
count. -/
structure Fab where
  ports  : Tab FabPort := []
  hellos : List Hello := []
  estWin : Nat × Nat := (0, 0)
  estDrops : Nat := 0           -- ESTABLISH frames dropped over the Slipcase's rate (R21, R283)
  slow   : Tab (Nat × Nat) := []
  slowHeld : Tab (List (Nat × Frame)) := []  -- by group, slow-path frames that wait for Efura firmware, with their time (R309)
  macDrops : Tab Nat := []      -- by port, frames that the MAC dropped under R279
  xoff   : Tab Nat := []        -- by group, the priorities whose XOFF has been sent (R287)
  sample : Tab Nat := []
  rekeys : Nat × Nat := (0, 0)
  udp    : Nat := 0xBA10        -- UDP_PORT as the last Cold Start applied it
deriving DecidableEq, Repr

-- ---------------------------------------------------------------- cipher and digest complex (R400–R418)

/-- The open message of a cipher page (R402): its operation, mode and key length, and its chaining state. -/
structure CryMsg where
  op    : Nat
  mode  : Nat
  bits  : Nat
  iv    : Bytes          -- CBC: feedback block. CTR: bytes 0–7 of the counter block. GCM: the 12-byte IV.
  ctr   : Nat := 0       -- CTR: bytes 8–15 of the next counter block, 2^64 once they are used up
  ghash : Nat := 0
  aad   : Nat := 0       -- bytes of additional data
  text  : Nat := 0       -- bytes of text so far
deriving DecidableEq, Repr

/-- A register page of the cipher complex (R402). -/
structure CryPage where
  bits    : Nat := 0         -- key length, 0 without a key
  pair    : Bool := false
  key1    : Bytes := []
  key2    : Bytes := []
  msgCtr  : Nat := 0
  ivFixed : Bytes := [0, 0, 0, 0]
  msg     : Option CryMsg := none
deriving DecidableEq, Repr

/-- The cipher and digest complex: pages, digest jobs that wait and those that run, by unit (R402, R414). -/
structure Cry where
  pages : Tab CryPage := []
  wait  : List Nat := []      -- fetch numbers of Digest commands
  units : Tab Nat := []
  rr    : Nat := 0            -- instance whose turn was last
deriving DecidableEq, Repr

/-- The power controller (R436–R445): what it keeps beside its registers. -/
structure Pwr where
  fifo     : List (List Nat × List Nat) := []  -- refills under way to the Collator, and the commands that each completes
  currents : Tab (List Nat) := []   -- per die, the mean currents of the last 100 refills in mA, newest last
  refills  : Tab (List Nat) := []   -- per die, the last 100 refills in nJ
  powers   : Tab (List Nat) := []   -- per die, the power of the last 100 telemetry reads in mW
  limited  : Bool := false          -- a limited period since the last revision of the targets (R437)
  below    : Tab Nat := []          -- per die, consecutive telemetry reads on the other side of the SAG bound (R445)
  hot      : List Nat := []         -- quires whose thermal factor stays 0 (R442)
  sensors  : Tab (Int × Nat) := []  -- last reading of each sensor and since when it has stood
  ignored  : List Nat := []         -- sensors ignored (R442)
deriving DecidableEq, Repr

/-- A read of an aperture window that the host port or the array still holds (R354, R355): window, array, key, banks, rank
page, whether its deadline has passed, whether it has waited for a wake. -/
structure ApRead where
  win     : Nat
  array   : Nat
  key     : Word128
  mask    : Nat
  page    : Nat
  expired : Bool := false
  waked   : Bool := false
deriving DecidableEq, Repr

/-- The lookup aperture (R346–R358): reads held, their numbers, the time of each window's last error record. -/
structure Aperture where
  reads  : Tab ApRead := []
  no     : Nat := 0
  logged : Tab Nat := []
deriving DecidableEq, Repr

/-- A timer that has run out in the current tick of the timebase; it acts when the tick ends, so that the answer that
R16 prefers is taken first whatever the instants of the two within the tick (log 82). -/
inductive Expiry where
  | aperture (n : Nat)                 -- the service deadline of an aperture read
  | mailbox (inst : Nat) (up : Bool)   -- the response timeout of a mailbox request
  | retransmit (a : Nat)               -- the retransmit timer of an association
deriving DecidableEq, Repr

/-- The whole machine. -/
structure State where
  pending   : List Instr := []
  expired   : List Expiry := []        -- timers that have run out in this tick (R16)
  freeCtr   : Nat := 0
  outbox    : List Output := []
  powerGood : Bool := false
  stopped   : Bool := false            -- THERMTRIP_N has stopped every block (R443)
  timebase  : Nat := 0
  ppsStamp  : Nat := 0
  pins      : Pins := {}
  clkLost   : List RefClk := []
  dev       : Dev := {}
  col       : Col := {}
  log       : LogBuf := {}
  regs      : Tab Nat := []            -- PF BAR0 registers that hold their own value, by offset
  winRegs   : Tab Nat := []            -- instance-window registers: function × 2^20 + offset
  mem       : Mem := []
  msixCtl   : Tab Nat := []            -- by function, MSI-X Enable (bit 15) and Function Mask (bit 14) of configuration space (R312)
  link      : Option (Nat × Nat) := none  -- lanes and PCIe generation of the host link while it is up (R312)
  hostErrs  : List (Nat × Nat × HostErr) := []  -- ranges of keys the host answers with an error (R522)
  insts     : Tab Inst := []
  cmds      : List Cmd := []           -- fetched commands, oldest first
  cmdNo     : Nat := 0
  rrAdmin   : Nat := 0                 -- round robin of admin SQs (R323)
  rrIo      : Nat := 0
  hdm       : Tab Hdm := []
  poison    : List Nat := []           -- keys of poisoned words (on chip) and bursts (HBM, T1) (R142, R260)
  upsets    : Tab Upset := []          -- bursts and lines, by key, that have gone bad and not been found (R259–R261, R272)
  pager     : Pager := {}
  chans     : Tab Chan := []
  hbm       : HbmPool := {}
  ports     : Tab CxlPort := []        -- expansion ports
  press     : Press := {}
  xts       : Tab Bytes := []          -- per instance, its XTS key pair, 64 bytes (R232)
  slotWait  : List Nat := []           -- instances with an insertion or SPAWN that waits (R203)
  groups    : Tab Group := []          -- valid scheduling groups by device number
  banks     : Tab Bank := []           -- owned Thumb banks: array × 64 + bank
  copies    : Tab CopyChan := []       -- held copy channels by device number
  slc       : Slc := {}
  shares    : List (Nat × Nat × List Nat) := []  -- new POWER_SHARE and weights waiting for the next refill (R363)
  eng       : Tab Eng := []            -- by engine number
  folios    : Tab FolioSlot := []      -- instance × 256 + slot
  runs      : Tab Run := []            -- instance × 2^17 + submission
  leaves    : Tab Leaf := []           -- by leaf identifier
  trims     : Tab Trim := []           -- by channel
  quires    : Tab Quire := []
  thumb     : Tab ThumbEntry := []     -- valid or written entries: array × 65,536 + index
  coll      : Coll := {}
  arrivals  : List Arrival := []
  assocs    : Tab Assoc := []          -- entries not FREE, by index
  inboxes   : Tab Inbox := []
  cry       : Cry := {}
  fab       : Fab := {}
  pwr       : Pwr := {}
  apr       : Aperture := {}
deriving DecidableEq, Repr

/-- The package before power-good has ever risen: every field at the value the spec gives for reset, or the value
the assumption log names (logs 2, 3, 8, 9, 10). -/
def State.reset : State := {}

end Sys2Proof.Machine
end

