-- ==== Sys2Proof/Machine/Regs.lean ====
section
/-! DEFINITION. The register table of PF BAR0 (R518 and the register tables of the chapters): for each writable
register its RW and W1C bits, its reset value and its persisted bits; which offsets are assigned; which writes are
ignored because a field breaks its range. -/
namespace Sys2Proof.Machine

/-- What a write does to a register: RW bits, W1C bits, the Reset column, persisted bits (R517), and whether an RW
field crosses bit 32, so that it accepts only 8-byte writes (R511). -/
structure RegInfo where
  rw      : Nat
  w1c     : Nat := 0
  reset   : Nat := 0
  persist : Nat := 0
  wide    : Bool := false
deriving DecidableEq, Repr

/-- The index of `off` in a register array. -/
def inArr (off base stride count : Nat) : Option Nat :=
  if off < base then none
  else
    let d := off - base
    if stride = 0 then none
    else if d % stride = 0 ∧ d / stride < count then some (d / stride) else none

/-- Is `off` in a register array? -/
def isArr (off base stride count : Nat) : Bool := (inArr off base stride count).isSome

def allOnes : Nat := 0xFFFFFFFFFFFFFFFF

def offModeCtrl : Nat := 0x18
def offMbxIv : Nat := 0x100000
def offCollCfg : Nat := 0x200000
def offDefMax : Nat := 0x200010
def offCost (c : Nat) : Nat := 0x200100 + 8 * c
def offQCap (q : Nat) : Nat := 0x201008 + 0x20 * q
def offPgrCfg : Nat := 0x300000
def offOwnerSel : Nat := 0x300020
def offWalkAddr : Nat := 0x300030
def offWalkCtrl : Nat := 0x300038
def offHbmCfg : Nat := 0x407000
def offFabCfg : Nat := 0x600000
def offFabRc : Nat := 0x600008
def offFabTimer : Nat := 0x600010
def offAssocSel : Nat := 0x600018
def offGroupCfg (g : Nat) : Nat := 0x610000 + 0x1000 * g
def offPwrCfg : Nat := 0x700000
def offTherm : Nat := 0x700008
def offDie (d : Nat) : Nat := 0x700100 + 0x10 * d
def offMarch (q : Nat) : Nat := 0x800000 + 0x8000 * q
def offOvw (q : Nat) : Nat := 0x800010 + 0x8000 * q
def offRset (i k : Nat) : Nat := 0x880000 + 0x40 * i + 8 * k
def offQmConfig : Nat := 0x882000
def offThxIdle : Nat := 0x910000
def offThxThrottle : Nat := 0x910008
def offTrcCtrl : Nat := 0xA00000
def offTrcBase : Nat := 0xA00008
def offTrcInstCtrl (i : Nat) : Nat := 0xA01000 + 0x10 * i
def offTrcInstBase (i : Nat) : Nat := 0xA01008 + 0x10 * i
def offPrsCfg : Nat := 0xC00000
def offWinCfg (w : Nat) : Nat := 0xE00000 + 0x40 * w
def offWinKeyHi (w : Nat) : Nat := 0xE00008 + 0x40 * w
def offWinKeyLo (w : Nat) : Nat := 0xE00010 + 0x40 * w
def offWinMask (w : Nat) : Nat := 0xE00018 + 0x40 * w
def offHbmw : Nat := 0xE00800
def offInject : Nat := 0xF00038
def offThresh (r : Nat) : Nat := 0xF00100 + 8 * r

/-- The group and port lane of a fabric port register at offset `sub` of its 0x40 block. -/
def fabPortReg (off lo : Nat) : Option (Nat × Nat) :=
  if off < 0x610000 then none
  else
    let g := (off - 0x610000) / 0x1000
    let r := (off - 0x610000) % 0x1000
    if g < 8 then
      match inArr r lo 0x40 16 with
      | some k => some (g, k)
      | none => none
    else none

/-- Is `off` one of the port address registers, and which 0x40-block offset has it (R280, R310)? -/
def portAddrReg (off : Nat) : Option (Nat × Nat × Nat) :=
  if off < 0x610000 then none
  else
    let g := (off - 0x610000) / 0x1000
    let r := (off - 0x610000) % 0x1000
    if g < 8 ∧ 0x400 ≤ r ∧ r < 0x800 ∧ (r - 0x400) % 0x40 < 0x40 ∧ r % 8 = 0 then
      some (g, (r - 0x400) / 0x40, (r - 0x400) % 0x40)
    else none

/-- The writable registers of PF BAR0: chapters 5–10, 12, 13, 17–19. -/
def regInfo (off : Nat) : Option RegInfo :=
  if off = offModeCtrl then some { rw := 1 }
  else if off = offMbxIv then some { rw := 0x3F }
  else if off = 0x100038 ∨ off = 0x100040 then some { rw := 0, w1c := allOnes }
  else if off = offCollCfg then some { rw := 0xF00, reset := 0x100 }
  else if off = offDefMax then some { rw := 0x7FFFFFFF, reset := 0x400000 }
  else if isArr off 0x200100 8 8 then some { rw := 0x7FFFFFFF, reset := 2 ^ ((off - 0x200100) / 8 + 13) }
  else if isArr off 0x201008 0x20 16 then some { rw := 0x7FFFFFFF, reset := 0x200000 }
  else if off = offPgrCfg then some { rw := 0xFFFFFF0F, reset := 0x04000808, persist := 0xFFFF0000 }
  else if off = offOwnerSel then some { rw := 0x3FFFF }
  else if off = offWalkAddr then some { rw := 0x7FFFFFFFFFFFFF, wide := true }
  else if off = offWalkCtrl then some { rw := 0 }
  else if off = offHbmCfg then
    some { rw := 0x3FFFF1F01, reset := 0x208000801, persist := 0x3FFFF1F01 }
  else if off = offFabCfg then
    some { rw := 0xFFFF073FFFF0, reset := 0xBA10031A0020, persist := 0xFFFF00000000 }
  else if off = offFabRc then some { rw := 0xFFFFFFFFFFFFF, reset := 0x000403E800642710 }
  else if off = offFabTimer then some { rw := 0xFFFFFFFFFF, reset := 0x1027100032 }
  else if off = offAssocSel then some { rw := 0xFFFF }
  else if isArr off 0x610000 0x1000 8 then some { rw := 0x37, reset := 4, persist := 0x37 }
  else if off = offPwrCfg then
    some { rw := 0xFFFFFF3F, reset := 0x460A1403, persist := 0xFFFFFF3F }
  else if off = offTherm then
    some { rw := 0xFFFF, reset := 0x6E645F5A, persist := 0xFFFF }
  else if isArr off 0x800000 0x8000 16 then some { rw := 0x70 }
  else if isArr off 0x800010 0x8000 16 then some { rw := 0, w1c := 0xFFFF }
  else if isArr off 0x880000 8 1024 then some { rw := 0x807007FF000007FF }
  else if off = offQmConfig then some { rw := 1, reset := 1, persist := 1 }
  else if off = offThxIdle then some { rw := 0xFFFF, reset := 0x64 }
  else if off = offThxThrottle then some { rw := 0xFFFFFF, reset := 0x645F55 }
  else if off = offTrcCtrl then some { rw := 0xFFFF1F07, w1c := 8, reset := 0x00550A00 }
  else if off = offTrcBase then some { rw := allOnes, wide := true }
  else if isArr off 0xA01000 0x10 128 then some { rw := 0xFFFF1F07, w1c := 8, reset := 0x00550A00 }
  else if isArr off 0xA01008 0x10 128 then some { rw := allOnes, wide := true }
  else if off = offPrsCfg then some { rw := 0x3F, reset := 0x10 }
  else if isArr off 0xE00000 0x40 16 then
    some { rw := 0xC0007F0F0000003F, reset := 0x4000000000000022 }
  else if isArr off 0xE00008 0x40 16 ∨ isArr off 0xE00010 0x40 16 ∨ isArr off 0xE00018 0x40 16 then
    some { rw := allOnes, wide := true }
  else if off = offHbmw then some { rw := 0xFF00FFFFFFE00000, wide := true }
  else if off = offInject then some { rw := 0x00FF0000FFFFFFFF }
  else if isArr off 0xF00100 8 4 then
    let r := (off - 0xF00100) / 8
    let v := if r = 0 ∨ r = 3 then 0x00010102 else 0x00180203
    some { rw := 0xFFFF03FF, reset := v, persist := 0xFFFF03FF }
  else match portAddrReg off with
    | some (_, _, 0x00) => some { rw := 0xFFFFFFFFFFFF, persist := 0xFFFFFFFFFFFF, wide := true }
    | some (_, _, 0x08) => some { rw := allOnes, persist := allOnes, wide := true }
    | some (_, _, 0x10) => some { rw := allOnes, persist := allOnes, wide := true }
    | some (_, _, 0x18) => some { rw := 0xFFFFFFFF, persist := 0xFFFFFFFF }
    | some (_, _, r) =>
      if 0x20 ≤ r then some { rw := 0x8000FFFFFFFFFFFF, persist := 0x8000FFFFFFFFFFFF, wide := true } else none
    | none => none

/-- The bits of `a` outside `m`. -/
def without (a m : Nat) : Nat := a &&& (allOnes ^^^ (m &&& allOnes))

/-- The value of a register after a reset event: its Reset column, with its persisted bits as saved (R447, R516, R517). -/
def State.regReset (s : State) (off : Nat) : Nat :=
  match regInfo off with
  | none => if isArr off 0x700100 0x10 4 then 0x32 else 0
  | some r =>
    match Tab.find s.col.settings off with
    | some v => without r.reset r.persist ||| (v &&& r.persist)
    | none => r.reset

/-- The stored value of a register or counter. -/
def State.reg (s : State) (off : Nat) : Nat := (Tab.find s.regs off).getD (s.regReset off)

/-- Stores a register or counter value. -/
def State.setReg (s : State) (off v : Nat) : State := { s with regs := Tab.set s.regs off (v % 2 ^ 64) }

/-- Adds to a counter. -/
def State.count (s : State) (off n : Nat) : State := s.setReg off (s.reg off + n)

/-- The field [hi:lo] of a register. -/
def State.regField (s : State) (off hi lo : Nat) : Nat := bits (s.reg off) hi lo

/-- Is an offset of PF BAR0 assigned to a register (R514, R518)? -/
def regAssigned (off : Nat) : Bool :=
  let o := off - off % 8
  (regInfo o).isSome
  || decide (o ≤ 0x58) || (decide (0x100 ≤ o) && decide (o ≤ 0x118))
  || (decide (0x100000 ≤ o) && decide (o ≤ 0x100040)) || (decide (0x101000 ≤ o) && decide (o < 0x101800))
  || (decide (0x200000 ≤ o) && decide (o ≤ 0x200020)) || isArr o 0x201000 8 64 || isArr o 0x202000 8 1024
  || isArr o 0x204000 8 128
  || (decide (0x300000 ≤ o) && decide (o ≤ 0x300048)) || isArr o 0x301000 8 1024
  || (decide (0x400000 ≤ o) && decide (o < 0x480000) &&
      (let r := (o - 0x400000) % 0x10000
       decide (r = 0) || (decide (0x1000 ≤ r) && decide (r < 0x3000) && decide (r % 0x100 ≤ 0x28))
       || (decide (0x8000 ≤ r) && decide (r < 0xA000) && decide (r % 0x100 ≤ 0x28))))
  || (decide (0x500000 ≤ o) && decide (o < 0x502000) &&
      (let r := (o - 0x500000) % 0x1000
       decide (r ≤ 0x20) || (decide (0x100 ≤ r) && decide (r < 0x140))))
  || (decide (0x600000 ≤ o) && decide (o ≤ 0x600030))
  || (decide (0x610000 ≤ o) && decide (o < 0x618000) &&
      (let r := (o - 0x610000) % 0x1000
       decide (r ≤ 0x28) || (decide (0x100 ≤ r) && decide (r < 0x500) && decide ((r - 0x100) % 0x40 ≤ 0x30))
       || (decide (0x800 ≤ r) && decide (r < 0x880))))
  || (decide (0x700000 ≤ o) && decide (o ≤ 0x700028)) || isArr o 0x700100 8 8 || isArr o 0x700200 8 16
  || (decide (0x800000 ≤ o) && decide (o < 0x880000) &&
      (let r := (o - 0x800000) % 0x8000
       decide (r ≤ 0x20) || isArr r 0x100 8 16 || isArr r 0x200 8 22 || isArr r 0x300 8 22
       || isArr r 0x1000 8 168 || isArr r 0x2000 8 7))
  || (decide (0x900000 ≤ o) && decide (o < 0x910000) &&
      (let r := (o - 0x900000) % 0x1000
       decide (r ≤ 0x28) || isArr r 0x800 8 64))
  || (decide (0xB01000 ≤ o) && decide (o < 0xB01800))
  || decide (o = 0xC00008) || isArr o 0xC00100 8 128
  || (decide (0xD00000 ≤ o) && decide (o ≤ 0xD00018)) || isArr o 0xD01000 8 512
  || (decide (0xE00000 ≤ o) && decide (o < 0xE00400))
  || (decide (0xF00000 ≤ o) && decide (o ≤ 0xF00038))

/-- Does the new value of a register keep every field in its stated range (R188, R198, R213, R214, R249, R250,
R276, R311, R448, R489)? -/
def regLegal (off v : Nat) : Bool :=
  if off = offCollCfg then decide (bits v 11 8 ≠ 0)
  else if off = offDefMax ∨ isArr off 0x200100 8 8 ∨ isArr off 0x201008 0x20 16 then
    decide (bits v 30 0 ≠ 0)
  else if off = offPgrCfg then
    decide (256 ≤ bits v 31 16) && decide (bits v 31 16 ≤ 4096) && decide (bits v 15 8 ≠ 0)
      && decide (1 ≤ bits v 3 0) && decide (bits v 3 0 ≤ 8)
  else if off = offHbmCfg then
    decide (256 ≤ bits v 31 16) && decide (bits v 31 16 ≤ 16384) && decide (1 ≤ bits v 12 8)
      && decide (bits v 12 8 ≤ 24)
  else if off = offFabCfg then decide (bits v 5 4 ≠ 3)
  else if off = offFabRc then
    decide (1 ≤ bits v 51 48) && decide (bits v 51 48 ≤ 8) && decide (1 ≤ bits v 47 32)
      && decide (1 ≤ bits v 31 16) && decide (1000 ≤ bits v 15 0)
  else if off = offFabTimer then
    decide (4 ≤ bits v 39 32) && decide (bits v 39 32 ≤ 64) && decide (1000 ≤ bits v 31 16)
      && decide (10 ≤ bits v 15 0) && decide (bits v 15 0 ≤ 1000)
  else if isArr off 0x610000 0x1000 8 then decide (bits v 5 4 ≠ 3) && decide (bits v 2 0 < 5)
  else if off = offPwrCfg then
    decide (10 ≤ bits v 23 16) && decide (bits v 23 16 ≤ bits v 15 8) && decide (bits v 15 8 ≤ bits v 31 24)
      && decide (bits v 31 24 ≤ 70) && decide (bits v 5 4 < 2)
  else if off = offTherm then decide (bits v 7 0 < 100) && decide (bits v 15 8 < 100)
  else if off = offThxThrottle then
    decide (bits v 7 0 ≤ bits v 15 8) && decide (bits v 15 8 ≤ bits v 23 16)
  else if off = offTrcCtrl ∨ isArr off 0xA01000 0x10 128 then
    decide (10 ≤ bits v 12 8) && decide (bits v 12 8 ≤ 24)
  else if off = offTrcBase ∨ isArr off 0xA01008 0x10 128 then decide (bits v 11 0 = 0)
  else if off = offPrsCfg then decide (1 ≤ bits v 5 0) && decide (bits v 5 0 ≤ 32)
  else if isArr off 0xE00000 0x40 16 then decide (19 ≤ bits v 5 0) && decide (bits v 5 0 ≤ 34)
  else if isArr off 0xF00100 8 4 then
    decide (bits v 7 0 ≠ 0) && decide (bits v 31 16 ≠ 0) && decide (bits v 9 8 ≠ 3)
  else true

/-- Which instance owns a per-instance register (R514): its writes are ignored while the instance does not exist. -/
def regInst (off : Nat) : Option Nat :=
  match inArr off 0xA01000 0x10 128 with
  | some i => some i
  | none => inArr off 0xA01008 0x10 128

/-- The value of a register after a write of `size` bytes at `off` (R8, R9, R511). -/
def regMerge (r : RegInfo) (old off size v : Nat) : Nat :=
  let m := if size = 8 then allOnes else if off % 8 = 4 then 0xFFFFFFFF00000000 else 0xFFFFFFFF
  let w := if size = 8 then v % 2 ^ 64 else if off % 8 = 4 then (v % 2 ^ 32) <<< 32 else v % 2 ^ 32
  let rw := r.rw &&& m
  without (without old rw ||| (w &&& rw)) (r.w1c &&& m &&& w)

end Sys2Proof.Machine
end

