-- ==== Sys2Proof/Machine/Ops.lean ====
section
/-! DEFINITION. The named operations over memory, modes, logs, queues and completions that every family shares. -/
namespace Sys2Proof.Machine

-- ---------------------------------------------------------------- memory

/-- The byte at a key; an unlisted byte reads zero. -/
def Mem.read (m : Mem) (a : Nat) : Byte :=
  match m with
  | [] => 0
  | (a', v) :: r => if a' = a then v else Mem.read r a

/-- Inserts a nonzero byte at a key. -/
def Mem.insert (m : Mem) (a : Nat) (v : Byte) : Mem :=
  match m with
  | [] => [(a, v)]
  | (a', v') :: r =>
    if a < a' then (a, v) :: (a', v') :: r
    else if a = a' then (a, v) :: r
    else (a', v') :: Mem.insert r a v

/-- Writes a byte: a zero byte is unlisted. -/
def Mem.write (m : Mem) (a : Nat) (v : Byte) : Mem :=
  if v = 0 then m.filter (fun c => c.1 != a) else Mem.insert m a v

/-- Zeroes `len` bytes from a key. -/
def Mem.clear (m : Mem) (a len : Nat) : Mem := m.filter (fun c => decide (c.1 < a) || decide (a + len ≤ c.1))

/-- Writes a byte string from a key. -/
def Mem.writeN (m : Mem) (a : Nat) : Bytes → Mem
  | [] => m
  | b :: r => Mem.writeN (Mem.write m a b) (a + 1) r

/-- Reads `n` bytes from a key. -/
def Mem.readN (m : Mem) (a : Nat) : Nat → Bytes
  | 0 => []
  | n + 1 => Mem.read m a :: Mem.readN m (a + 1) n

/-- Are the addresses strictly rising and no entry zero? -/
def Mem.wf : Mem → Bool
  | [] => true
  | [(_, v)] => v != 0
  | (a, v) :: (b, w) :: r => v != 0 && decide (a < b) && Mem.wf ((b, w) :: r)

/-- Reads bytes of a space. -/
def State.rd (s : State) (sp : Space) (a n : Nat) : Bytes := Mem.readN s.mem (sp.base + a) n

/-- Writes bytes of a space. -/
def State.wr (s : State) (sp : Space) (a : Nat) (b : Bytes) : State :=
  { s with mem := Mem.writeN s.mem (sp.base + a) b }

/-- Zeroes bytes of a space. -/
def State.zero (s : State) (sp : Space) (a n : Nat) : State := { s with mem := Mem.clear s.mem (sp.base + a) n }

/-- Zeroes a whole space. -/
def State.zeroSpace (s : State) (sp : Space) : State := s.zero sp 0 (1 <<< 80)

/-- The little-endian number of `n` bytes of a space. -/
def State.rdN (s : State) (sp : Space) (a n : Nat) : Nat := ofLe (s.rd sp a n)

-- ---------------------------------------------------------------- free values and outputs

/-- Draws a fresh free value. -/
def State.fresh (s : State) : Word × State := (Config.free s.freeCtr, { s with freeCtr := s.freeCtr + 1 })

/-- `n` bytes drawn from one free value each, from counter value `c`. -/
def freeBytes (c : Nat) : Nat → Bytes
  | 0 => []
  | n + 1 => (Config.free c).truncate 8 :: freeBytes (c + 1) n

/-- Draws `n` free bytes. -/
def State.freshBytes (s : State) (n : Nat) : Bytes × State := (freeBytes s.freeCtr n, { s with freeCtr := s.freeCtr + n })

/-- Sends an output. -/
def State.emit (s : State) (o : Output) : State := { s with outbox := s.outbox ++ [o] }

-- ---------------------------------------------------------------- tables of instances and queues

/-- Instance `i`, if it exists. -/
def State.inst? (s : State) (i : Nat) : Option Inst := Tab.find s.insts i

/-- Changes instance `i`, if it exists. -/
def State.updInst (s : State) (i : Nat) (f : Inst → Inst) : State := { s with insts := Tab.upd s.insts i f }

def State.sq? (s : State) (i k : Nat) : Option Sq := (s.inst? i).bind (fun x => Tab.find x.sqs k)
def State.cq? (s : State) (i k : Nat) : Option Cq := (s.inst? i).bind (fun x => Tab.find x.cqs k)

def State.updSq (s : State) (i k : Nat) (f : Sq → Sq) : State :=
  s.updInst i (fun x => { x with sqs := Tab.upd x.sqs k f })
def State.updCq (s : State) (i k : Nat) (f : Cq → Cq) : State :=
  s.updInst i (fun x => { x with cqs := Tab.upd x.cqs k f })

/-- The default value of a feature (R341). -/
def featDefault (fid : Nat) : Nat :=
  match fid with
  | 1 => 1500
  | 2 => 0x00030F08
  | 4 => allOnes
  | 6 => 1
  | _ => 0

/-- The current value of a feature of an instance (R341): QM_CONFIG holds SOFT_REPAIR, the timebase TIMEBASE. -/
def State.feature (s : State) (i fid : Nat) : Nat :=
  if fid = 6 then s.reg offQmConfig % 2
  else if fid = 7 then s.timebase
  else
    let j := if fid = 1 then 0 else i
    match s.inst? j with
    | none => featDefault fid
    | some x => Tab.get x.features fid (Tab.get s.col.features (256 * j + fid) (featDefault fid))

-- ---------------------------------------------------------------- instance-window registers and interrupts

/-- The key of an instance-window register (R520). -/
def winKey (fn off : Nat) : Nat := fn * 2 ^ 20 + off

/-- A stored register of a function's window; the MSI-X vector control words read masked at reset (log 8). -/
def State.winReg (s : State) (fn off : Nat) : Nat :=
  (Tab.find s.winRegs (winKey fn off)).getD
    (if 0xC0000 ≤ off ∧ off < 0xC0400 ∧ off % 16 = 8 then 1 <<< 32 else 0)

def State.setWinReg (s : State) (fn off v : Nat) : State :=
  { s with winRegs := Tab.set s.winRegs (winKey fn off) (v % 2 ^ 64) }

/-- Has the DMA of a function stopped: the host rejected a request on its TDI, which is in ERROR until the reset (R390)? -/
def State.dmaStopped (s : State) (fn : Nat) : Bool := ((Tab.find s.slc.tdis fn).map (fun t => t.state == 3)).getD false

/-- Is the TDI of a VF in CONFIG_LOCKED or RUN? -/
def State.tdiLocked (s : State) (i : Nat) : Bool :=
  match Tab.find s.slc.tdis i with
  | some t => t.state == 1 || t.state == 2
  | none => false

/-- The MSI-X Message Control of a function's configuration space: bit 15 MSI-X Enable, bit 14 Function Mask (R312). -/
def State.msixControl (s : State) (fn : Nat) : Nat := Tab.get s.msixCtl fn 0

/-- Signals MSI-X vector `v` of a function: the message of its table entry, or its pending bit while the vector or the function
is masked, or MSI-X is not enabled (R312, R333). -/
def State.signal (s : State) (fn v : Nat) : State :=
  let ctl := s.winReg fn (0xC0008 + 16 * v)
  if bitAt ctl 32 || bitAt (s.msixControl fn) 14 || !bitAt (s.msixControl fn) 15 then s.setWinReg fn 0xC1000 (s.winReg fn 0xC1000 ||| (1 <<< v))
  else if s.dmaStopped fn then s
  else s.emit (.msix fn v (s.winReg fn (0xC0000 + 16 * v)) (ctl % 2 ^ 32))

/-- A pending vector is signalled again, if nothing masks it now. -/
def State.signalPending (s : State) (fn v : Nat) : State :=
  if bitAt (s.winReg fn 0xC1000) v then (s.setWinReg fn 0xC1000 (s.winReg fn 0xC1000 - 2 ^ v)).signal fn v else s

/-- The host writes the MSI-X Message Control of a function; the pending vectors that it unmasks are signalled. -/
def State.writeMsixControl (s : State) (w : Nat × Nat) : State :=
  (List.range 64).foldl (fun s v => s.signalPending w.1 v) { s with msixCtl := Tab.set s.msixCtl w.1 (w.2 &&& 0xC000) }

/-- Is the core running at all? -/
def State.running (s : State) : Bool := s.powerGood && !s.stopped

-- ---------------------------------------------------------------- host memory (R522)

/-- The error the host answers a read of `n` bytes at `a` of function `fn` with, if any. -/
def State.hostErr (s : State) (fn a n : Nat) : Option HostErr :=
  let k := (Space.host fn).base + a
  if s.dmaStopped fn then some .unsupported else (s.hostErrs.find? (fun e => decide (e.1 < k + n) && decide (k < e.1 + e.2.1))).map (fun e => e.2.2)

/-- The status of a host read error: poison is 0x3001, anything else an address fault (R522). -/
def hostErrStatus : HostErr → Nat
  | .poison => 0x3001
  | .unsupported => 0x1006

/-- A read of host memory: the bytes, or the status of its failure. -/
def State.hostRead (s : State) (fn a n : Nat) : Except Nat Bytes :=
  match s.hostErr fn a n with
  | some e => .error (hostErrStatus e)
  | none => .ok (s.rd (.host fn) a n)

/-- A posted write to host memory: no status comes back (R522). -/
def State.hostWrite (s : State) (fn a : Nat) (b : Bytes) : State :=
  if s.dmaStopped fn then s else s.wr (.host fn) a b

/-- Adds the bursts or lines of a space below `top`, each named by any address in it, to those that have gone bad. -/
def addUpsets (sp : Space) (top : Nat) (l : List (Nat × Upset)) (t : Tab Upset) : Tab Upset :=
  l.foldl (fun t p => if p.1 < top then Tab.set t (sp.base + p.1 / 64 * 64) p.2 else t) t

/-- Puts host software's stores into its memory, with the ranges that now answer with an error, the bursts and lines that
have gone bad, and its writes of MSI-X control, which only a running part takes. -/
def State.hostStore (s : State) (fn : Nat) (h : HostStores) : State :=
  let base := (Space.host fn).base
  (if s.running then h.msix else []).foldl State.writeMsixControl { s with
    upsets := addUpsets .t1 (2 ^ 64) h.cxl (addUpsets .hbm (2 ^ 39) h.hbm s.upsets)
    mem := h.cells.foldl (fun m c => Mem.write m (base + c.1) c.2) s.mem
    hostErrs := s.hostErrs.filter (fun e => decide (e.1 < base) || decide (base + 2 ^ 80 ≤ e.1))
      ++ h.errs.map (fun e => (base + e.1, e.2.1, e.2.2)) }

-- ---------------------------------------------------------------- modes (R449)

/-- DEV_STATUS.MODE: the highest-ranking condition that holds (R449). -/
def Dev.mode (d : Dev) : Mode :=
  if d.factory then .factory
  else if d.cold then .coldStart
  else if d.contained then .containment
  else if d.maint ≠ [] then .maintenance
  else if d.constrain then .constrained
  else .service

/-- The encoding of MODE (R22). -/
def Mode.code : Mode → Nat
  | .coldStart => 0
  | .service => 1
  | .constrained => 2
  | .maintenance => 3
  | .containment => 4
  | .factory => 5

/-- Do the queues serve: power good, nothing stopped, Cold Start over and no FACTORY (R23)? -/
def State.serving (s : State) : Bool := s.powerGood && !s.stopped && !s.dev.cold && !s.dev.factory

/-- The 16 bytes of the fused serial number (R339). -/
def serialBytes : Bytes := (List.range 16).map Config.serial

/-- Is the Slipcase serving (R394)? -/
def State.slcUp (s : State) : Bool := s.slc.state == 1 || s.slc.state == 3

/-- Is the placement pause of a live activation on (R463)? -/
def State.paused (s : State) : Bool := (s.dev.act.map (·.paused)).getD false

-- ---------------------------------------------------------------- completions (R326, R329–R333)

/-- Adds an event to an instance's kept events, merged into a pending one of the same type (R342, log 12). -/
def State.keepEvent (s : State) (i : Nat) (e : Event) : State :=
  if bitAt (s.feature i 4) e.typ then
    s.updInst i (fun x =>
      if x.events.any (fun e' => e'.typ == e.typ) then
        { x with events := updWhere x.events (fun e' => e'.typ == e.typ) (fun _ => e) }
      else if x.events.length < 16 then { x with events := x.events ++ [e] }
      else x)
  else s

/-- The 32 bytes of a completion entry (R326). -/
def cqeBytes (h : Held) (sqHead : Nat) (phase : Bool) : Bytes :=
  leBytes 8 h.result ++ leBytes 2 sqHead ++ leBytes 2 h.sq ++ leBytes 2 h.cid ++ leBytes 2 h.status
    ++ leBytes 4 h.covers ++ leBytes 4 h.detail ++ zeros 6 ++ leBytes 2 (b2n phase + 2 * b2n h.batch)

/-- A CQ has no free slot (R318). -/
def Cq.full (q : Cq) : Bool := (q.tail + 1) % q.depth == q.head

/-- Writes a completion entry into its ring and signals the CQ's vector when it is due (R321, R333). -/
def State.writeCqe (s : State) (i k : Nat) (h : Held) : State :=
  match s.cq? i k with
  | none => s
  | some q =>
    let sqHead := ((s.sq? i h.sq).map (·.head)).getD 0
    let s := s.hostWrite i (q.base + 32 * q.tail) (cqeBytes h sqHead q.phase)
    let wrap := q.tail + 1 == q.depth
    let q := { q with tail := if wrap then 0 else q.tail + 1, phase := if wrap then !q.phase else q.phase }
    let thresh := bits (s.feature i 3) 7 0
    if q.ien then
      if thresh + 1 ≤ q.unsig + 1 then
        (s.updCq i k (fun _ => { q with unsig := 0 })).signal i q.iv
      else s.updCq i k (fun _ => { q with unsig := q.unsig + 1 })
    else s.updCq i k (fun _ => q)

/-- The next record numbers and the time of a log record. -/
def State.newErr (s : State) (kind status i flags sq cid channel obj tag detail : Nat) : ErrRec :=
  { seq := s.col.errNext, time := s.timebase, boot := s.col.boots, kind := kind, status := status, inst := i,
    flags := flags, sq := sq, cid := cid, channel := channel, obj := obj, tag := tag, detail := detail, count := 1 }

/-- Error records the log buffer holds (R480: 32 MiB of 64-byte records). -/
def errCap : Nat := 524288
/-- Fault-history records the log buffer holds (R480: 32 MiB of 128-byte records). -/
def fhCap : Nat := 262144

/-- Is a waiting record without KEEP the first such? Drops the oldest one. -/
def dropOldest {α : Type} (keep : α → Bool) : List α → List α
  | [] => []
  | x :: r => if keep x then x :: dropOldest keep r else r

/-- Counts a dropped error record, device-wide and for its instance (R481, R486). -/
def LogBuf.lose (b : LogBuf) (i : Nat) : LogBuf :=
  { b with lostErr := b.lostErr + 1, lostBy := Tab.set b.lostBy i (Tab.get b.lostBy i 0 + 1) }

/-- Puts an error record into the log buffer, making room as R481 says. -/
def LogBuf.addErr (b : LogBuf) (r : ErrRec) : LogBuf :=
  if b.err.length < errCap then { b with err := b.err ++ [r] }
  else if bitAt r.flags 0 then
    match b.err.find? (fun x => !bitAt x.flags 0) with
    | some o => LogBuf.lose { b with err := dropOldest (fun x => bitAt x.flags 0) b.err ++ [r] } o.inst
    | none =>
      let same := fun (x : ErrRec) => x.kind == 1 && x.inst == r.inst && x.sq == r.sq && x.status == r.status
      if b.err.any same then
        { b with err := updWhere b.err same
                   (fun x => { x with flags := x.flags ||| 2, count := x.count + r.count }) }
      else b.lose r.inst
  else b.lose r.inst

/-- Puts a fault-history record into the log buffer (R481). -/
def LogBuf.addFh (b : LogBuf) (r : FhRec) : LogBuf :=
  if b.fh.length < fhCap then { b with fh := b.fh ++ [r] }
  else if bitAt r.flags 0 ∧ b.fh.any (fun x => !bitAt x.flags 0) then
    { b with fh := dropOldest (fun x => bitAt x.flags 0) b.fh ++ [r], lostFh := b.lostFh + 1 }
  else { b with lostFh := b.lostFh + 1 }

/-- Writes an error record: its SEQ is the next one, and LID 0x01 raises an ERROR_LOG event for its instance and
for the manager, who reads every record (R340, R342; log 13). -/
def State.logErrRaw (s : State) (kind status i flags sq cid channel obj tag detail : Nat) : State :=
  let r := s.newErr kind status i flags sq cid channel obj tag detail
  let s := { s with log := s.log.addErr r, col := { s.col with errNext := s.col.errNext + 1 } }
  let e : Event := { typ := 2, info := 0, lid := 1, detail := 0 }
  let s := s.keepEvent i e
  if i = 0 then s else s.keepEvent 0 e

/-- A completion that no CQ can take: an error record COMPLETION_LOST with KEEP (R332, R481). -/
def State.logLost (s : State) (i : Nat) (h : Held) : State :=
  s.logErrRaw 1 h.status i 1 h.sq h.cid 0xFFFF 0 0 0

/-- Posts a completion: to its CQ, to the hold behind earlier completions for it, or to the error log (R332). -/
def State.postRaw (s : State) (i k : Nat) (h : Held) : State :=
  match s.inst? i, s.cq? i k with
  | some x, some q =>
    if q.full || x.hold.any (fun y => y.cq == k) then
      let s := s.updInst i (fun x => { x with hold := x.hold ++ [h] })
      let s := if x.hold = [] then s.keepEvent i { typ := 3, info := 0, lid := 5, detail := k } else s
      if x.hold.length + 1 = 1024 then s.keepEvent i { typ := 4, info := 0, lid := 3, detail := 0 } else s
    else s.writeCqe i k h
  | _, _ => s.logLost i h

/-- The CQ to which an SQ of an instance posts. -/
def State.cqOf (s : State) (i sq : Nat) : Nat := ((s.sq? i sq).map (·.cq)).getD 0

/-- The pool number of the CQ to which an SQ of an instance posts (R192). -/
def State.cqPoolOf (s : State) (i sq : Nat) : Nat := ((s.cq? i (s.cqOf i sq)).map (·.pool)).getD 0

/-- The RESULT of an Asynchronous Event Request (R342). -/
def Event.result (e : Event) : Nat := e.typ + e.info * 2 ^ 8 + e.lid * 2 ^ 16 + e.detail * 2 ^ 32

/-- Removes a fetched command. -/
def State.dropCmd (s : State) (no : Nat) : State := { s with cmds := s.cmds.filter (fun c => c.no != no) }

/-- Changes a fetched command. -/
def State.updCmd (s : State) (no : Nat) (f : Cmd → Cmd) : State :=
  { s with cmds := updWhere s.cmds (fun c => c.no == no) f }

/-- Removes a command and posts its own completion (R330). -/
def State.completeOwn (s : State) (c : Cmd) (status result detail : Nat) : State :=
  let h : Held := { cq := s.cqOf c.inst c.sq, sq := c.sq, cid := c.cid, status := status, covers := 1,
                    batch := false, result := result, detail := detail }
  (s.dropCmd c.no).postRaw c.inst h.cq h

/-- Admin queues that are being disabled go, and RDY clears, once no fetched admin command is left and none of their completions is
held (R316, R332). -/
def State.endDisable (s : State) (i : Nat) : State :=
  match s.inst? i with
  | some x =>
    if x.disabling && !s.cmds.any (fun c => c.inst == i && c.sq == 0) && !x.hold.any (fun h => h.cq == 0) then
      s.updInst i (fun x => { x with rdy := false, disabling := false, sqs := Tab.del x.sqs 0, cqs := Tab.del x.cqs 0 })
    else s
  | none => s

/-- Completes outstanding event requests with kept events, oldest with oldest (R342). -/
def State.drainEvents (s : State) (i : Nat) : Nat → State
  | 0 => s
  | n + 1 =>
    match s.inst? i with
    | none => s
    | some x =>
      match x.aers, x.events with
      | a :: ar, e :: er =>
        let s := s.updInst i (fun x => { x with aers := ar, events := er })
        match s.cmds.find? (fun c => c.no == a) with
        | some c => State.drainEvents ((s.completeOwn c 0 e.result 0).endDisable i) i n
        | none => State.drainEvents s i n
      | _, _ => s

/-- Drains the kept events of an instance and of the manager. -/
def State.settleEvents (s : State) (i : Nat) : State :=
  let s := s.drainEvents i 8
  if i = 0 then s else s.drainEvents 0 8

/-- Raises an event for an instance (R342). -/
def State.raise (s : State) (i typ info lid detail : Nat) : State :=
  (s.keepEvent i { typ := typ, info := info, lid := lid, detail := detail }).drainEvents i 8

/-- Raises an event for every instance. -/
def State.raiseAll (s : State) (typ info lid detail : Nat) : State :=
  (s.insts.map (·.1)).foldl (fun s i => s.raise i typ info lid detail) s

/-- Posts a completion and completes the event requests it gives rise to. -/
def State.post (s : State) (i k : Nat) (h : Held) : State := (s.postRaw i k h).settleEvents i

/-- Writes an error record (R483). -/
def State.logErr (s : State) (kind status i flags sq cid channel obj tag detail : Nat) : State :=
  (s.logErrRaw kind status i flags sq cid channel obj tag detail).settleEvents i

/-- The kinds of fault-history record that set KEEP (R484). -/
def fhKeep (kind : Nat) : Bool :=
  [0x0102, 0x0202, 0x0302, 0x0303, 0x0402, 0x0501, 0x0702, 0x0801, 0x0903, 0x0A01, 0x0A02, 0x0A03, 0x0A04].contains
    kind

/-- A fault-history record to be written (R484). -/
structure FhArgs where
  kind     : Nat
  status   : Nat := 0
  outcome  : Nat
  mech     : Nat := 0
  inst     : Nat := 0xFF
  resType  : Nat
  resIdx   : Nat
  count    : Nat := 0
  flags    : Nat := 0
  addr     : Nat := 0
  leaf     : Nat := 0
  data     : Bytes := []
deriving DecidableEq, Repr

/-- Writes a fault-history record and raises FAULT for the manager (R342, R484). -/
def State.logFh (s : State) (a : FhArgs) : State :=
  let r : FhRec :=
    { seq := s.col.fhNext, time := s.timebase, boot := s.col.boots, kind := a.kind, status := a.status,
      outcome := a.outcome, mech := a.mech, mode := s.dev.mode.code, inst := a.inst,
      resource := a.resType * 2 ^ 24 + a.resIdx, count := a.count,
      flags := a.flags ||| b2n (fhKeep a.kind), addr := a.addr, leaf := a.leaf, data := padTo a.data 72 }
  let s := { s with log := s.log.addFh r, col := { s.col with fhNext := s.col.fhNext + 1 } }
  s.raise 0 8 0 2 0

/-- The SEQ of the fault-history record just written. -/
def State.lastFh (s : State) : Nat := s.col.fhNext - 1

/-- Does a command carry COMPLETE, or behave as if it did (R329)? -/
def Cmd.complete (c : Cmd) : Bool := c.sq == 0 || c.op == 0x4B || bitAt c.flags 2

/-- One batch completion of an SQ, if one is due: the first COMPLETE command or marker that only finished commands
precede (R329, R330). -/
def batchDue : List Cmd → List Cmd → Option (Cmd × List Cmd)
  | [], _ => none
  | c :: r, acc =>
    match c.phase with
    | .fetched => none
    | .running => none
    | .marker => some (c, acc)
    | .done => if c.complete then some (c, acc) else batchDue r (acc ++ [c])

/-- Posts the batch completions of an SQ that are due. -/
def State.batchSweep (s : State) (i sq : Nat) : Nat → State
  | 0 => s
  | n + 1 =>
    match batchDue (s.cmds.filter (fun c => c.inst == i && c.sq == sq)) [] with
    | none => s
    | some (c, acc) =>
      let own := c.phase == .done
      let covered := if own then acc ++ [c] else acc
      let s := { s with cmds := s.cmds.filter (fun x => x.no != c.no && !acc.any (fun y => y.no == x.no)) }
      let st := if own ∧ covered.any (fun y => y.status == 1) then 1 else 0
      let k := s.cqOf i sq
      let h : Held := { cq := k, sq := sq, cid := c.cid, status := st, covers := covered.length, batch := true,
                        result := if own then c.result else 0, detail := if own then c.detail else 0 }
      let s := if covered = [] then s else s.post i k h
      State.batchSweep s i sq n

/-- Is a command of an SQ not yet completed? -/
def Cmd.open_ (c : Cmd) : Bool := c.phase == .fetched || c.phase == .running

/-- Finishes the deletions of SQs whose fetched commands have all completed (R334), and the disabling of admin
queues without fetched commands (R316). -/
def State.settleQueues (s : State) (i : Nat) : State :=
  let dels := s.cmds.filter (fun c => c.inst == i && c.sq == 0 && c.op == 8 && c.phase == .running)
  let s := dels.foldl (fun s c =>
    let q := fld (c.entries.headD []) 0x18 2
    if s.cmds.any (fun y => y.inst == i && y.sq == q && y.open_) then s
    else
      let s := { s with cmds := s.cmds.filter (fun y => !(y.inst == i && y.sq == q)) }
      let s := s.updInst i (fun x => { x with sqs := Tab.del x.sqs q })
      (s.completeOwn c c.status c.result c.detail).settleEvents i) s
  s.endDisable i

/-- The statuses of failures (R343). -/
def failStatuses : List Nat :=
  (List.range 10).map (0x1001 + ·) ++ (List.range 4).map (0x2001 + ·) ++ (List.range 5).map (0x3001 + ·) ++ [0x4001, 0x4002]
  ++ (List.range 5).map (0x5001 + ·) ++ (List.range 4).map (0x6001 + ·)

/-- The status of a failure for which the spec names none: any of them, by a free value (log 44). -/
def freeStatus (r : Word) : Nat := failStatuses.getD (r.toNat % 30) 0x4002

/-- Is a status a failure? -/
def failing (st : Nat) : Bool := !(st == 0 || st == 1)

/-- Ends a command with its status, RESULT and DETAIL: its own completion in EACH mode or on failure, else its part
of a batch (R329, R330). A class 3, 4 or 5 status writes an error record with the faulting address (R483). -/
def State.finishAt (s : State) (no status result detail obj : Nat) : State :=
  match s.cmds.find? (fun c => c.no == no) with
  | none => s
  | some c =>
    let i := c.inst
    let s := if failing status then
        { s with dev := { s.dev with cmdsFailed := Tab.set s.dev.cmdsFailed i (Tab.get s.dev.cmdsFailed i 0 + 1) } }
      else s
    let s := if 3 ≤ status / 0x1000 ∧ status / 0x1000 ≤ 5 then
        s.logErr 2 status i 0 c.sq c.cid 0xFFFF obj 0 0
      else s
    let batch := ((s.sq? i c.sq).map (·.batch)).getD false
    let s :=
      if !batch then (s.completeOwn c status result detail).settleEvents i
      else if failing status then
        if c.complete then
          let h : Held := { cq := s.cqOf i c.sq, sq := c.sq, cid := c.cid, status := status, covers := 1,
                            batch := false, result := result, detail := detail }
          (s.updCmd no (fun c => { c with phase := .marker })).post i h.cq h
        else (s.completeOwn c status result detail).settleEvents i
      else s.updCmd no (fun c => { c with phase := .done, status := status, result := result, detail := detail })
    (s.batchSweep i c.sq (s.cmds.length + 1)).settleQueues i

/-- Ends a command. -/
def State.finish (s : State) (no status result detail : Nat) : State := s.finishAt no status result detail 0

/-- Moves held completions to a CQ while it has free slots, in posting order (R332). -/
def State.moveHold (s : State) (i k : Nat) : Nat → State
  | 0 => s
  | n + 1 =>
    match s.inst? i, s.cq? i k with
    | some x, some q =>
      if q.full then s
      else match findIdxFrom (fun h : Held => h.cq == k) x.hold 0 with
        | some (j, h) =>
          State.moveHold ((s.updInst i (fun x => { x with hold := x.hold.eraseIdx j })).writeCqe i k h) i k n
        | none => s
    | _, _ => s

/-- Is the hold of an instance full, so that dispatch of its leaves stops (R204)? -/
def State.holdFull (s : State) (i : Nat) : Bool := ((s.inst? i).map (fun x => decide (1024 ≤ x.hold.length))).getD false

-- ---------------------------------------------------------------- which fetched command a row runs

/-- May a fetched command start: the earlier commands of its SQ have started, FENCE and Flush wait for the earlier
ones to complete, admin commands run one at a time but for event requests (R322, R331)? Instance commands wait for the end of a placement
pause (R375). -/
def State.mayStart (s : State) (c : Cmd) : Bool :=
  let earlier := s.cmds.filter (fun y => y.inst == c.inst && y.sq == c.sq && decide (y.no < c.no))
  !earlier.any (fun y => y.phase == .fetched)
  && (!(bitAt c.flags 3 || c.op == 0x4B) || !earlier.any Cmd.open_)
  && (c.sq != 0 || !earlier.any (fun y => y.open_ && y.op != 0x0B))
  && !(s.paused && c.sq == 0 && decide (0x10 ≤ c.op) && decide (c.op ≤ 0x14))

/-- The fetched, unstarted command with an opcode, SQ and CID of an instance that may start now. -/
def State.takeCmd (s : State) (i sq cid op : Nat) : Option Cmd :=
  if s.serving then
    s.cmds.find? (fun c => c.inst == i && c.sq == sq && c.cid == cid && c.op == op && c.phase == .fetched
      && s.mayStart c)
  else none

/-- As `takeCmd`, or a started command with that opcode, SQ and CID that goes on. -/
def State.openCmd (s : State) (i sq cid op : Nat) : Option Cmd :=
  match s.takeCmd i sq cid op with
  | some c => some c
  | none =>
    if s.serving then
      s.cmds.find? (fun c => c.inst == i && c.sq == sq && c.cid == cid && c.op == op && c.phase == .running)
    else none

/-- The first entry of a command. -/
def Cmd.entry (c : Cmd) : Bytes := c.entries.headD []

/-- A PARAMS or header field of a command's first entry (R325). -/
def Cmd.fld (c : Cmd) (off n : Nat) : Nat := Machine.fld c.entry off n

def Cmd.dataAddr (c : Cmd) : Nat := c.fld 8 8
def Cmd.dataLen (c : Cmd) : Nat := c.fld 0x10 4
/-- DEV_ADDR: DATA_ADDR is a device virtual address of the instance (R325). -/
def Cmd.devAddr (c : Cmd) : Bool := bitAt c.flags 4

/-- Marks a command as started. -/
def State.start (s : State) (no : Nat) : State := s.updCmd no (fun c => { c with phase := .running })

-- ---------------------------------------------------------------- containment and mode changes

/-- Is a pin held by the Slipcase: 0 PPS_OUT, 1 ALERT_N, 2 THERM_ALERT_N (R379, R399)? -/
def State.securePin (s : State) (k : Nat) : Bool := bitAt (Tab.get s.regs 0x108 0) k

/-- Changes the device conditions; a change of MODE is timed and raises a MODE event (R342, R449, R467); the MCTP
endpoint holds it as an event, so ALERT_N goes low until the SMBus host reads it (R503; log 40). -/
def State.setDev (s : State) (f : Dev → Dev) : State :=
  let m := s.dev.mode
  let d := f s.dev
  if d.mode = m then { s with dev := d }
  else
    let s := { s with dev := { d with modeSince := s.timebase }, pins := { s.pins with alertN := s.securePin 1 && s.pins.alertN } }
    s.raiseAll 5 d.mode.code 3 0

/-- Starts or ends a MAINTENANCE holder (R455). -/
def State.holder (s : State) (bit : Nat) (on : Bool) : State :=
  s.setDev (fun d => { d with maint := if on then (if d.maint.contains bit then d.maint else d.maint ++ [bit])
                                        else d.maint.filter (· != bit) })

/-- Opens a containment cause for a resource, once (R456); during the placement pause the mode changes after it
(R465). -/
def State.openCause (s : State) (code resType resIdx : Nat) : State :=
  let key := resType * 2 ^ 24 + resIdx
  if s.dev.causes.contains (code, key) then s
  else
    let paused := (s.dev.act.map (·.paused)).getD false
    let s := s.setDev (fun d => { d with causes := d.causes ++ [(code, key)],
                                         contained := d.contained || (!paused && !d.cold)
                                         containDue := d.containDue || paused })
    s.logFh { kind := 0x0A01, outcome := 5, resType := resType, resIdx := resIdx, data := leBytes 4 code ++ leBytes 4 1 }

/-- Resolves a containment cause (R457). -/
def State.resolveCause (s : State) (code resType resIdx : Nat) : State :=
  let key := resType * 2 ^ 24 + resIdx
  if s.dev.causes.contains (code, key) then
    let s := { s with dev := { s.dev with causes := s.dev.causes.filter (· != (code, key)) } }
    s.logFh { kind := 0x0A01, outcome := 7, resType := resType, resIdx := resIdx, data := leBytes 4 code ++ leBytes 4 0 }
  else s

-- ---------------------------------------------------------------- counts of faults (R472)

/-- The settable threshold of a resource: window in ns of operating time and count (R472, R488). -/
def State.threshold (s : State) (r : Nat) : Nat × Nat :=
  let v := s.reg (offThresh r)
  let u := match bits v 9 8 with
    | 0 => 1000000
    | 1 => 1000000000
    | _ => 3600000000000
  (bits v 31 16 * u, bits v 7 0)

/-- Counts an event of a resource: the number within the window, this one among them. A count that reaches its
threshold is set to zero (R472). Answers the count and whether the threshold was reached. -/
def State.countEvent (s : State) (kind idx window limit : Nat) : Nat × Bool × State :=
  let now := s.col.optime
  let mine := fun (e : CountEvent) => e.kind == kind && e.idx == idx
  let recent := (s.col.counts.filter (fun e => mine e && decide (now < e.at_ + window))).length + 1
  let rest := s.col.counts.filter (fun e => !mine e || decide (now < e.at_ + window))
  if limit ≤ recent then
    (recent, true, { s with col := { s.col with counts := s.col.counts.filter (fun e => !mine e) } })
  else
    (recent, false, { s with col := { s.col with counts := rest ++ [{ kind := kind, idx := idx, at_ := now }] } })

/-- Is an injection armed for a target? -/
def State.armed (s : State) (typ idx : Nat) : Bool :=
  let v := s.reg offInject
  bitAt v 63 && bits v 55 48 == typ && bits v 31 0 == idx

/-- The armed fault has been injected: ARM clears (R488). -/
def State.disarm (s : State) : State := s.setReg offInject (s.reg offInject % 2 ^ 63)

/-- A timer has run out: it acts when this tick of the timebase ends (R16). -/
def State.expire (s : State) (d : Expiry) : State :=
  if s.expired.contains d then s else { s with expired := s.expired ++ [d] }

/-- One idle nanosecond: with power good the timebase and the operating time count it (R18, R473; log 4). -/
def idleTick (s : State) : State :=
  if s.powerGood then
    { s with timebase := s.timebase + 1, col := { s.col with optime := s.col.optime + 1 },
             dev := { s.dev with constrainedNs := s.dev.constrainedNs + b2n (s.dev.mode == .constrained) } }
  else s

/-- The answer of every command: a next state. -/
def ok (s : State) : Host.Outcome State Fault Refusal := .next s

end Sys2Proof.Machine
end

