-- ==== Sys2Proof/Machine/Hbm.lean ====
section
/-! DEFINITION. HBM addressing and accesses: the mapping orders (R253), activates and row-disturbance protection
(R257, R258), poison (R252, R260). -/
namespace Sys2Proof.Machine

/-- Where a device physical address lies (R253). -/
structure DpaParts where
  stack   : Nat
  channel : Nat     -- channel in the stack
  pseudo  : Nat
  bg      : Nat
  bank    : Nat
  sid     : Nat
  row     : Nat
  column  : Nat
  byte    : Nat
deriving DecidableEq, Repr

/-- The parts of a device physical address under a mapping order (R253). -/
def mapDpa (order a : Nat) : DpaParts :=
  match order with
  | 0 =>
    { stack := bits a 38 36, channel := bits a 12 8, pseudo := bits a 6 6,
      bg := (bits a 13 13 * 2 + bits a 7 7) ^^^ bits a 25 24, bank := bits a 19 18 ^^^ bits a 23 22,
      sid := bits a 21 20, row := bits a 35 22, column := bits a 17 14, byte := bits a 5 0 }
  | 1 =>
    { stack := bits a 38 36, channel := bits a 16 12, pseudo := bits a 6 6, bg := bits a 8 7,
      bank := bits a 19 18, sid := bits a 21 20, row := bits a 35 22,
      column := bits a 17 17 * 8 + bits a 11 9, byte := bits a 5 0 }
  | 3 =>
    { stack := bits a 38 36, channel := bits a 19 15, pseudo := bits a 10 10, bg := bits a 7 6,
      bank := bits a 9 8, sid := bits a 21 20, row := bits a 35 22, column := bits a 14 11, byte := bits a 5 0 }
  | _ =>
    { stack := bits a 38 36, channel := bits a 35 31, pseudo := bits a 6 6, bg := bits a 8 7,
      bank := bits a 14 13, sid := bits a 16 15, row := bits a 30 17, column := bits a 12 9, byte := bits a 5 0 }

/-- The device channel of an address: 32 × stack + channel (R12). -/
def DpaParts.dev (p : DpaParts) : Nat := 32 * p.stack + p.channel

/-- The number of a bank within its channel: 2 pseudo-channels × 4 SIDs × 4 bank groups × 4 banks (R251). -/
def DpaParts.bankNo (p : DpaParts) : Nat := p.pseudo * 64 + p.sid * 16 + p.bg * 4 + p.bank

/-- The state of a channel. -/
def State.chan (s : State) (c : Nat) : Chan := Tab.get s.chans c {}
def State.updChan (s : State) (c : Nat) (f : Chan → Chan) : State :=
  { s with chans := Tab.set s.chans c (f (s.chan c)) }

/-- PF BAR0 offset of register `r` of device channel `c`'s block (R275). -/
def chReg (c r : Nat) : Nat := 0x401000 + 0x10000 * (c / 32) + 0x100 * (c % 32) + r

/-- The entry with the least count, lowest index on ties (R257). -/
def leastAct : List (Nat × Nat) → Nat → Nat × Nat → Nat
  | [], _, best => best.1
  | (_, n) :: r, i, best => leastAct r (i + 1) (if n < best.2 then (i, n) else best)

/-- The activate-count table after an activate of row `x`, and whether `x` reached the threshold (R257). -/
def actUpdate (t : List (Nat × Nat)) (x thresh : Nat) : List (Nat × Nat) × Bool :=
  let t :=
    if t.any (fun p => p.1 == x) then updWhere t (fun p => p.1 == x) (fun p => (p.1, p.2 + 1))
    else if t.length < 32 then t ++ [(x, 1)]
    else
      let e := leastAct t 0 (0, (t.headD (0, 0)).2)
      setAt t e (x, (t.getD e (0, 0)).2 + 1)
  if t.any (fun p => p.1 == x && decide (thresh ≤ p.2)) then
    (updWhere t (fun p => p.1 == x) (fun p => (p.1, 0)), true)
  else (t, false)

/-- The neighbours of a row that a neighbour refresh covers (R257). -/
def neighbours (x : Nat) (dist2 : Bool) : List Nat :=
  (((if 1 ≤ x then [x - 1] else []) ++ [x + 1]
    ++ (if dist2 then (if 2 ≤ x then [x - 2] else []) ++ [x + 2] else [])).filter (fun r => decide (r < 16384)))

/-- Refresh commands that have fallen due for each bank of a channel: one every 3,906.25 ns, or every half of it (R255). -/
def State.owed (s : State) (ch : Chan) : Nat :=
  ch.owedBase + (s.timebase - ch.owedAt) * (if ch.twice then 8 else 4) / 15625

/-- `n` refresh commands of a bank: its row closes, and the end of a window of 8,192 clears its activate table (R255, R257). -/
def Chan.refresh (ch : Chan) (bank n : Nat) : Chan :=
  let d := Tab.get ch.refreshed bank 0
  { ch with
    openRow := Tab.del ch.openRow bank
    refreshed := Tab.set ch.refreshed bank (d + n)
    acts := if d / 8192 < (d + n) / 8192 then Tab.del ch.acts bank else ch.acts }

/-- The refreshes issued ahead of an access to a bank: until fewer than 8 are postponed (R256). -/
def State.forceRefresh (s : State) (c bank : Nat) : State :=
  let ch := s.chan c
  let late := s.owed ch - Tab.get ch.refreshed bank 0
  if 8 ≤ late then s.updChan c (fun ch => ch.refresh bank (late - 7)) else s

/-- An access to the row of a burst: a row that is not open in its bank is activated (log 14), and a row whose count reaches
RD_THRESH has its neighbours refreshed and counted (R257, R258). -/
def State.touchRow (s : State) (dpa : Nat) : State :=
  let p := mapDpa s.hbm.order dpa
  let c := p.dev
  let s := s.forceRefresh c p.bankNo
  let ch := s.chan c
  if Tab.find ch.openRow p.bankNo = some p.row then s
  else
    let (t, hit) := actUpdate (Tab.get ch.acts p.bankNo []) p.row (s.regField offHbmCfg 31 16)
    let s := s.updChan c (fun ch => { ch with openRow := Tab.set ch.openRow p.bankNo p.row,
                                              acts := Tab.set ch.acts p.bankNo t })
    if hit then
      (s.updChan c (fun ch => { ch with
        nbrs := Tab.set ch.nbrs p.bankNo (neighbours p.row (bitAt (s.reg offHbmCfg) 0)) })).count (chReg c 0x18) 1
    else s

/-- Touches the rows of `n` bursts from an address. -/
def State.touchRows (s : State) (dpa : Nat) : Nat → State
  | 0 => s
  | n + 1 => State.touchRows (s.touchRow dpa) (dpa + 64) n

/-- Is a burst the first of its row in a sequential pass under a mapping order: are its column bits 0 (R253)? -/
def rowStart (order a : Nat) : Bool :=
  match order with
  | 0 => bits a 17 14 == 0
  | 1 => bits a 17 17 == 0 && bits a 11 9 == 0
  | 3 => bits a 14 11 == 0
  | _ => bits a 12 9 == 0

/-- A pass over `n` bytes in address order: every row is touched at its first burst (R257). -/
def State.passRows (s : State) (dpa n : Nat) : State :=
  ((List.range (n / 64)).filter (fun k => rowStart s.hbm.order (dpa + 64 * k))).foldl (fun s k => s.touchRow (dpa + 64 * k)) s

/-- Bytes covered by one poison mark of a space: a 64-byte burst or line off chip, an 8-byte word on chip. -/
def granule (sp : Space) : Nat :=
  match sp with
  | .hbm => 64
  | .t1 => 64
  | _ => 8

/-- The poison marks that `n` bytes at `a` of a space would have. -/
def poisonKeys (sp : Space) (a n : Nat) : List Nat :=
  let g := granule sp
  if n = 0 then []
  else (List.range ((a + n - 1) / g - a / g + 1)).map (fun k => sp.base + (a / g + k) * g)

/-- Does a read of `n` bytes at `a` meet poison? -/
def State.poisoned (s : State) (sp : Space) (a n : Nat) : Bool :=
  let g := granule sp
  s.poison.any (fun k => decide (k < sp.base + a + n) && decide (sp.base + a < k + g))

/-- Marks bytes as poisoned. -/
def State.addPoison (s : State) (sp : Space) (a n : Nat) : State :=
  { s with poison := dedup (s.poison ++ poisonKeys sp a n) }

/-- Clears the poison of `n` bytes. -/
def State.clearPoison (s : State) (sp : Space) (a n : Nat) : State :=
  let g := granule sp
  { s with poison := s.poison.filter (fun k =>
      !(decide (sp.base + a ≤ k) && decide (k + g ≤ sp.base + a + n))) }

/-- The pieces of a write of `b` at `a` by granule: address and bytes. -/
def granPieces (g : Nat) : Nat → Nat → Bytes → List (Nat × Bytes)
  | 0, _, _ => []
  | n + 1, a, b =>
    if b = [] then []
    else
      let k := g - a % g
      (a, b.take k) :: granPieces g n (a + k) (b.drop k)

/-- A write of one piece within a granule: a whole granule clears its poison; a partial write over poison is not
applied and the granule stays poisoned (R142, R260). -/
def State.wrPiece (s : State) (sp : Space) (a : Nat) (b : Bytes) : State :=
  if b.length = granule sp then (s.clearPoison sp a b.length).wr sp a b
  else if s.poisoned sp a b.length then s
  else s.wr sp a b

/-- A write under ECC: whole granules clear poison, partial ones are read-modify-writes (R142, R252, R260). -/
def State.wrEcc (s : State) (sp : Space) (a : Nat) (b : Bytes) : State :=
  (granPieces (granule sp) (b.length + 1) a b).foldl (fun s p => s.wrPiece sp p.1 p.2) s

/-- A read of HBM: the rows are touched. -/
def State.rdHbm (s : State) (a n : Nat) : Bytes × State :=
  (s.rd .hbm a n, s.touchRows (a / 64 * 64) ((a + n + 63) / 64 - a / 64))

/-- Forgets what was bad in whole bursts or lines that are written over. -/
def State.dropUpsets (s : State) (sp : Space) (a n : Nat) : State :=
  { s with upsets := s.upsets.filter (fun p => !(decide (sp.base + a ≤ p.1) && decide (p.1 + 64 ≤ sp.base + a + n))) }

/-- Whole granules take new contents: their poison, and what was bad in them, is gone (R260). -/
def State.overwrite (s : State) (sp : Space) (a : Nat) (b : Bytes) : State :=
  ((s.clearPoison sp a b.length).dropUpsets sp a b.length).wr sp a b

/-- As `overwrite`, with `n` zero bytes. -/
def State.wipe (s : State) (sp : Space) (a n : Nat) : State :=
  ((s.clearPoison sp a n).dropUpsets sp a n).zero sp a n

/-- The bad bursts or lines that `n` bytes at `a` touch, in address order. -/
def State.upsetsIn (s : State) (sp : Space) (a n : Nat) : List (Nat × Upset) :=
  (s.upsets.filter (fun p => decide (p.1 < sp.base + a + n) && decide (sp.base + a < p.1 + 64))).map
    (fun p => (p.1 - sp.base, p.2))

/-- A bad burst or line has been found and is bad no longer. -/
def State.dropUpset (s : State) (sp : Space) (a : Nat) : State := { s with upsets := Tab.del s.upsets (sp.base + a) }

/-- An uncorrectable data error: counted for its channel, with a record that names the burst, the channel and the requester
(R260). -/
def State.hbmUncorrectable (s : State) (dpa inst : Nat) (injected : Bool) : State :=
  let p := mapDpa s.hbm.order dpa
  (s.count (chReg p.dev 0x10) 1).logFh
    { kind := 0x0301, status := 0x3001, outcome := 2, mech := 5, inst := inst, resType := 3, resIdx := p.dev,
      flags := 2 * b2n injected, addr := dpa, data := leBytes 8 inst }

/-- An access to `n` bytes at `dpa` meets the fault armed for the channel of one of its bursts: a single-symbol error is
corrected and counted for the channel, a double-symbol error poisons the burst (R259, R260, R489). -/
def State.hbmInjected (s : State) (dpa n inst : Nat) : State :=
  if bitAt (s.reg offInject) 63 then
    let bursts := (List.range ((dpa + n - 1) / 64 - dpa / 64 + 1)).map (fun k => (dpa / 64 + k) * 64)
    let chan := fun a => (mapDpa s.hbm.order a).dev
    match bursts.find? (fun a => s.armed 3 (chan a) || s.armed 4 (chan a)) with
    | none => s
    | some a =>
      if s.armed 3 (chan a) then s.disarm.count (chReg (chan a) 8) 1
      else (s.disarm.addPoison .hbm a 1).hbmUncorrectable a inst true
  else s

end Sys2Proof.Machine
end

