-- ==== Sys2Proof/Machine/Frames.lean ====
section
/-! DEFINITION. The Pager's stores: the T0 pool and its frames, the units of the lower tiers, stored images; and how a frame
leaves its place: its contents move to another frame of the stack, the loss is covered, the frame retires or its channel is
mapped out (R219–R221, R224, R226, R227, R231–R233, R259–R261, R266–R269). -/
namespace Sys2Proof.Machine

def mib2 : Nat := 2097152
def kib64 : Nat := 65536

/-- The key of a page: instance and page base. -/
def pageKey (i va : Nat) : Nat := i * 2 ^ 48 + va

/-- The page size of a range, and of a page. -/
def Range.page (r : Range) : Nat := if r.big then mib2 else kib64
def Page.size (g : Page) : Nat := if g.big then mib2 else kib64

def State.updPager (s : State) (f : Pager → Pager) : State := { s with pager := f s.pager }
def State.frame? (s : State) (f : Nat) : Option FrameDesc := Tab.find s.pager.frames f
def State.updFrame (s : State) (f : Nat) (g : FrameDesc → FrameDesc) : State :=
  s.updPager (fun p => { p with frames := Tab.upd p.frames f g })
def State.page? (s : State) (i va : Nat) : Option Page := Tab.find s.pager.pages (pageKey i va)
def State.setPage (s : State) (i va : Nat) (g : Page) : State :=
  s.updPager (fun p => { p with pages := Tab.set p.pages (pageKey i va) g })

-- ---------------------------------------------------------------- the T0 pool (R221, R227, R266)

/-- Page-table frames of a channel under ORDER_C, or of a stack under the other orders (R221). -/
def share (total : Nat) (members : List Nat) (m : Nat) : Nat :=
  let n := members.length
  match findIdxFrom (fun x => x == m) members 0 with
  | some (i, _) => total / n + (if i < total % n then 1 else 0)
  | none => 0

/-- The unit a frame belongs to for placement: its channel under ORDER_C, else its stack (R227, R253). -/
def State.unitOf (s : State) (f : Nat) : Nat := if s.hbm.order = 2 then f / 1024 else f / 32768
/-- Frames of such a unit. -/
def State.unitSize (s : State) : Nat := if s.hbm.order = 2 then 1024 else 32768

/-- Page-table frames of a unit, none once they have moved out of its channel. -/
def State.ptIn (s : State) (u : Nat) : Nat :=
  if s.hbm.order = 2 then (if (s.chan u).ptOut then 0 else share s.hbm.ptFrames s.hbm.chans u)
  else share s.hbm.ptFrames (dedup (s.hbm.chans.map (· / 32))) u

/-- Reserve frames of a unit: a channel's, or the stack's (R266). -/
def State.reserveIn (s : State) (u : Nat) : Nat :=
  if s.hbm.order = 2 then (s.chan u).reserve
  else ((List.range 32).map (fun c => (s.chan (32 * u + c)).reserve)).foldl (· + ·) 0

/-- Is a unit in use: its channel in service since Cold Start and not mapped out or migrating? -/
def State.unitUsable (s : State) (u : Nat) : Bool :=
  if s.hbm.order = 2 then s.hbm.chans.contains u && (s.chan u).state == 1
  else s.hbm.chans.any (fun c => c / 32 == u)

/-- Frames of a unit below its reserve and its page-table frames. -/
def State.usableIn (s : State) (u : Nat) : Nat :=
  if s.unitUsable u then s.unitSize - s.ptIn u - s.reserveIn u else 0

/-- Free frames of a unit. -/
def State.freeIn (s : State) (u : Nat) : Nat :=
  let n := s.unitSize
  s.usableIn u - (s.pager.frames.filter (fun p => decide (p.1 / n = u) && decide (p.1 % n < s.usableIn u))).length

/-- The lowest free frame of a unit (log 15: the manual leaves the frame open). -/
def State.lowestFree (s : State) (u : Nat) : Option Nat :=
  let n := s.unitSize
  ((List.range (s.usableIn u)).find? (fun k => !Tab.has s.pager.frames (u * n + k))).map (fun k => u * n + k)

/-- Every free frame of the pool. -/
def State.freeFrames (s : State) : Nat :=
  let us := if s.hbm.order = 2 then s.hbm.chans else dedup (s.hbm.chans.map (· / 32))
  (us.map s.freeIn).foldl (· + ·) 0

/-- Frames an instance holds (R220); frames being zeroed or retired are no longer held. -/
def State.heldFrames (s : State) (i : Nat) : Nat :=
  (s.pager.frames.filter (fun p => p.2.alloc && p.2.inst == i && p.2.use != 4 && p.2.use != 5 && p.2.use != 3)).length

/-- Frames an instance's T0 quota has free. -/
def State.quotaFree (s : State) (i : Nat) : Nat :=
  ((s.inst? i).map (fun x => x.alloc.t0)).getD 0 - s.heldFrames i

/-- The unit with the most free frames, the lowest on ties. -/
def State.mostFree (s : State) : List Nat → Option (Nat × Nat) → Option Nat
  | [], best => best.map (·.1)
  | u :: r, best =>
    let n := s.freeIn u
    match best with
    | none => State.mostFree s r (if n = 0 then none else some (u, n))
    | some (b, m) => State.mostFree s r (if m < n then some (u, n) else some (b, m))

/-- The units an allocation tries, in order: the preferred channel, then its quire, its stack, then any; without a
preferred channel, the die's channels by free frames, then any (R227, log 15). -/
def State.pickUnit (s : State) (want : Option Nat) (die : Option Nat) : Option Nat :=
  if s.hbm.order ≠ 2 then s.mostFree (List.range 8) none
  else
    let firstFree := fun (l : List Nat) => l.find? (fun c => decide (0 < s.freeIn c))
    match want with
    | some c =>
      if 0 < s.freeIn c then some c
      else match firstFree ((List.range 16).map (fun k => c / 16 * 16 + k)) with
        | some u => some u
        | none => match firstFree ((List.range 32).map (fun k => c / 32 * 32 + k)) with
          | some u => some u
          | none => firstFree (List.range 256)
    | none =>
      match die with
      | some d =>
        match s.mostFree ((List.range 64).map (fun k => 64 * d + k)) none with
        | some u => some u
        | none => s.mostFree (List.range 256) none
      | none => s.mostFree (List.range 256) none

/-- Takes a frame for an instance from a unit, under its quota. -/
def State.takeFrame (s : State) (i u use pins : Nat) : Option (Nat × State) :=
  if s.quotaFree i = 0 then none
  else match s.lowestFree u with
    | none => none
    | some f =>
      some (f, s.updPager (fun p => { p with
        frames := Tab.set p.frames f { inst := i, use := use, pins := pins, accessed := true, seq := p.seq }
        seq := p.seq + 1 }))

/-- Sends a frame to be zeroed before it takes a new owner (R226). -/
def State.releaseFrame (s : State) (f : Nat) : State :=
  s.updFrame f (fun d => { d with use := 4, pins := 0, accessed := false })

/-- The pages that lie in a frame. -/
def State.pagesIn (s : State) (f : Nat) : List (Nat × Page) :=
  s.pager.pages.filter (fun p => (p.2.state == .t0 || p.2.state == .movingOut) && decide (p.2.loc / mib2 = f))

/-- Adds to the holds of a frame, or takes from them (R224, R230). -/
def State.pin (s : State) (f : Nat) : State := s.updFrame f (fun d => { d with pins := d.pins + 1 })
def State.unpin (s : State) (f : Nat) : State := s.updFrame f (fun d => { d with pins := d.pins - 1 })

-- ---------------------------------------------------------------- lower tiers (R219, R224, R231–R233)

/-- T1 units that an expansion port decodes. -/
def CxlPort.units (p : CxlPort) : Nat := if p.state = 3 then 0 else p.bytes / kib64
def State.port (s : State) (p : Nat) : CxlPort := Tab.get s.ports p {}

/-- The first unit of a port in the numbering of T1 units: bit 63 of a location selects port 1 (R222). -/
def portBase (p : Nat) : Nat := p * 2 ^ 47

/-- PGR_T1_POOL: the units both ports decode (R271). -/
def State.t1Pool (s : State) : Nat := (s.port 0).units + (s.port 1).units

def State.t1Used (s : State) (i : Nat) : Nat := (s.pager.t1Tags.filter (fun t => t.2.inst == i && t.2.use != 4)).length
def State.t2UsedBy (s : State) (i : Nat) : Nat := (s.pager.t2Used.filter (fun t => t.2 == i)).length

/-- `n` units from `u` are free of T1 tags; with `soon`, units that are being zeroed count as free. -/
def State.t1Free (s : State) (soon : Bool) (u n : Nat) : Bool :=
  !s.pager.t1Tags.any (fun t => decide (u ≤ t.1) && decide (t.1 < u + n) && !(soon && t.2.use == 4))

/-- The lowest run of `n` free T1 units on a port that is up (log 15), or of units free soon. -/
def State.findT1 (s : State) (soon : Bool) (n : Nat) : Option Nat :=
  let starts := fun p =>
    (portBase p :: (s.pager.t1Tags.map (fun t => t.1 + 1))).filter (fun u =>
      decide (portBase p ≤ u) && decide (u + n ≤ portBase p + (s.port p).units) && s.t1Free soon u n)
  let best := fun l => l.foldl (fun (b : Option Nat) u => match b with
    | none => some u
    | some v => some (min u v)) none
  match best (starts 0) with
  | some u => some u
  | none => best (starts 1)

def t2Key (i u : Nat) : Nat := i * 2 ^ 40 + u

/-- The lowest run of `n` free T2 units of an instance's backing range. -/
def State.findT2 (s : State) (i n : Nat) : Option Nat :=
  match s.inst? i with
  | none => none
  | some x =>
    let mine := (s.pager.t2Used.filter (fun t => t.2 == i)).map (fun t => t.1 - i * 2 ^ 40)
    let ok := (0 :: mine.map (· + 1)).filter (fun u =>
      decide (u + n ≤ x.alloc.t2Len / kib64) && !mine.any (fun v => decide (u ≤ v) && decide (v < u + n)))
    ok.foldl (fun (b : Option Nat) u => match b with
      | none => some u
      | some v => some (min u v)) none

/-- Takes units of a tier for an instance under its quota, for contents of a USE; answers the first unit. -/
def State.takeUnits (s : State) (i use tier n : Nat) : Option (Nat × State) :=
  match s.inst? i with
  | none => none
  | some x =>
    if tier = 1 then
      if s.t1Used i + n ≤ x.alloc.t1 then
        (s.findT1 false n).map (fun u => (u, s.updPager (fun p => { p with
          t1Tags := (List.range n).foldl (fun t k => Tab.set t (u + k) { inst := i, use := use }) p.t1Tags })))
      else none
    else
      if s.t2UsedBy i + n ≤ x.alloc.t2 then
        (s.findT2 i n).map (fun u => (u, s.updPager (fun p => { p with
          t2Used := (List.range n).foldl (fun t k => Tab.set t (t2Key i (u + k)) i) p.t2Used })))
      else none

/-- Will there be `n` units of T1 for an instance once the units that are being zeroed are free (R226)? -/
def State.unitsSoon (s : State) (i tier n : Nat) : Bool :=
  tier == 1 && decide (s.t1Used i + n ≤ ((s.inst? i).map (·.alloc.t1)).getD 0) && (s.findT1 true n).isSome

/-- Frees units of a tier: T1 units go to be zeroed, T2 units are free at once (R226). -/
def State.freeUnits (s : State) (i tier u n : Nat) : State :=
  if tier = 1 then
    s.updPager (fun p => { p with t1Tags := p.t1Tags.map (fun t =>
      if u ≤ t.1 ∧ t.1 < u + n ∧ t.2.inst = i then (t.1, { t.2 with use := 4 }) else t) })
  else if tier = 2 then
    s.updPager (fun p => { p with t2Used := p.t2Used.filter (fun t =>
      !(t.2 == i && decide (t2Key i u ≤ t.1) && decide (t.1 < t2Key i (u + n)))) })
  else s

/-- The oldest restored resident page of an instance that keeps a copy in a tier (R233). -/
def State.oldestCopy (s : State) (i tier : Nat) : Option (Nat × Page) :=
  (s.pager.pages.filter (fun p => decide (p.1 / 2 ^ 48 = i) && p.2.copy && p.2.copyTier == tier
      && p.2.state == .t0)).foldl
    (fun (b : Option (Nat × Page)) p => match b with
      | none => some p
      | some q => if p.2.restored < q.2.restored then some p else some q) none

/-- Frees the copy a resident page keeps below (R233). -/
def State.dropCopy (s : State) (i va : Nat) : State :=
  match s.page? i va with
  | none => s
  | some g =>
    if g.copy then
      (s.freeUnits i g.copyTier g.copyUnit (g.unitsM1 + 1)).setPage i va { g with copy := false, copyTier := 0, compressed := false }
    else s

/-- How a demand for lower-tier units ends: with the first unit; with none, but some will be free once they are zeroed; with
no room. -/
inductive Room where
  | got (unit_ : Nat) (s : State)
  | soon (s : State)
  | full

/-- Takes units, freeing copies of resident pages, oldest restore first, until there is room (R233). -/
def State.takeUnitsFreeing (s : State) (i use tier n : Nat) : Nat → Room
  | 0 =>
    match s.takeUnits i use tier n with
    | some r => .got r.1 r.2
    | none => if s.unitsSoon i tier n then .soon s else .full
  | fuel + 1 =>
    match s.takeUnits i use tier n with
    | some r => .got r.1 r.2
    | none =>
      if s.unitsSoon i tier n then .soon s
      else match s.oldestCopy i tier with
        | none => .full
        | some p => State.takeUnitsFreeing (s.dropCopy i (p.1 % 2 ^ 48)) i use tier n fuel

/-- Takes units in one tier, else in the other. -/
def State.takeUnitsIn (s : State) (i use tier n : Nat) : Nat × Room :=
  let fuel := s.pager.pages.length
  match s.takeUnitsFreeing i use tier n fuel with
  | .full => (3 - tier, s.takeUnitsFreeing i use (3 - tier) n fuel)
  | r => (tier, r)

/-- The byte space and address of a tier's location. -/
def State.tierPlace (s : State) (i tier unit : Nat) : Space × Nat :=
  if tier = 1 then (.t1, unit * kib64)
  else (.host i, ((s.inst? i).map (fun x => x.alloc.t2Base)).getD 0 + unit * kib64)

/-- The two XTS keys of an instance (R232). -/
def State.xtsKeys (s : State) (i : Nat) : Bytes × Bytes :=
  let k := Tab.get s.xts i (zeros 64)
  (k.take 32, k.drop 32)

/-- The stored image of a page: 4 KiB data units under the tweak VA[47:12] + k (R231, R232). -/
def sealImage (k1 k2 : Bytes) (va : Nat) (d : Bytes) : Bytes :=
  ((groups 4096 (d.length / 4096 + 1) d).zipIdx.map (fun p => xtsEnc k1 k2 (va / 4096 + p.2) p.1)).flatten

/-- The plaintext of a stored image. -/
def openImage (k1 k2 : Bytes) (va : Nat) (d : Bytes) : Bytes :=
  ((groups 4096 (d.length / 4096 + 1) d).zipIdx.map (fun p => xtsDec k1 k2 (va / 4096 + p.2) p.1)).flatten

/-- The tweak of a 64-byte data unit of an IN_PLACE page: VA[47:6], with bit 127 set (R232). -/
def inPlaceTweak (va : Nat) : Nat := va % 2 ^ 48 / 64 + 2 ^ 127

/-- Zeros up to whole 64 KiB units. -/
def padUnits (d : Bytes) : Bytes := padTo d (ceilDiv d.length kib64 * kib64)

/-- Whether evictions of an instance are compressed (R231, R341). -/
def State.compressing (s : State) (i : Nat) : Bool := bitAt (s.feature i 5) 0

/-- The image an eviction stores, and whether it is a Press image (R231 steps 2–4). -/
def State.imageOf (s : State) (i : Nat) (g : Page) (d : Bytes) : Bytes × Bool :=
  if s.compressing i && !g.inPlace then
    let c := npbStream true d
    if g.size - kib64 < c.length then (d, false) else (padUnits c, true)
  else (d, false)

/-- The USE of the frames and units that hold a page (R224). -/
def Page.use (g : Page) : Nat := if g.segment then 1 else 0

-- ---------------------------------------------------------------- loss of frames: reserves and causes (R266)

/-- Frames that no quota claims (R266). -/
def State.unclaimed (s : State) : Nat := s.hbm.pool - s.hbm.poolCut - ((s.insts.map (fun p => p.2.alloc.t0)).foldl (· + ·) 0)

/-- CONTAINMENT with cause HBM_RESERVE for a stack; the map-out or retirement is recorded, so the cause is resolved
and Resume Instance 0 may leave CONTAINMENT (R266, R457, R458). -/
def State.reserveShort (s : State) (stack : Nat) : State := (s.openCause 1 3 stack).resolveCause 1 3 stack

/-- Covers `n` lost frames of a stack one by one: from its reserve, whose retired frames cover nothing, then from unclaimed
frames of the pool; else CONTAINMENT with cause HBM_RESERVE (R266). -/
def State.coverLoss (s : State) (stack : Nat) : Nat → Nat → State
  | 0, _ => s
  | fuel + 1, n =>
    if n = 0 then s
    else
      match (List.range 32).find? (fun k => decide (0 < (s.chan (32 * stack + k)).reserve)) with
      | some k =>
        let c := 32 * stack + k
        let u := if s.hbm.order = 2 then c else stack
        let f := u * s.unitSize + (s.unitSize - s.ptIn u - s.reserveIn u)
        State.coverLoss (s.updChan c (fun ch => { ch with reserve := ch.reserve - 1 })) stack fuel
          (if s.col.retFrames.contains f then n else n - 1)
      | none =>
        let k := min n s.unclaimed
        let s := { s with hbm := { s.hbm with poolCut := s.hbm.poolCut + k } }
        if n ≤ k then s else s.reserveShort stack

/-- Does a frame lie in the page-table region, or in the reserve, of its unit (R221, R266)? -/
def State.inRegion (s : State) (f : Nat) : Bool :=
  let u := s.unitOf f
  decide (s.unitSize - s.ptIn u ≤ f % s.unitSize) && decide (0 < s.ptIn u)
def State.inReserve (s : State) (f : Nat) : Bool :=
  let u := s.unitOf f
  decide (s.unitSize - s.ptIn u - s.reserveIn u ≤ f % s.unitSize) && !s.inRegion f

/-- The loss of a channel is covered once: its frames outside its reserve that are not retired; its reserve is lost with it
(R266). -/
def State.coverChannel (s : State) (c : Nat) : State :=
  if (s.chan c).covered then s
  else
    let gone := (s.col.retFrames.filter (fun f => f / 1024 == c && !s.inReserve f)).length
    let lost := 1024 - (s.chan c).reserve - gone
    (s.updChan c (fun ch => { ch with reserve := 0, covered := true })).coverLoss (c / 32) 4096 lost

/-- Starts a channel map-out: no new page goes to it, and MAP_OUT holds MAINTENANCE (R267, R455). -/
def State.startMapOut (s : State) (c : Nat) : State :=
  if (s.chan c).state = 1 then (s.updChan c (fun ch => { ch with state := 2 })).holder 1 true else s

/-- Frames retired in a channel. -/
def State.retiredIn (s : State) (c : Nat) : Nat := (s.col.retFrames.filter (fun f => f / 1024 == c)).length

-- ---------------------------------------------------------------- errors of bursts and lines (R259–R261, R269, R272)

/-- A frame is to be retired: its loss is covered, and it waits for its contents to move (R266, R269). -/
def State.retireFrame (s : State) (f row cnt : Nat) : State :=
  if s.col.retFrames.contains f ∨ s.hbm.retiring.any (fun x => x.1 == f) then s
  else
    let s : State := { s with hbm := { s.hbm with retiring := s.hbm.retiring ++ [(f, row, cnt)] } }
    if (s.chan (f / 1024)).covered || s.inReserve f then s else s.coverLoss (f / 32768) 4096 1

/-- A corrected burst: counted for the channel and against its row; the row's frame retires at the threshold (R259,
R269, R472). -/
def State.hbmCorrected (s : State) (dpa : Nat) : State :=
  let p := mapDpa s.hbm.order dpa
  let s := s.count (chReg p.dev 8) 1
  let (win, lim) := s.threshold 1
  let (n, hit, s) := s.countEvent 2 (p.dev * 2 ^ 24 + p.bankNo * 2 ^ 14 + p.row) win lim
  if hit then s.retireFrame (dpa / mib2) p.row n else s

/-- A command error: three failed attempts end the request as an uncorrectable error, with the burst's cells as they were,
and three such in 1 s mark the channel failing (R261, R265). -/
def State.commandError (s : State) (dpa inst : Nat) : State :=
  let c := (mapDpa s.hbm.order dpa).dev
  let now := s.timebase
  let recent := ((s.chan c).cmdErrs.filter (fun t => decide (now < t + 1000000000))) ++ [now]
  let s := s.hbmUncorrectable dpa inst false
  let s := s.updChan c (fun ch => { ch with cmdErrs := recent })
  if 3 ≤ recent.length then s.startMapOut c else s

/-- PF BAR0 offset of a port's register. -/
def cxlReg (p r : Nat) : Nat := 0x500000 + 0x1000 * p + r

/-- A poisoned or uncorrectable-error response of an expander: counted for its port, recorded as an uncorrectable error, and
the device's event record, which is its own, copied into the log (R272; log 88). -/
def State.expanderError (s : State) (a inst : Nat) (poison : Bool) : State :=
  let p := a / 2 ^ 63
  let s := (s.count (cxlReg p (if poison then 0x10 else 0x18)) 1).logFh
    { kind := 0x0301, status := 0x3001, outcome := 2, inst := inst, resType := 4, resIdx := p, addr := a,
      data := leBytes 8 inst }
  let (b, s) := s.freshBytes 72
  s.logFh { kind := 0x0401, outcome := 7, resType := 4, resIdx := p, data := b }

/-- The bursts of `l` are read: a corrected one is written back, the others fail. Answers the bursts that fail (R259–R261). -/
def State.meetBursts (s : State) (inst : Nat) (l : List (Nat × Upset)) : List Nat × State :=
  l.foldl (fun (x : List Nat × State) p =>
    match p.2 with
    | .corrected => (x.1, (x.2.dropUpset .hbm p.1).hbmCorrected p.1)
    | .commandError => (x.1 ++ [p.1], (x.2.dropUpset .hbm p.1).commandError p.1 inst)
    | _ => (x.1 ++ [p.1], x.2.hbmUncorrectable p.1 inst false)) ([], s)

/-- The lines of `n` bytes at `a` of an expander are read: those that answer with an error are counted and recorded (R272). -/
def State.meetLines (s : State) (a n inst : Nat) : State :=
  (s.upsetsIn .t1 a n).foldl (fun s p =>
    match p.2 with
    | .corrected => s.dropUpset .t1 p.1
    | u => s.expanderError p.1 inst (u == .poison)) s

/-- Do stored bytes of a tier, at an address of its space, answer with an error or poison (R236, R272, R522)? -/
def State.storedBad (s : State) (i tier a n : Nat) : Bool :=
  if tier = 1 then s.poisoned .t1 a n || (s.upsetsIn .t1 a n).any (fun p => p.2 != .corrected)
  else s.poisoned (.host i) a n || (s.hostErr i a n).isSome

/-- Reads the stored image of a page: its 64 KiB blocks, `none` for those that are lost (R234, R236). Its bytes pass the AES
cores (R413, R418). -/
def State.storedBlocks (s : State) (i va : Nat) (g : Page) (tier unit : Nat) : List (Option Bytes) × State :=
  let (sp, a) := s.tierPlace i tier unit
  let len := (g.unitsM1 + 1) * kib64
  let (k1, k2) := s.xtsKeys i
  let plain := openImage k1 k2 va (s.rd sp a len)
  let bad := fun p n => s.storedBad i tier (a + p) n
  let blocks :=
    if g.compressed then npbPage bad (g.size / kib64) 0 plain
    else (List.range (g.size / kib64)).map (fun k =>
      if bad (k * kib64) kib64 then none else some ((plain.drop (k * kib64)).take kib64))
  (blocks, (if tier = 1 then s.meetLines a len i else s).count 0xD00010 len)

/-- Fills 64 KiB blocks of a page in T0 with poison, with a fault record each (R236). -/
def State.poisonBlocks (s : State) (i va dpa tier : Nat) : List Nat → State
  | [] => s
  | k :: r =>
    let s := s.addPoison .hbm (dpa + k * kib64) kib64
    let s := s.logFh { kind := 0x0304, status := 0x3001, outcome := 2, inst := i, resType := 3,
                       resIdx := dpa / mib2, addr := va + k * kib64, data := leBytes 4 tier }
    State.poisonBlocks s i va dpa tier r

/-- Puts the blocks of a stored page into T0 at an address; lost ones, and those named bad, are poison (R234, R236). -/
def State.putBlocks (s : State) (i va dpa tier : Nat) (blocks : List (Option Bytes)) (bad : List Nat) : State :=
  let data := (blocks.map (fun b => padTo (b.getD []) kib64)).flatten
  let s := (s.passRows dpa data.length).overwrite .hbm dpa data
  s.poisonBlocks i va dpa tier ((List.range blocks.length).filter (fun k => bad.contains k || (blocks.getD k none).isNone))

-- ---------------------------------------------------------------- moving a frame (R221, R267–R269)

/-- A frame for the contents of another: of the same stack, and of no channel `avoid` (R267). -/
def State.moveTarget (s : State) (f avoid : Nat) : Option Nat :=
  let stack := f / 32768
  let units := if s.hbm.order = 2 then ((List.range 32).map (fun k => 32 * stack + k)).filter (· != avoid) else [stack]
  (s.mostFree units none).bind s.lowestFree

/-- Copies the contents of frame `f` to frame `nf`: a page with a valid lower-tier copy is taken from it; of the rest, a burst
that cannot be returned is poison, with a record each (R268). -/
def State.copyFrame (s : State) (f nf : Nat) : State :=
  let a := f * mib2
  let pages := s.pagesIn f
  let inst := ((s.frame? f).map (·.inst)).getD 0
  let pageAt := fun d => pages.find? (fun p => decide (p.2.loc ≤ d) && decide (d < p.2.loc + p.2.size))
  let read := fun d => !((pageAt d).map (·.2.copy)).getD false
  let was := ((s.poison.filter (fun k => decide (Space.hbm.base + a ≤ k) && decide (k < Space.hbm.base + a + mib2))).map
    (· - Space.hbm.base)).filter read
  let (bad, s) := (s.passRows a mib2).meetBursts inst ((s.upsetsIn .hbm a mib2).filter (fun p => read p.1))
  let s := (s.passRows (nf * mib2) mib2).overwrite .hbm (nf * mib2) (s.rd .hbm a mib2)
  let s := (dedup (was ++ bad)).foldl (fun s d =>
    (s.addPoison .hbm (nf * mib2 + (d - a)) 64).logFh
      { kind := 0x0304, status := 0x3001, outcome := 2, inst := inst, resType := 3, resIdx := nf,
        addr := ((pageAt d).map (fun p => p.1 % 2 ^ 48 + (d - p.2.loc))).getD d, data := leBytes 4 0 }) s
  pages.foldl (fun s p =>
    if p.2.copy then
      let (blocks, s) := s.storedBlocks (p.1 / 2 ^ 48) (p.1 % 2 ^ 48) p.2 p.2.copyTier p.2.copyUnit
      s.putBlocks (p.1 / 2 ^ 48) (p.1 % 2 ^ 48) (nf * mib2 + p.2.loc % mib2) p.2.copyTier blocks []
    else s) s

/-- Every holder of frame `f` holds `nf` in its place: the entries of its pages, stages and their pins, fetches, folio images. -/
def State.renameFrame (s : State) (f nf : Nat) : State :=
  let sub := fun (l : List Nat) => l.map (fun x => if x = f then nf else x)
  let page := fun (g : Page) =>
    if (g.state == .t0 || g.state == .movingOut) && g.loc / mib2 == f then { g with loc := nf * mib2 + g.loc % mib2 } else g
  let run := fun (r : EngRun) =>
    { r with spill := sub r.spill, pins := sub r.pins, fetch := r.fetch.map (fun q => { q with pins := sub q.pins }) }
  { s with
    pager := { s.pager with pages := s.pager.pages.map (fun p => (p.1, page p.2)) }
    eng := s.eng.map (fun p => (p.1, { p.2 with run := p.2.run.map run }))
    leaves := s.leaves.map (fun p => (p.1, { p.2 with spill := sub p.2.spill, pins := sub p.2.pins }))
    folios := s.folios.map (fun p => (p.1, { p.2 with frames := sub p.2.frames })) }

/-- Moves a frame whole: contents, descriptor with its holds and its place under the hand, holders. The old frame goes to be
zeroed (R226, R267). -/
def State.moveFrame (s : State) (f nf : Nat) : State :=
  let d := (s.frame? f).getD {}
  let s := (s.copyFrame f nf).updPager (fun p => { p with frames := Tab.set p.frames nf d })
  (s.renameFrame f nf).releaseFrame f

/-- A page-table frame moves: the tables' contents are the Pager's own (R221, R223). -/
def State.moveTable (s : State) (f nf : Nat) : State :=
  s.updPager (fun p => { p with frames := Tab.set (Tab.set p.frames nf { use := 3 }) f { use := 4 } })

/-- A frame that waits for its retirement leaves service once its contents have moved, or at once when it holds none (R269). -/
def State.tryRetire (s : State) (x : Nat × Nat × Nat) : State :=
  let f := x.1
  let used := ((s.frame? f).map (fun d => d.alloc && d.use != 4)).getD (s.inRegion f)
  let moved := if used then (s.moveTarget f 256).map (fun nf => if s.inRegion f then s.moveTable f nf else s.moveFrame f nf)
    else some s
  match moved with
  | none => s
  | some s =>
    let s := s.updPager (fun p => { p with frames := Tab.set p.frames f { alloc := false, use := 5 } })
    let s : State := { s with col := { s.col with retFrames := s.col.retFrames ++ [f], optimeSaved := s.col.optime }
                              hbm := { s.hbm with retiring := s.hbm.retiring.filter (fun y => y.1 != f) } }
    let s := s.logFh { kind := 0x0302, outcome := 3, mech := 5, resType := 3, resIdx := f, count := x.2.2,
                       data := leBytes 4 x.2.1 ++ leBytes 4 x.2.2 }
    if 64 ≤ s.retiredIn (f / 1024) then s.startMapOut (f / 1024) else s

/-- Retires the frames that wait and can leave. -/
def State.retireFrames (s : State) : State := s.hbm.retiring.foldl (fun s x => s.tryRetire x) s

end Sys2Proof.Machine
end

