-- ==== Sys2Proof/Machine/Pager.lean ====
section
/-! DEFINITION. The Pager at work: ranges, translation and accesses, placement, eviction and restore (R215–R236). -/
namespace Sys2Proof.Machine

-- ---------------------------------------------------------------- requesters (R227, R230, R234)

/-- Takes a requester off the Pager's lists. -/
def State.forget (s : State) (w : Waiter) : State :=
  s.updPager (fun p => { p with
    waiters := p.waiters.filter (fun x => x.1 != w), noRoom := p.noRoom.filter (fun x => x.1 != w)
    restores := p.restores.filter (fun r => r.who != some w) })

/-- The compute die of a requester, if it has one: an engine's, a Trimmer's, else the die of a leaf's merger (R12, R227). -/
def State.dieOf (s : State) : Waiter → Option Nat
  | .engine e => some (e / 64)
  | .fetch e => some (e / 64)
  | .trimmer id =>
    match s.trims.find? (fun t => t.2.leaves.contains id) with
    | some t => some (t.1 / 64)
    | none => (Tab.find s.leaves id).map (·.engine / 64)
  | _ => none

/-- The range that holds an address; a range that is being unmapped takes no new translation (R218). -/
def State.range? (s : State) (i va : Nat) : Option Range :=
  s.pager.ranges.find? (fun r => r.inst == i && decide (r.base ≤ va) && decide (va < r.base + r.len)
    && r.closing.isNone)

-- ---------------------------------------------------------------- translation and accesses (R215, R225, R234, R235)

/-- Where an access goes. -/
inductive Xl where
  | direct (addr : Nat)                 -- host memory of the instance's function
  | t0 (dpa frame : Nat)
  | low (tier unit off : Nat)           -- an IN_PLACE page in T1 or T2
  | wait                                -- the page must be restored first
  | hold                                -- the page is in place, but its port retrains or the instance has no XTS pair
  | fault (status : Nat)
deriving DecidableEq, Repr

/-- The base of the page of a range that holds an address. -/
def Range.pageOf (r : Range) (va : Nat) : Nat := va / r.page * r.page

/-- Is a T1 unit on a port that is mapped out (R248)? -/
def State.t1Lost (s : State) (unit : Nat) : Bool := (s.port (unit / 2 ^ 47)).state == 3

/-- Is the port of a T1 unit retraining, so that requests wait (R273)? -/
def State.t1Waits (s : State) (unit : Nat) : Bool := (s.port (unit / 2 ^ 47)).state == 1

/-- The bits [15:0] of a frame descriptor, and the owner tag of a T1 unit (R224). -/
def FrameDesc.tag (d : FrameDesc) : Nat := b2n d.alloc * 2 ^ 15 + b2n d.secure * 2 ^ 14 + d.inst * 2 ^ 7 + d.use * 16
def T1Tag.tag (t : T1Tag) : Nat := 2 ^ 15 + b2n t.secure * 2 ^ 14 + t.inst * 2 ^ 7 + t.use * 16

/-- Does an owner tag admit a transaction of an instance (R225)? -/
def tagAdmits (i : Nat) (alloc secure : Bool) (inst use : Nat) : Bool :=
  alloc && inst == i && !secure && use != 3 && use != 4 && use != 5
def FrameDesc.admits (d : FrameDesc) (i : Nat) : Bool := tagAdmits i d.alloc d.secure d.inst d.use
def T1Tag.admits (t : T1Tag) (i : Nat) : Bool := tagAdmits i true t.secure t.inst t.use

/-- The translation of an address in an IN_PLACE page that lies in T1 or T2 (R216, R225, R232, R248, R273). -/
def State.xlateLow (s : State) (i tier unit off : Nat) : Xl :=
  if !Tab.has s.xts i then .hold
  else if tier = 2 then .low 2 unit off
  else if s.t1Waits unit then .hold
  else match Tab.find s.pager.t1Tags (unit + off / kib64) with
    | some t => if t.admits i then .low 1 unit off else .fault 0x5002
    | none => .fault 0x5002

/-- The translation of an address for an access that needs `write` (R215, R216, R225, R234, R235, R248). -/
def State.xlate (s : State) (i va : Nat) (write : Bool) : Xl :=
  if 2 ^ 48 ≤ va then .fault 0x1006
  else match s.range? i va with
    | none => .fault 0x1006
    | some r =>
      if write && !r.write then .fault 0x1006
      else if r.direct then .direct va
      else
        let base := r.pageOf va
        match s.page? i base with
        | none => .wait
        | some g =>
          match g.state with
          | .zero => .wait
          | .movingIn => if (g.origin == .t1) && s.t1Lost (g.loc / kib64) then .fault 0x4002 else .wait
          | .t0 | .movingOut =>
            let f := g.loc / mib2
            match s.frame? f with
            | some d => if d.admits i then .t0 (g.loc + (va - base)) f else .fault 0x5002
            | none => .fault 0x5002
          | .t1 =>
            if s.t1Lost (g.loc / kib64) then .fault 0x4002
            else if g.inPlace then s.xlateLow i 1 (g.loc / kib64) (va - base) else .wait
          | .t2 => if g.inPlace then s.xlateLow i 2 (g.loc / kib64) (va - base) else .wait

/-- The base of the page that holds an address, or the address itself. -/
def State.pageBase (s : State) (i va : Nat) : Nat :=
  match s.range? i va with
  | some r => r.pageOf va
  | none => va

/-- The channel in which a page of a range is placed (R227). -/
def Range.wantChannel (r : Range) (va : Nat) : Option Nat :=
  match r.place with
  | 1 => some r.channel
  | 2 =>
    let k := (va - r.base) / mib2
    some (16 * (k % 16) + k / 16 % 16)
  | _ => none

/-- Puts a requester on the list of those that wait. -/
def State.addWaiter (s : State) (w : Waiter) (i va : Nat) : State :=
  s.updPager (fun p => { p with
    waiters := if p.waiters.contains (w, i, va) then p.waiters else p.waiters ++ [(w, i, va)] })

/-- Requesters whose page is in place, or has none to wait for, try again (R273, R382). -/
def State.releaseHolds (s : State) : State :=
  s.updPager (fun p => { p with waiters := p.waiters.filter (fun x =>
    decide (2 ^ 48 ≤ x.2.2) || (((Tab.find p.pages (pageKey x.2.1 x.2.2)).map (fun g => g.state == .movingIn)).getD false)) })

/-- The Press jobs of a page's move: its blocks spread over up to SPREAD units (R246). -/
def State.pageJobs (s : State) (i va : Nat) (g : Page) : State :=
  let n := min (s.regField offPgrCfg 3 0) (g.size / kib64)
  { s with press := { s.press with waiting := s.press.waiting ++ (List.range n).map (fun k =>
      { inst := i, fmt := 7, page := some (pageKey i va), part := k, parts := n }) } }

/-- A requester starts to wait for a page: a restore begins unless one runs (R234). -/
def State.needPage (s : State) (w : Waiter) (i va : Nat) : State :=
  match s.range? i va with
  | none => s
  | some r =>
    let base := r.pageOf va
    let g := (s.page? i base).getD { big := r.big, inPlace := r.inPlace && r.home != 0, segment := r.place != 0,
                                     channel := (r.wantChannel base).getD 0 }
    let s := s.addWaiter w i base
    if g.state == .movingIn then s
    else
      let s := s.setPage i base { g with state := .movingIn, origin := g.state }
      let s := s.updPager (fun p => { p with restores := p.restores ++ [{ inst := i, va := base }] })
      if g.compressed && (g.state == .t1 || g.state == .t2) then s.pageJobs i base g else s

/-- An eviction is abandoned before its switch point: the partial image is freed, the page stays in T0 (R235). -/
def State.abandonEvict (s : State) (i va : Nat) (g : Page) : State :=
  let s := if g.copy then s else s.freeUnits i g.toTier g.toUnit g.toUnits
  let s := { s with press := { s.press with waiting := s.press.waiting.filter (fun j => j.page != some (pageKey i va)) } }
  (s.unpin (g.loc / mib2)).setPage i va
    { g with state := .t0, toTier := 0, toUnits := 0, compressed := g.compressed && g.copy }

/-- The frame of a page is accessed; an eviction that has not passed its switch point is abandoned, and the first
write frees the lower-tier copy and sets DIRTY (R224, R233, R235). -/
def State.touchPage (s : State) (i va : Nat) (write : Bool) : State :=
  let base := s.pageBase i va
  match s.page? i base with
  | none => s
  | some g =>
    let f := g.loc / mib2
    let s := if g.state == .movingOut then s.abandonEvict i base g else s
    let s := if g.state == .t0 || g.state == .movingOut then s.updFrame f (fun d => { d with accessed := true }) else s
    if write then
      let s := s.dropCopy i base
      match s.page? i base with
      | some g => s.setPage i base { g with dirty := true }
      | none => s
    else s

/-- The answer of an access: done, waiting for a restore, or failed with a status at an address. -/
inductive Acc (α : Type) where
  | ok (a : α) (s : State)
  | wait (s : State)
  | fail (status addr : Nat) (s : State)

/-- The pieces of an access that lie in one 64 KiB page each. -/
def devPieces : Nat → Nat → Nat → List (Nat × Nat)
  | 0, _, _ => []
  | fuel + 1, va, n =>
    if n = 0 then []
    else
      let k := min n (kib64 - va % kib64)
      (va, k) :: devPieces fuel (va + k) (n - k)

def piecesOf (va n : Nat) : List (Nat × Nat) := devPieces (n / kib64 + 2) va n

/-- Logs an owner-tag refusal: the frame, or the T1 unit by its port and address, with the attribute and the tag (R225,
R484). -/
def State.logDenied (s : State) (i addr : Nat) : State :=
  let g := (s.page? i (s.pageBase i addr)).getD {}
  let at_ := g.loc + (addr - s.pageBase i addr)
  if g.state == .t1 then
    let tag := ((Tab.find s.pager.t1Tags (at_ / kib64)).map (·.tag)).getD 0
    s.logFh { kind := 0x0601, status := 0x5002, outcome := 6, mech := 11, inst := i, resType := 4, resIdx := at_ / 2 ^ 63,
              addr := at_, data := leBytes 8 i ++ leBytes 8 tag }
  else
    let tag := ((s.frame? (at_ / mib2)).map (·.tag)).getD 0
    s.logFh { kind := 0x0601, status := 0x5002, outcome := 6, mech := 11, inst := i, resType := 3, resIdx := at_ / mib2,
              addr := addr, data := leBytes 8 i ++ leBytes 8 tag }

/-- Checks every piece of an access: the first faulting piece fails it; else pages not in place are waited for; else
the pages are touched (R215, R234). -/
def State.devCheck (s : State) (w : Waiter) (i va n : Nat) (write : Bool) : Acc Unit :=
  match s.pager.noRoom.find? (fun p => p.1 == w) with
  | some (_, st) =>
    .fail st va (s.updPager (fun p => { p with noRoom := p.noRoom.filter (fun q => q.1 != w) }))
  | none =>
    let ps := piecesOf va n
    match ps.find? (fun p => match s.xlate i p.1 write with
        | .fault _ => true
        | _ => false) with
    | some p =>
      match s.xlate i p.1 write with
      | .fault st => .fail st p.1 (if st = 0x5002 then s.logDenied i p.1 else s)
      | _ => .ok () s
    | none =>
      let waits := ps.filter (fun p => decide (s.xlate i p.1 write = .wait))
      let holds := ps.filter (fun p => decide (s.xlate i p.1 write = .hold))
      if waits = [] ∧ holds = [] then .ok () (ps.foldl (fun s p => s.touchPage i p.1 write) s)
      else .wait (holds.foldl (fun s p => s.addWaiter w i (s.pageBase i p.1)) (waits.foldl (fun s p => s.needPage w i p.1) s))

/-- The bytes of a 64-byte data unit of an IN_PLACE page. -/
def State.readLowUnit (s : State) (i tier unit off va : Nat) : Bytes :=
  let (k1, k2) := s.xtsKeys i
  let (sp, a) := s.tierPlace i tier unit
  xtsDec k1 k2 (inPlaceTweak va) (s.rd sp (a + off) 64)

/-- Reads `n` bytes of an IN_PLACE page where they lie. -/
def State.readLow (s : State) (i tier unit off va n : Nat) : Bytes :=
  let k0 := off % 64
  let units := (List.range ((k0 + n + 63) / 64)).map (fun k =>
    s.readLowUnit i tier unit (off / 64 * 64 + 64 * k) (va / 64 * 64 + 64 * k))
  (units.flatten.drop k0).take n

/-- Writes bytes of an IN_PLACE page where they lie, data unit by data unit: one written in part is decrypted, changed and
encrypted again, or stays poisoned when it cannot be read (R232, R260, R272). -/
def State.writeLow (s : State) (i tier unit off va : Nat) (b : Bytes) : State :=
  let (k1, k2) := s.xtsKeys i
  let (sp, a) := s.tierPlace i tier unit
  let o0 := off / 64 * 64
  (List.range ((off % 64 + b.length + 63) / 64)).foldl (fun s k =>
    let o := o0 + 64 * k
    let v := va / 64 * 64 + 64 * k
    let lo := max off o
    let new := (b.drop (lo - off)).take (o + 64 - lo)
    let put := fun (s : State) (d : Bytes) => s.overwrite sp (a + o) (xtsEnc k1 k2 (inPlaceTweak v) d)
    if new.length = 64 then put s new
    else
      let s := if tier = 1 then s.meetLines (a + o) 64 i else s
      if s.storedBad i tier (a + o) 64 then (s.dropUpset sp (a + o)).addPoison sp (a + o) 64
      else
        let old := s.readLowUnit i tier unit o v
        put s (old.take (lo - o) ++ new ++ old.drop (lo - o + new.length))) s

/-- A write of part of T0: a burst written in part is read first, and one that cannot be corrected takes the poison pattern; a
burst whose command fails is not written (R252, R260, R261). -/
def State.wrHbm (s : State) (dpa inst : Nat) (b : Bytes) : State :=
  let bad := s.upsetsIn .hbm dpa b.length
  let whole := fun a => decide (dpa ≤ a) && decide (a + 64 ≤ dpa + b.length)
  let refused := (bad.filter (fun p => p.2 == .commandError)).map (·.1)
  let (failed, s) := s.meetBursts inst (bad.filter (fun p => p.2 == .commandError || !whole p.1))
  let s := (failed.filter (fun a => !refused.contains a)).foldl (fun s a => (s.dropUpset .hbm a).addPoison .hbm a 64) s
  let s := s.touchRows (dpa / 64 * 64) ((dpa + b.length + 63) / 64 - dpa / 64)
  (granPieces 64 (b.length + 1) dpa b).foldl (fun s p =>
    if refused.contains (p.1 / 64 * 64) then s else (s.dropUpsets .hbm p.1 p.2.length).wrPiece .hbm p.1 p.2) s

/-- Reads one checked piece. -/
def State.readPiece (s : State) (i va n : Nat) : Acc Bytes :=
  match s.xlate i va false with
  | .direct a =>
    match s.hostRead i a n with
    | .ok b => .ok b s
    | .error st => .fail st va s
  | .t0 dpa _ =>
    let s := s.hbmInjected dpa n i
    let (failed, s) := s.meetBursts i (s.upsetsIn .hbm dpa n)
    if failed != [] || s.poisoned .hbm dpa n then .fail 0x3001 va s.retireFrames
    else let (b, s) := s.rdHbm dpa n; .ok b s.retireFrames
  | .low tier unit off =>
    let a := (s.tierPlace i tier unit).2
    if tier = 2 ∧ (s.hostErr i (a + off) n).isSome then
      .fail (((s.hostErr i (a + off) n).map hostErrStatus).getD 0x1006) va s
    else if s.storedBad i tier (a + off) n then .fail 0x3001 va (if tier = 1 then s.meetLines (a + off) n i else s)
    else .ok (s.readLow i tier unit off va n) s
  | .wait => .wait s
  | .hold => .wait s
  | .fault st => .fail st va s

/-- Reads the pieces of an access in order. -/
def State.readPieces (s : State) (i : Nat) : List (Nat × Nat) → Bytes → Acc Bytes
  | [], acc => .ok acc s
  | (va, n) :: r, acc =>
    match s.readPiece i va n with
    | .ok b s => State.readPieces s i r (acc ++ b)
    | .wait s => .wait s
    | .fail st a s => .fail st a s

/-- A read of the device address space of an instance. -/
def State.devRead (s : State) (w : Waiter) (i va n : Nat) : Acc Bytes :=
  match s.devCheck w i va n false with
  | .ok _ s => s.readPieces i (piecesOf va n) []
  | .wait s => .wait s
  | .fail st a s => .fail st a s

/-- Writes one checked piece. -/
def State.writePiece (s : State) (i va : Nat) (b : Bytes) : State :=
  match s.xlate i va false with
  | .direct a => s.hostWrite i a b
  | .t0 dpa _ => ((s.hbmInjected dpa b.length i).wrHbm dpa i b).retireFrames
  | .low tier unit off => s.writeLow i tier unit off va b
  | _ => s

/-- Writes the pieces of an access. -/
def State.writePieces (s : State) (i : Nat) : List (Nat × Nat) → Bytes → State
  | [], _ => s
  | (va, n) :: r, b => State.writePieces (s.writePiece i va (b.take n)) i r (b.drop n)

/-- A write to the device address space of an instance. -/
def State.devWrite (s : State) (w : Waiter) (i va : Nat) (b : Bytes) : Acc Unit :=
  match s.devCheck w i va b.length true with
  | .ok _ s => .ok () (s.writePieces i (piecesOf va b.length) b)
  | .wait s => .wait s
  | .fail st a s => .fail st a s

/-- Reads the data buffer of a command: host memory, or device memory with DEV_ADDR (R325, R522). -/
def State.bufRead (s : State) (c : Cmd) (a n : Nat) : Acc Bytes :=
  if c.devAddr then s.devRead (.cmd c.no) c.inst a n
  else match s.hostRead c.inst a n with
    | .ok b => .ok b s
    | .error st => .fail st a s

/-- Writes the data buffer of a command. -/
def State.bufWrite (s : State) (c : Cmd) (a : Nat) (b : Bytes) : Acc Unit :=
  if c.devAddr then s.devWrite (.cmd c.no) c.inst a b
  else .ok () (s.hostWrite c.inst a b)

-- ---------------------------------------------------------------- placing a page in T0 (R227)

/-- A slot for a 64 KiB page in a frame that the instance already holds for such pages. -/
def State.smallSlot (s : State) (i use : Nat) (want : Option Nat) : Option Nat :=
  let ok := s.pager.frames.filter (fun p =>
    p.2.alloc && p.2.inst == i && p.2.use == use
    && (match want with
        | some c => s.hbm.order != 2 || p.1 / 1024 == c
        | none => true)
    && (let ps := s.pagesIn p.1
        ps != [] && ps.all (fun q => !q.2.big) && decide (ps.length < 32)))
  (ok.head?).bind (fun p =>
    ((List.range 32).find? (fun k => !(s.pagesIn p.1).any (fun q => q.2.loc == p.1 * mib2 + k * kib64))).map
      (fun k => p.1 * mib2 + k * kib64))

/-- A slot for a page that needs no frame of its own, if there is one. -/
def State.slotFor (s : State) (i : Nat) (g : Page) : Option Nat :=
  if g.big then none else s.smallSlot i g.use (if g.segment then some g.channel else none)

/-- A place in T0 for a page: its device physical address; `none` while the quota has no frame free. A page placed
outside its channel is counted (R227). -/
def State.placeT0 (s : State) (w : Waiter) (i : Nat) (g : Page) : Option (Nat × State) :=
  let want := if g.segment && s.hbm.order == 2 then some g.channel else none
  match s.slotFor i g with
  | some a => some (a, s)
  | none =>
    match s.pickUnit want (s.dieOf w) with
    | none => none
    | some u =>
      match s.takeFrame i u g.use 0 with
      | none => none
      | some (f, s) =>
        let s := match want with
          | some c => if u = c then s else s.count (0x301038 + 0x40 * i) 1
          | none => s
        some (f * mib2, s)

/-- Is a page's Press work outstanding? -/
def State.pressBusy (s : State) (key : Nat) : Bool :=
  s.press.waiting.any (fun j => j.page == some key) || s.press.units.any (fun u => u.2.page == some key)

-- ---------------------------------------------------------------- who gets the next frame (R230)

/-- Frames that a demand needs: one for a page without a slot, none for the first touch of an IN_PLACE page, or those that a
stage or a folio image lacks. -/
def State.framesFor (s : State) (r : Restore) : Nat :=
  if 2 ^ 48 ≤ r.va then r.va - 2 ^ 48 + 1
  else match s.page? r.inst r.va with
    | some g => if g.inPlace && g.origin == .zero || (s.slotFor r.inst g).isSome then 0 else 1
    | none => 0

/-- Frames that the demands of an instance ahead of one need: they are served in the order in which the requesters began to
wait (R230). -/
def State.framesAhead (s : State) (i : Nat) (p : Restore → Bool) : Nat :=
  (((s.pager.restores.takeWhile (fun r => !p r)).filter (fun r => r.inst == i)).map s.framesFor).foldl (· + ·) 0

/-- A requester waits for `n` frames that it lacks (R43, R220, R230); it keeps its place while it waits. -/
def State.wantFrames (s : State) (w : Waiter) (i n : Nat) : State :=
  let r : Restore := { inst := i, va := 2 ^ 48 + n - 1, who := some w }
  (s.addWaiter w i (2 ^ 48)).updPager (fun p => { p with
    restores := if p.restores.any (fun x => x.who == some w) then updWhere p.restores (fun x => x.who == some w) (fun _ => r)
      else p.restores ++ [r] })

/-- May a requester take `n` frames now: are they free beyond what earlier demands need (R230)? -/
def State.mayTake (s : State) (w : Waiter) (i n : Nat) : Bool :=
  decide (n + s.framesAhead i (fun r => r.who == some w) ≤ s.quotaFree i)

/-- The first demand of an instance that its free quota does not serve (R228, R231). -/
def State.firstShort (s : State) (i : Nat) : Option Restore :=
  s.pager.restores.find? (fun r => r.inst == i && decide (0 < s.framesFor r)
    && decide (s.quotaFree i < s.framesAhead i (fun x => x == r) + s.framesFor r))

/-- The end of a restore: every requester that waited goes on at its next attempt (R234). -/
def State.endRestore (s : State) (i va : Nat) : State :=
  s.updPager (fun p => { p with
    restores := p.restores.filter (fun r => !(r.inst == i && r.va == va))
    waiters := p.waiters.filter (fun x => !(x.2.1 == i && x.2.2 == va)) })

/-- Every requester that waits for a page fails at its next attempt. -/
def State.refuse (s : State) (i va st : Nat) : State :=
  s.updPager (fun p => { p with
    noRoom := p.noRoom ++ ((p.waiters.filter (fun x => x.2.1 == i && x.2.2 == va)).map (fun x => (x.1, st))) })

/-- The first touch of an IN_PLACE page: it never enters T0, its units are taken in the home tier and hold zeros (R216, R226).
Without an XTS pair, and while its units are being zeroed or its port retrains, it waits (R233, R273, R382). -/
def State.firstInPlace (s : State) (i va : Nat) (g : Page) : State :=
  if !Tab.has s.xts i then s
  else
    let tier := ((s.range? i va).map (·.home)).getD 1
    let n := g.size / kib64
    match s.takeUnitsFreeing i g.use tier n s.pager.pages.length with
    | .full => ((s.refuse i va 0x2002).endRestore i va).setPage i va { g with state := .zero }
    | .soon s => s
    | .got u s' =>
      if tier = 1 ∧ s'.t1Waits u then s
      else
        let s := s'.setPage i va { g with state := if tier = 1 then .t1 else .t2, loc := u * kib64, unitsM1 := n - 1 }
        ((s.writeLow i tier u 0 va (zeros g.size)).endRestore i va).count (0x301028 + 0x40 * i) 1

/-- The end of a restore from ZERO, T1 or T2: read, decrypt, check, decompress and switch (R234, R236). The frame it takes is
a zeroed one (R226). -/
def State.restorePage (s : State) (i va : Nat) (bad : List Nat) : State :=
  match s.page? i va with
  | none => s
  | some g =>
    let tier := if g.origin == .t1 then 1 else 2
    if g.state ≠ .movingIn ∨ s.pressBusy (pageKey i va) ∨ (g.origin = .t1 ∧ s.t1Waits (g.loc / kib64)) then s
    else if g.inPlace && g.origin == .zero then s.firstInPlace i va g
    else if (s.slotFor i g).isNone ∧ s.quotaFree i ≤ s.framesAhead i (fun r => r.inst == i && r.va == va) then s
    else
      let w := ((s.pager.waiters.find? (fun x => x.2.1 == i && x.2.2 == va)).map (·.1)).getD .window
      match s.placeT0 w i g with
      | none => s
      | some (dpa, s) =>
        let f := dpa / mib2
        let s := s.updFrame f (fun d => { d with accessed := true })
        let chan := if s.hbm.order = 2 then f / 1024 else (mapDpa s.hbm.order dpa).dev
        let g' := { g with state := .t0, loc := dpa, dirty := false, channel := if g.segment then g.channel else chan }
        let s :=
          if g.origin == .zero then (s.wipe .hbm dpa g.size).setPage i va g'
          else
            let (blocks, s) := s.storedBlocks i va g tier (g.loc / kib64)
            let s := if tier = 1 then bad.foldl (fun s k => s.expanderError (g.loc + k * kib64) i true) s else s
            let s := s.putBlocks i va dpa tier blocks bad
            (s.updPager (fun p => { p with seq := p.seq + 1 })).setPage i va
              { g' with copy := true, copyTier := tier, copyUnit := g.loc / kib64, restored := s.pager.seq }
        (s.endRestore i va).count (0x301028 + 0x40 * i) 1

-- ---------------------------------------------------------------- the sweep and evictions (R229–R231)

/-- The frames of an instance in the order it took them. -/
def State.framesOf (s : State) (i : Nat) : List (Nat × FrameDesc) :=
  sortBy (fun a b => decide (a.2.seq ≤ b.2.seq))
    (s.pager.frames.filter (fun p => p.2.alloc && p.2.inst == i && p.2.use != 4 && p.2.use != 5))

/-- The frame under the hand: the first taken after the one the hand passed last, else the first. -/
def State.underHand (s : State) (i : Nat) : Option (Nat × FrameDesc) :=
  let fs := s.framesOf i
  let h := Tab.get s.pager.hand i 0
  match fs.find? (fun p => decide (h < p.2.seq + 1)) with
  | some p => some p
  | none => fs.head?

/-- The sweep of R229: frames pinned or of an exempt use are passed, accessed ones lose their bit, the first other is
the victim. -/
def State.sweepVictim (s : State) (i : Nat) : Nat → Option Nat × State
  | 0 => (none, s)
  | n + 1 =>
    match s.underHand i with
    | none => (none, s)
    | some (f, d) =>
      let s := s.updPager (fun p => { p with hand := Tab.set p.hand i (d.seq + 1) })
      if 0 < d.pins ∨ d.use = 2 ∨ d.use = 3 ∨ d.use = 6 then State.sweepVictim s i n
      else if d.accessed then State.sweepVictim (s.updFrame f (fun d => { d with accessed := false })) i n
      else (some f, s)

/-- How the start of an eviction goes: it runs; it waits for T1 units that are being zeroed; no tier has room. -/
inductive Evict where
  | going (s : State)
  | soon (s : State)
  | full

/-- Is part of a page in T0 poisoned, or bad and not corrected? -/
def State.pageBad (s : State) (g : Page) : Bool :=
  s.poisoned .hbm g.loc g.size || (s.upsetsIn .hbm g.loc g.size).any (fun p => p.2 != .corrected)

/-- Starts the eviction of one page: it is read, and its tier and units are chosen (R231, R233). A page with poison is stored
raw, so that its poison keeps its place (log 89). -/
def State.startEvict (s : State) (i va : Nat) (g : Page) : Evict :=
  let go := fun (s : State) (g : Page) (tier unit n : Nat) =>
    (s.pin (g.loc / mib2)).setPage i va { g with state := .movingOut, toTier := tier, toUnit := unit, toUnits := n }
  if s.compressing i && !g.inPlace && !g.copy && decide (32 ≤ s.col.retPress.length) then .full
  else if g.copy then .going (go s g g.copyTier g.copyUnit (g.unitsM1 + 1))
  else
    let (failed, s) := (s.passRows g.loc g.size).meetBursts i (s.upsetsIn .hbm g.loc g.size)
    let s := (failed.filter (fun a => !Tab.has s.upsets (Space.hbm.base + a))).foldl (fun s a => s.addPoison .hbm a 64) s
    let d := s.rd .hbm g.loc g.size
    if d.all (· == 0) && !s.pageBad g then .going (go s g 0 0 0)
    else
      let (img, comp) := if s.pageBad g then (d, false) else s.imageOf i g d
      let n := img.length / kib64
      match s.takeUnitsIn i g.use 1 n with
      | (tier, .got u s) =>
        let s := go s { g with compressed := comp } tier u n
        .going (if comp then s.pageJobs i va g else s)
      | (_, .soon s) => .soon s
      | (_, .full) => .full

/-- Starts the eviction of every page of a frame; when one of them has no room the whole frame stays (log 16). -/
def State.startEvicts (s : State) : List (Nat × Page) → Evict
  | [] => .going s
  | (k, g) :: r =>
    if g.state == .movingOut then State.startEvicts s r
    else match s.startEvict (k / 2 ^ 48) (k % 2 ^ 48) g with
      | .going s => State.startEvicts s r
      | e => e

/-- The requester that needed the frame fails with 0x2002 (R231), or with 0x4002 when no Press unit is left to compress the
victim (R474): those that wait for one page fail together. -/
def State.failForRoom (s : State) (i : Nat) : State :=
  let st := if s.compressing i && decide (32 ≤ s.col.retPress.length) then 0x4002 else 0x2002
  match s.firstShort i with
  | none => s
  | some r =>
    match r.who with
    | some w => (s.forget w).updPager (fun p => { p with noRoom := p.noRoom ++ [(w, st)] })
    | none =>
      let s := match s.page? i r.va with
        | some g => s.setPage i r.va { g with state := g.origin }
        | none => s
      (s.refuse i r.va st).endRestore i r.va

/-- The image of an evicted page is stored: ciphertext, with the page's poison at its place in a raw image (R231, R232). -/
def State.storeImage (s : State) (i va : Nat) (g : Page) : State :=
  let (img, _) := if g.compressed then s.imageOf i { g with state := .t0 } (s.rd .hbm g.loc g.size) else (s.rd .hbm g.loc g.size, false)
  let (k1, k2) := s.xtsKeys i
  let (sp, a) := s.tierPlace i g.toTier g.toUnit
  let bad := ((s.poison.filter (fun k => decide (Space.hbm.base + g.loc ≤ k) && decide (k < Space.hbm.base + g.loc + g.size))).map
      (fun k => k - Space.hbm.base - g.loc))
    ++ ((s.upsetsIn .hbm g.loc g.size).filter (fun p => p.2 != .corrected)).map (fun p => p.1 - g.loc)
  bad.foldl (fun s o => s.addPoison sp (a + o) 64) ((s.overwrite sp a (sealImage k1 k2 va img)).count 0xD00010 img.length)

/-- The switch point of an eviction: the image is stored, the entry takes its tier, and a frame without further pages
goes to be zeroed (R231 steps 3–6). Without an XTS pair, or while its port retrains, the eviction waits (R273, R382); it is
abandoned when its port is gone, or when a burst has gone bad under a compressed image (log 89). -/
def State.finishEvict (s : State) (i va : Nat) : State :=
  match s.page? i va with
  | none => s
  | some g =>
    if g.state ≠ .movingOut ∨ s.pressBusy (pageKey i va) ∨ (g.toTier ≠ 0 ∧ !g.copy ∧ !Tab.has s.xts i)
        ∨ (g.toTier = 1 ∧ s.t1Waits g.toUnit) then s
    else if g.toTier = 1 ∧ s.t1Lost g.toUnit then (s.abandonEvict i va g).dropCopy i va
    else if g.toTier ≠ 0 ∧ !g.copy ∧ g.compressed ∧ s.pageBad g then s.abandonEvict i va g
    else
      let f := g.loc / mib2
      let s :=
        if g.toTier = 0 then s.setPage i va { g with state := .zero, loc := 0, compressed := false, dirty := false }
        else
          (if g.copy then s else s.storeImage i va g).setPage i va
            { g with state := if g.toTier = 1 then .t1 else .t2, loc := g.toUnit * kib64, unitsM1 := g.toUnits - 1,
                     copy := false, copyTier := 0, toTier := 0, toUnits := 0, dirty := false }
      let s := (s.unpin f).count (0x301020 + 0x40 * i) 1
      if s.pagesIn f = [] then s.releaseFrame f else s

-- ---------------------------------------------------------------- removing ranges (R218, R248)

/-- Frees what one page holds: its frame once no page is left in it, its units, its copy. -/
def State.dropPage (s : State) (i va : Nat) : State :=
  match s.page? i va with
  | none => s
  | some g =>
    let s := s.dropCopy i va
    let s := if g.state == .movingOut && g.toTier != 0 && !g.copy then s.freeUnits i g.toTier g.toUnit g.toUnits else s
    let from_ := if g.state == .movingIn then g.origin else g.state
    let s := if from_ == .t1 then s.freeUnits i 1 (g.loc / kib64) (g.unitsM1 + 1)
      else if from_ == .t2 then s.freeUnits i 2 (g.loc / kib64) (g.unitsM1 + 1) else s
    let s := s.updPager (fun p => { p with pages := Tab.del p.pages (pageKey i va) })
    let s := { s with press := { s.press with
                waiting := s.press.waiting.filter (fun j => j.page != some (pageKey i va)) } }
    let s := s.endRestore i va
    if (g.state == .t0 || g.state == .movingOut) && s.pagesIn (g.loc / mib2) == [] then
      s.releaseFrame (g.loc / mib2)
    else s

/-- The pages of an instance within a span. -/
def State.pagesOf (s : State) (i base len : Nat) : List Nat :=
  (s.pager.pages.filter (fun p => decide (p.1 / 2 ^ 48 = i) && decide (base ≤ p.1 % 2 ^ 48)
    && decide (p.1 % 2 ^ 48 < base + len))).map (fun p => p.1 % 2 ^ 48)

/-- Removes a range with everything it holds. -/
def State.removeRange (s : State) (r : Range) : State :=
  let s := (s.pagesOf r.inst r.base r.len).foldl (fun s va => s.dropPage r.inst va) s
  s.updPager (fun p => { p with ranges := p.ranges.filter (fun q => !(q.inst == r.inst && q.base == r.base)) })

/-- Removes every range of an instance and every frame it holds, without waiting (R248). -/
def State.removeRanges (s : State) (i : Nat) : State :=
  let s := (s.pager.ranges.filter (fun r => r.inst == i)).foldl (fun s r => s.removeRange r) s
  let fs := (s.pager.frames.filter (fun p => p.2.inst == i && p.2.alloc && p.2.use != 4 && p.2.use != 5
    && p.2.use != 3 && !p.2.logBuf)).map (·.1)
  let s := fs.foldl (fun s f => s.releaseFrame f) s
  s.updPager (fun p => { p with
    waiters := p.waiters.filter (fun x => x.2.1 != i), restores := p.restores.filter (fun r => r.inst != i)
    hand := Tab.del p.hand i
    t2Used := p.t2Used.filter (fun t => t.2 != i) })

-- ---------------------------------------------------------------- page tables (R221, R223)

/-- How many different numbers a list of intervals (first, last), sorted by first, covers above `top`. -/
def coverCount : List (Nat × Nat) → Nat → Nat
  | [], _ => 0
  | (lo, hi) :: r, top =>
    let lo' := max lo top
    (hi + 1 - lo') + coverCount r (max top (hi + 1))

/-- The table bytes that the ranges of an instance need: level 1, and one table for each region of 2^39, 2^30 and,
with 64 KiB pages, 2^21 bytes they touch (R221). -/
def tableBytes (rs : List Range) : Nat :=
  if rs = [] then 0
  else
    let iv := fun k (l : List Range) =>
      coverCount (sortBy (fun a b => decide (a.1 ≤ b.1)) (l.map (fun r => (r.base / 2 ^ k, (r.base + r.len - 1) / 2 ^ k)))) 0
    8192 + 8192 * iv 39 rs + 8192 * iv 30 rs + 512 * iv 21 (rs.filter (fun r => !r.big))

/-- The table bytes of every instance. -/
def allTableBytes (rs : List Range) : Nat :=
  ((dedup (rs.map (·.inst))).map (fun i => tableBytes (rs.filter (fun r => r.inst == i)))).foldl (· + ·) 0

/-- Word 0 of a page's table entry (R222). -/
def entryWord0 (r : Range) (g : Page) : Nat :=
  let st := match g.state with
    | .zero => 0
    | .t0 => 1
    | .t1 => 2
    | .t2 => 3
    | .movingOut => 4
    | .movingIn => 5
  2 ^ 63 + (if r.direct then 3 else if r.big then 1 else 2) * 2 ^ 61 + (if r.direct then 0 else st) * 2 ^ 58
    + 2 ^ 57 + b2n r.write * 2 ^ 56 + b2n r.inPlace * 2 ^ 55 + b2n g.compressed * 2 ^ 54 + b2n g.dirty * 2 ^ 53
    + b2n g.copy * 2 ^ 52 + b2n g.segment * 2 ^ 51 + (if g.copy then (g.copyTier + 1) * 2 ^ 49 else 0)
    + g.channel * 2 ^ 40 + g.unitsM1 * 2 ^ 34 + (if g.copy then g.copyUnit % 2 ^ 34 else 0)

/-- The descriptor of a frame as PGR_OWNER_DATA shows it (R221, R224). -/
def State.ownerData (s : State) (f : Nat) : Nat :=
  if s.col.retFrames.contains f then 5 * 16
  else if s.inRegion f then 2 ^ 15 + 3 * 16
  else match s.frame? f with
    | none => 0
    | some d => d.pins % 2 ^ 16 * 2 ^ 32 + b2n d.accessed * 2 ^ 31 + d.tag

end Sys2Proof.Machine
end

