-- ==== Sys2Proof/Machine/Queues.lean ====
section
/-! DEFINITION. Submission and completion queues: admin queue set-up, doorbells, push windows, arbitration and
fetching, chains, Flush and interrupt coalescing (R316–R333). -/
namespace Sys2Proof.Machine

-- ---------------------------------------------------------------- admin queues (R316)

/-- INST_CTRL.EN of a function. -/
def State.enBit (s : State) (i : Nat) : Bool := bitAt (s.winReg i 8) 0

/-- The lowest number of a device pool of 4,096 that is not in use (R317; log 87). -/
def freeNo (used : List Nat) : Nat := ((List.range 4096).find? (fun n => !used.contains n)).getD 0

/-- The pool number that the next SQ, or CQ, takes. -/
def State.freeSqNo (s : State) : Nat := freeNo ((s.insts.map (fun p => p.2.sqs.map (fun q => q.2.pool))).flatten)
def State.freeCqNo (s : State) : Nat := freeNo ((s.insts.map (fun p => p.2.cqs.map (fun q => q.2.pool))).flatten)

/-- Creates admin queue pair 0 from INST_AQA, INST_ASQ and INST_ACQ and sets RDY; a depth outside 2–4,096 leaves RDY
at 0 (R315, R316; log 17). -/
def State.openAdmin (s : State) (i : Nat) : State :=
  let aqa := s.winReg i 0x18
  let sd := bits aqa 11 0
  let cd := bits aqa 27 16
  if sd = 0 ∨ cd = 0 then s
  else s.updInst i (fun x => { x with
    rdy := true
    disabling := false
    sqs := Tab.set x.sqs 0 { pool := s.freeSqNo, depth := sd + 1, base := s.winReg i 0x20, cq := 0 }
    cqs := Tab.set x.cqs 0 { pool := s.freeCqNo, depth := cd + 1, base := s.winReg i 0x28, iv := 0, ien := true } })

/-- A write that sets EN: held on PF 0 during Cold Start, ignored for a function without an instance (R313, R316,
R453). -/
def execEnableAdminQueues (i : Nat) (s : State) : Host.Outcome State Fault Refusal :=
  if !s.running || s.dev.factory then ok s
  else if s.dev.cold then
    if i = 0 then ok { s with dev := { s.dev with heldEn := true } } else ok s
  else match s.inst? i with
    | none => ok s
    | some _ => if s.enBit i then ok s else ok ((s.setWinReg i 8 1).openAdmin i)

/-- A write of EN = 0: ignored while an I/O queue exists; else admin fetching stops and RDY clears once the fetched
admin commands have completed and their completions are posted (R316, R332). -/
def execDisableAdminQueues (i : Nat) (s : State) : Host.Outcome State Fault Refusal :=
  if !s.serving then ok s
  else match s.inst? i with
    | none => ok s
    | some x =>
      if x.sqs.any (fun q => q.1 != 0) || x.cqs.any (fun q => q.1 != 0) then ok s
      else ok (((s.setWinReg i 8 0).updInst i (fun x => { x with disabling := x.rdy })).settleQueues i)

-- ---------------------------------------------------------------- doorbells (R319, R320, R324)

/-- Free slots of an SQ (R318, R319). -/
def Sq.free (q : Sq) : Nat := (q.head + 2 * q.depth - q.tail - 1) % q.depth

/-- The 64 bytes of push-window slot `j`, if all were written (R324). -/
def Sq.winSlot (q : Sq) (j : Nat) : Option Bytes :=
  if (List.range 64).all (fun k => Tab.has q.win (64 * j + k)) then
    some ((List.range 64).map (fun k => Tab.get q.win (64 * j + k) 0))
  else none

/-- The entries taken from the window at a doorbell that adds `n` entries to an empty queue (R324). -/
def Sq.takeWin (q : Sq) (n : Nat) : List (Nat × Bytes) :=
  (List.range (min n 4)).filterMap (fun j => (q.winSlot j).map (fun b => ((q.tail + j) % q.depth, b)))

/-- A tail doorbell of an existing queue: the new tail, or the old one with an INVALID_DOORBELL (R319, R324). -/
def State.tailDoorbell (s : State) (i k v : Nat) : State :=
  match s.inst? i with
  | none => s
  | some _ =>
    match s.sq? i k with
    | none => s.raise i 1 0 5 k
    | some q =>
      let clear := fun (s : State) => s.updSq i k (fun q => { q with win := [] })
      let new := v % 2 ^ 16
      let n := (new + q.depth - q.tail) % q.depth
      if v / 2 ^ 16 ≠ 0 ∨ q.depth ≤ new ∨ q.free < n ∨ q.deleting then (clear s).raise i 1 0 5 k
      else
        let taken := if q.head = q.tail then q.takeWin n else []
        s.updSq i k (fun q => { q with tail := new, win := [], fromWin := q.fromWin ++ taken })

/-- Host software stores its entries and rings an SQ tail doorbell (R319); doorbells are discarded before SERVICE
(R453). -/
def execSqTailDoorbell (i k : Nat) (value : Word) (stores : HostStores) (s : State) : Host.Outcome State Fault Refusal :=
  let s := s.hostStore i stores
  if s.serving then ok (s.tailDoorbell i k value.toNat) else ok s

/-- A head doorbell: slots are freed and held completions move in, or an INVALID_DOORBELL (R320, R332). -/
def State.headDoorbell (s : State) (i k v : Nat) : State :=
  match s.inst? i with
  | none => s
  | some x =>
    match s.cq? i k with
    | none => s.raise i 1 1 5 k
    | some q =>
      let new := v % 2 ^ 16
      let n := (new + q.depth - q.head) % q.depth
      let posted := (q.tail + q.depth - q.head) % q.depth
      if v / 2 ^ 16 ≠ 0 ∨ q.depth ≤ new ∨ posted < n then s.raise i 1 1 5 k
      else (((s.updCq i k (fun q => { q with head := new })).moveHold i k (x.hold.length)).settleEvents i).endDisable i

def execCqHeadDoorbell (i k : Nat) (value : Word) (s : State) : Host.Outcome State Fault Refusal :=
  if s.serving then ok (s.headDoorbell i k value.toNat) else ok s

/-- Bytes written into a push window (R324, R521). -/
def State.pushWrite (s : State) (i k off : Nat) (data : Bytes) : State :=
  s.updSq i k (fun q => { q with
    win := data.zipIdx.foldl (fun w p => if off + p.2 < 256 then Tab.set w (off + p.2) p.1 else w) q.win })

def execPushWindowWrite (i k off : Nat) (data : Bytes) (s : State) : Host.Outcome State Fault Refusal :=
  if s.serving then ok (s.pushWrite i k off data) else ok s

-- ---------------------------------------------------------------- fetching (R322–R328)

/-- The entry at a ring index: from the window when its slot was taken, else from the ring (R324). -/
def State.ringEntry (s : State) (i : Nat) (q : Sq) (idx : Nat) : Bytes :=
  match Tab.find q.fromWin idx with
  | some b => b
  | none => s.rd (.host i) (q.base + 64 * idx) 64

/-- Opcodes of the admin and I/O command tables (R336, R337). -/
def adminOps : List Nat := [1, 2, 3, 4, 5, 6, 7, 8, 9, 0xA, 0xB, 0x10, 0x11, 0x12, 0x13, 0x14]
def ioOps : List Nat := [0x40, 0x41, 0x42, 0x43, 0x44, 0x45, 0x46, 0x47, 0x48, 0x49, 0x4A, 0x4B]

/-- The status with which a fetched entry is refused before it starts: an unknown opcode, a chain of a command other
than Cipher, or an operation that its command does not have (R325, R336, R337; log 18). -/
def refuseAt (admin : Bool) (op len : Nat) (e : Bytes) : Option Nat :=
  if !(if admin then adminOps else ioOps).contains op then some 0x1001
  else if op = 0x47 ∧ !(len == 2 || len == 3) then some 0x1002
  else if op ≠ 0x47 ∧ len ≠ 1 then some 0x1002
  else if op = 0x49 ∧ 2 < fld e 0x18 1 then some 0x1002
  else if op = 0x4A ∧ (fld e 0x18 1 = 0 ∨ 5 < fld e 0x18 1) then some 0x1002
  else none

/-- Adds a fetched command. -/
def State.addCmd (s : State) (i k : Nat) (es : List Bytes) : State :=
  let e := es.headD []
  { s with cmdNo := s.cmdNo + 1
           cmds := s.cmds ++ [{ no := s.cmdNo, inst := i, sq := k, cid := fld e 2 2, op := fld e 0 1,
                                flags := fld e 1 1, entries := es }] }

/-- Moves an SQ's head on by `n` entries. -/
def State.advance (s : State) (i k n : Nat) : State :=
  s.updSq i k (fun q =>
    { q with head := (q.head + n) % q.depth
             fromWin := q.fromWin.filter (fun p => !(List.range n).any (fun j => (q.head + j) % q.depth == p.1)) })

/-- Takes an entry that fails alone: its own completion at once. -/
def State.failEntry (s : State) (i k : Nat) (e : Bytes) (st : Nat) : State :=
  let n := s.cmdNo
  (s.addCmd i k [e]).finish n st 0 0

/-- Takes a command into the instance's commands, or completes it with the status it is refused with. -/
def State.takeIn (s : State) (i k : Nat) (es : List Bytes) : State :=
  let e := es.headD []
  let n := s.cmdNo
  match refuseAt (k == 0) (fld e 0 1) es.length e with
  | some st => (s.addCmd i k es).finish n st 0 0
  | none => s.addCmd i k es

/-- Fetches up to `n` entries or chains of an SQ (R323, R327, R328). -/
def State.fetchSq (s : State) (i k : Nat) : Nat → State
  | 0 => s
  | n + 1 =>
    match s.sq? i k with
    | none => s
    | some q =>
      if q.head = q.tail ∨ q.deleting then s
      else
        let e := s.ringEntry i q q.head
        match bits (fld e 1 1) 1 0 with
        | 0 => State.fetchSq ((s.advance i k 1).takeIn i k [e]) i k n
        | 1 =>
          let len := fld e 4 2
          if len < 2 ∨ 16 < len ∨ q.depth - 1 < len then
            State.fetchSq ((s.advance i k 1).failEntry i k e 0x1002) i k n
          else if (q.tail + q.depth - q.head) % q.depth < len then s
          else
            let es := (List.range len).map (fun j => s.ringEntry i q ((q.head + j) % q.depth))
            let good := (es.zipIdx).all (fun p =>
              p.2 == 0 || bits (fld p.1 1 1) 1 0 == (if p.2 + 1 = len then 3 else 2))
            let s := s.advance i k len
            if good then State.fetchSq (s.takeIn i k es) i k n
            else State.fetchSq (es.foldl (fun s e => s.failEntry i k e 0x1003) s) i k n
        | _ => State.fetchSq ((s.advance i k 1).failEntry i k e 0x1004) i k n

/-- Does an SQ hold something that can be fetched now: an entry, or a whole chain (R327)? -/
def State.fetchable (s : State) (i : Nat) (q : Sq) : Bool :=
  if q.head = q.tail || q.deleting || s.dmaStopped i then false
  else
    let e := s.ringEntry i q q.head
    let len := fld e 4 2
    !(bits (fld e 1 1) 1 0 == 1 && decide (2 ≤ len) && decide (len ≤ 16) && decide (len ≤ q.depth - 1)
      && decide ((q.tail + q.depth - q.head) % q.depth < len))

/-- Is I/O fetching of an instance running (R203, R370, R372, R459)? -/
def State.ioFetching (s : State) (i : Nat) (x : Inst) : Bool :=
  !x.quiesced && !x.quiescing && !x.removing && !x.resetting && !s.slotWait.contains i

/-- The I/O SQs of a class that can be fetched from. -/
def State.readySqs (s : State) (i : Nat) (x : Inst) (cls : Nat) : List Nat :=
  (x.sqs.filter (fun p => p.1 != 0 && p.2.cls == cls && s.fetchable i p.2)).map (·.1)

/-- The next number after `last` in a rising list, round robin. -/
def nextRound (l : List Nat) (last : Nat) : Option Nat :=
  match l.find? (fun k => decide (last < k)) with
  | some k => some k
  | none => l.head?

/-- The weights of HIGH, MEDIUM and LOW (R341: the fields hold the weight minus one). -/
def State.weights (s : State) (i : Nat) : List Nat :=
  let f := s.feature i 2
  [bits f 15 8 + 1, bits f 23 16 + 1, bits f 31 24 + 1]

/-- The class and SQ of an instance that take the next turn, and the weighted round robin after it (R323): URGENT first, then
the classes by weight, round robin among the SQs of one class. -/
def State.pickSq (s : State) (i : Nat) (x : Inst) : Option (Nat × Nat × List Nat) :=
  match s.readySqs i x 0 with
  | q :: r => (nextRound (q :: r) (Tab.get x.rrSq 0 0)).map (fun k => (0, k, x.credits))
  | [] =>
    let ready := fun c => s.readySqs i x (c + 1)
    let pick := fun (cr : List Nat) => (List.range 3).find? (fun c => decide (0 < cr.getD c 0) && (ready c != []))
    let fin := fun (cr : List Nat) c =>
      (nextRound (ready c) (Tab.get x.rrSq (c + 1) 0)).map (fun k => (c + 1, k, cr.set c (cr.getD c 0 - 1)))
    match pick x.credits with
    | some c => fin x.credits c
    | none =>
      match pick (s.weights i) with
      | some c => fin (s.weights i) c
      | none => none

/-- One arbitration turn of the queue engine: admin SQs of all instances first, then one burst of an I/O SQ (R323). -/
def execFetchEntries (s : State) : Host.Outcome State Fault Refusal :=
  if !s.serving then ok s
  else
    let admins := (s.insts.filter (fun p => p.2.rdy && !p.2.disabling && !p.2.removing && !p.2.resetting
      && (match Tab.find p.2.sqs 0 with
          | some q => s.fetchable p.1 q
          | none => false))).map (·.1)
    match nextRound admins s.rrAdmin with
    | some i => ok ({ s with rrAdmin := i }.fetchSq i 0 1)
    | none =>
      let ios := s.insts.filter (fun p => s.ioFetching p.1 p.2 && (s.pickSq p.1 p.2).isSome)
      match nextRound (ios.map (·.1)) s.rrIo with
      | none => ok s
      | some i =>
        match s.inst? i with
        | none => ok s
        | some x =>
          match s.pickSq i x with
          | none => ok s
          | some (cls, k, cr) =>
            let burst := bits (s.feature i 2) 7 0
            ok ((({ s with rrIo := i }).updInst i (fun x => { x with rrSq := Tab.set x.rrSq cls k, credits := cr })).fetchSq i k burst)

/-- TIME microseconds have passed since the first unsignalled completion: the vector is signalled (R333). -/
def execInterruptCoalesceTimer (i k : Nat) (s : State) : Host.Outcome State Fault Refusal :=
  match s.cq? i k with
  | none => ok s
  | some q =>
    if s.serving && q.ien && decide (0 < q.unsig) then
      ok ((s.updCq i k (fun q => { q with unsig := 0 })).signal i q.iv)
    else ok s

/-- Flush completes once every earlier command of its SQ has completed; their host writes are then visible, since
writes take effect in order here (R331). -/
def execFlush (i sq cid : Nat) (s : State) : Host.Outcome State Fault Refusal :=
  match s.takeCmd i sq cid 0x4B with
  | none => ok s
  | some c => ok (s.finish c.no 0 0 0)

-- ---------------------------------------------------------------- creating and deleting queues (R317, R333–R336)

/-- Every SQ and CQ that exists on the device. -/
def State.sqCount (s : State) : Nat := (s.insts.map (fun p => p.2.sqs.length)).foldl (· + ·) 0
def State.cqCount (s : State) : Nat := (s.insts.map (fun p => p.2.cqs.length)).foldl (· + ·) 0

/-- Is a ring address 4 KiB-aligned (R317)? -/
def aligned (a n : Nat) : Bool := a % n == 0

def execCreateSubmissionQueue (i sq cid : Nat) (s : State) : Host.Outcome State Fault Refusal :=
  match s.takeCmd i sq cid 7, s.inst? i with
  | some c, some x =>
    let q := c.fld 0x18 2
    let dm1 := c.fld 0x1A 2
    let cq := c.fld 0x1C 2
    let cls := c.fld 0x1E 1
    let mode := c.fld 0x1F 1
    if q = 0 ∨ 1023 < q ∨ Tab.has x.sqs q ∨ !Tab.has x.cqs cq then ok (s.finish c.no 0x1008 0 0)
    else if dm1 = 0 ∨ 3 < cls ∨ 1 < mode ∨ !aligned c.dataAddr 4096 ∨ c.devAddr then ok (s.finish c.no 0x1002 0 0)
    else if cls = 0 ∧ !x.alloc.urgentOk then ok (s.finish c.no 0x5002 0 0)
    else if x.alloc.sqs ≤ x.sqs.length ∨ 4096 ≤ s.sqCount then ok (s.finish c.no 0x2003 0 0)
    else
      let s := s.updInst i (fun x => { x with
        sqs := Tab.set x.sqs q { pool := s.freeSqNo, depth := dm1 + 1, base := c.dataAddr, cq := cq, cls := cls, batch := mode == 1 } })
      ok (s.finish c.no 0 0 0)
  | _, _ => ok s

def execCreateCompletionQueue (i sq cid : Nat) (s : State) : Host.Outcome State Fault Refusal :=
  match s.takeCmd i sq cid 9, s.inst? i with
  | some c, some x =>
    let q := c.fld 0x18 2
    let dm1 := c.fld 0x1A 2
    let iv := c.fld 0x1C 1
    let ien := c.fld 0x1D 1
    if q = 0 ∨ 1023 < q ∨ Tab.has x.cqs q then ok (s.finish c.no 0x1008 0 0)
    else if dm1 = 0 ∨ iv = 0 ∨ 63 < iv ∨ 1 < ien ∨ !aligned c.dataAddr 4096 ∨ c.devAddr then
      ok (s.finish c.no 0x1002 0 0)
    else if x.alloc.cqs ≤ x.cqs.length ∨ 4096 ≤ s.cqCount then ok (s.finish c.no 0x2003 0 0)
    else
      let s := s.updInst i (fun x => { x with
        cqs := Tab.set x.cqs q { pool := s.freeCqNo, depth := dm1 + 1, base := c.dataAddr, iv := iv, ien := ien == 1 } })
      ok (s.finish c.no 0 0 0)
  | _, _ => ok s

/-- The entries of an SQ that a deletion leaves: a chain that it cuts short is fetched as far as it is present and
fails with 0x1004 (R328, R334; log 19). -/
def State.cutChain (s : State) (i k : Nat) : State :=
  match s.sq? i k with
  | none => s
  | some q =>
    let e := s.ringEntry i q q.head
    let n := (q.tail + q.depth - q.head) % q.depth
    let len := fld e 4 2
    if 0 < n ∧ bits (fld e 1 1) 1 0 = 1 ∧ 2 ≤ len ∧ len ≤ 16 ∧ len ≤ q.depth - 1 ∧ n < len then
      let no := s.cmdNo
      ((s.advance i k n).addCmd i k [e]).finish no 0x1004 0 0
    else s

/-- Delete Submission Queue: fetching stops at once; the command completes when the fetched commands have (R334). -/
def execDeleteSubmissionQueue (i sq cid : Nat) (s : State) : Host.Outcome State Fault Refusal :=
  match s.takeCmd i sq cid 8 with
  | none => ok s
  | some c =>
    let q := c.fld 0x18 2
    if q = 0 ∨ 1023 < q ∨ (s.sq? i q).isNone then ok (s.finish c.no 0x1008 0 0)
    else
      let s := s.cutChain i q
      match s.sq? i q with
      | none => ok s
      | some y =>
        let left := (y.tail + y.depth - y.head) % y.depth
        let s := s.updSq i q (fun y => { y with deleting := true })
        let s := s.updCmd c.no (fun c => { c with
          phase := .running
          status := if left = 0 then 0 else 0x6003
          result := if left = 0 then 0 else left * 2 ^ 16 + y.head })
        ok (s.settleQueues i)

def execDeleteCompletionQueue (i sq cid : Nat) (s : State) : Host.Outcome State Fault Refusal :=
  match s.takeCmd i sq cid 0xA, s.inst? i with
  | some c, some x =>
    let q := c.fld 0x18 2
    if q = 0 ∨ 1023 < q ∨ !Tab.has x.cqs q then ok (s.finish c.no 0x1008 0 0)
    else if x.sqs.any (fun p => p.2.cq == q) || x.hold.any (fun h => h.cq == q) then ok (s.finish c.no 0x1002 0 0)
    else ok ((s.updInst i (fun x => { x with cqs := Tab.del x.cqs q })).finish c.no 0 0 0)
  | _, _ => ok s

/-- Asynchronous Event Request: stays outstanding for the next enabled event, or takes a kept one; a fifth fails
(R342). -/
def execAsynchronousEventRequest (i sq cid : Nat) (s : State) : Host.Outcome State Fault Refusal :=
  match s.takeCmd i sq cid 0xB, s.inst? i with
  | some c, some x =>
    if 4 ≤ x.aers.length then ok (s.finish c.no 0x2004 0 0)
    else
      let s := (s.start c.no).updInst i (fun x => { x with aers := x.aers ++ [c.no] })
      ok (s.drainEvents i 8)
  | _, _ => ok s

end Sys2Proof.Machine
end

