-- ==== Sys2Proof/Machine/Resources.lean ====
section
/-! DEFINITION. What of the device is in service: engines and spares (R13), channels, lanes, ports; the pools from
which instances are given their allotments (R361, R374). -/
namespace Sys2Proof.Machine

/-- The physical number of the spare that can stand in for an engine: two for each compute die, one for each pair of
quires (R13; numbers 256 + 2 × die + half, log 20). -/
def spareFor (e : Nat) : Nat := 256 + 2 * (e / 64) + e / 32 % 2

/-- The physical engine that serves under an engine number, if one does (R13, R474). -/
def State.phys (s : State) (e : Nat) : Option Nat :=
  if 256 ≤ e then none
  else match Tab.find s.col.spareOf e with
    | some p => if s.col.retiredEng.contains p then none else some p
    | none => if s.col.retiredEng.contains e then none else some e

/-- Is an engine number in service: it has a working engine and its quire is not mapped out (R13, R151)? -/
def State.engineUp (s : State) (e : Nat) : Bool := (s.phys e).isSome && !s.col.mapQuires.contains (e / 16)

/-- Engines in service. -/
def State.enginesUp (s : State) : Nat := ((List.range 256).filter s.engineUp).length

/-- Is a spare unused: in service and standing in for no engine? -/
def State.spareFree (s : State) (p : Nat) : Bool :=
  !s.col.retiredEng.contains p && !s.col.spareOf.any (fun x => x.2 == p)

def State.sparesFree (s : State) : Nat := ((List.range 8).filter (fun k => s.spareFree (256 + k))).length

/-- HBM channels in service, fabric lanes not retired, expansion ports in service. -/
def State.channelsUp (s : State) : Nat := 256 - s.col.mapChans.length
def State.lanesUp (s : State) : Nat := 128 - s.col.retLanes.length
def State.portsUp (s : State) : Nat := (s.ports.filter (fun p => p.2.state == 2)).length

/-- The sum of a field over the allotments of all instances. -/
def State.allotted (s : State) (f : Alloc → Nat) : Nat := (s.insts.map (fun p => f p.2.alloc)).foldl (· + ·) 0

/-- Frames of the T0 pool now (R266). -/
def State.t0Pool (s : State) : Nat := s.hbm.pool - s.hbm.poolCut

/-- The allotment of instance 0 (R359). -/
def managerAlloc : Alloc :=
  { urgentOk := true, minEngines := 0, groups := 8, urgentGroups := 2, sqs := 64, cqs := 64, slotLimit := 16384,
    copy := 4, t0 := 8192, assocs := 256, thumb := List.replicate 16 0, weights := List.replicate 8 16 }

/-- Gives local groups their free device groups, lowest first (R189, R362). -/
def State.addGroups (s : State) (i : Nat) (a : Alloc) : State :=
  let free := (List.range 512).filter (fun g => !Tab.has s.groups g)
  { s with groups := (free.take a.groups).zipIdx.foldl (fun t p =>
      Tab.set t p.1 { inst := i, local_ := p.2, urgent := decide (p.2 < a.urgentGroups),
                      weight := a.weights.getD p.2 1 }) s.groups }

/-- The copy channels that no instance holds and the Slipcase has not taken out of the pool (R379). -/
def State.freeCopies (s : State) : List Nat :=
  (List.range 64).filter (fun c => !Tab.has s.copies c && !bitAt (s.reg 0x110) c)

/-- Gives local copy channels their free device channels, lowest first (R419). -/
def State.addCopies (s : State) (i n : Nat) : State :=
  let free := s.freeCopies
  { s with copies := (free.take n).zipIdx.foldl (fun t p => Tab.set t p.1 { inst := i, local_ := p.2 }) s.copies }

/-- Gives an instance its Thumb banks, every entry invalid (R156, R362). -/
def State.addBanks (s : State) (i : Nat) (masks : List Nat) : State :=
  let give := fun (t : Tab Bank) (p : Nat × Nat) =>
    (List.range 64).foldl (fun t b => if bitAt p.1 b then Tab.set t (p.2 * 64 + b) { owner := i } else t) t
  { s with banks := masks.zipIdx.foldl give s.banks }

/-- Draws an XTS key pair (R232). -/
def State.drawXts (s : State) (i : Nat) : State :=
  let (k, s) := s.freshBytes 64
  { s with xts := Tab.set s.xts i k }

/-- Replaces an instance's XTS pair by one from the Slipcase's reserve; with the reserve empty it has none until the
Slipcase installs one (R232, R382). -/
def State.newXts (s : State) (i : Nat) : State :=
  if s.slc.reserve = 0 then { s with xts := Tab.del s.xts i }
  else { s with slc := { s.slc with reserve := s.slc.reserve - 1 } }.drawXts i

/-- Makes an instance with its allotment, in one step; the Slipcase creates its XTS pair, once it runs (R359, R362). -/
def State.makeInst (s : State) (i : Nat) (a : Alloc) : State :=
  let s := { s with insts := Tab.set s.insts i { alloc := a } }
  let s := ((s.addGroups i a).addCopies i a.copy).addBanks i a.thumb
  if s.slcUp then s.drawXts i else s

/-- A shortfall of guaranteed engines is logged, with the engine retired last (R365). -/
def State.logShortfall (s : State) : State :=
  if s.enginesUp < s.allotted (·.minEngines) then
    s.logFh { kind := 0x0903, outcome := 7, resType := 1, resIdx := (s.col.retiredEng.getLast?).getD 0, data := leBytes 4 s.enginesUp }
  else s

end Sys2Proof.Machine
end

