-- ==== Sys2Proof/Machine/Admin.lean ====
section
/-! DEFINITION. Admin commands of chapters 11 and 13: Identify, Get Log Page, the features, and creating, sharing,
quiescing and resuming instances. -/
namespace Sys2Proof.Machine

/-- Writes a command's output buffer and ends the command: a faulting buffer is an address fault, a buffer whose
pages are not in place is waited for (R234, R337). -/
def State.answer (s : State) (c : Cmd) (data : Bytes) (result : Nat) : State :=
  match s.bufWrite c c.dataAddr data with
  | .ok _ s => s.finish c.no 0 result 0
  | .wait s => s
  | .fail st a s => s.finishAt c.no st 0 0 a

-- ---------------------------------------------------------------- Identify (R339)

def partString : Bytes := padTo (ascii "ULG-E256-B0") 16
/-- The version of a slot's image, 0 for an empty slot. -/
def State.slotVersion (s : State) (k : Nat) : Nat :=
  match s.col.slots[k]? with
  | some x => if x.filled then x.version else 0
  | none => 0

/-- FW_VERSION[0..3]: active image, slot 1, slot 2 and golden. -/
def State.fwVersions (s : State) : Bytes :=
  leBytes 8 (s.slotVersion s.dev.activeSlot) ++ leBytes 8 (s.slotVersion 1) ++ leBytes 8 (s.slotVersion 2)
    ++ leBytes 8 (s.slotVersion 0)

/-- ENGINE_MAP: bit e set when engine number e is in service. -/
def State.engineMap (s : State) : Nat :=
  (List.range 256).foldl (fun m e => if s.engineUp e then m ||| (1 <<< e) else m) 0

def State.identifyDevice (s : State) : Bytes :=
  padTo (leBytes 2 0x1F9C ++ leBytes 2 0x1F9C ++ leBytes 2 0x0256 ++ leBytes 2 0xB0 ++ serialBytes ++ partString
    ++ s.fwVersions ++ leBytes 1 s.dev.activeSlot ++ leBytes 1 s.dev.mode.code ++ leBytes 2 s.enginesUp
    ++ leBytes 2 s.sparesFree ++ leBytes 2 s.channelsUp ++ leBytes 8 s.t0Pool ++ leBytes 8 s.t1Pool
    ++ leBytes 2 4096 ++ leBytes 2 4096 ++ leBytes 1 16 ++ leBytes 1 4 ++ leBytes 2 1024 ++ leBytes 4 65536
    ++ leBytes 2 256 ++ zeros 2 ++ leBytes 4 67108864 ++ leBytes 1 s.lanesUp ++ zeros 11 ++ leBytes 32 s.engineMap) 4096

/-- Identify CNS 1; ASSOCIATIONS has two bytes, so 65,536 shows as 65,535 (log 21). -/
def identifyInst (i : Nat) (a : Alloc) : Bytes :=
  padTo (leBytes 1 i ++ leBytes 1 (b2n a.urgentOk) ++ leBytes 2 a.minEngines ++ leBytes 2 a.groups ++ leBytes 2 a.sqs
    ++ leBytes 2 a.cqs ++ leBytes 2 (min a.assocs 65535) ++ leBytes 4 a.slotLimit ++ leBytes 4 a.t0 ++ leBytes 4 a.t1
    ++ leBytes 4 a.t2 ++ zeros 4
    ++ (List.range 16).map (fun q => BitVec.ofNat 8 (popcount 64 (a.thumb.getD q 0)))
    ++ leBytes 1 a.aperture ++ leBytes 1 64 ++ leBytes 1 a.copy) 4096

def execIdentify (i sq cid : Nat) (s : State) : Host.Outcome State Fault Refusal :=
  match s.takeCmd i sq cid 1 with
  | none => ok s
  | some c =>
    match c.fld 0x18 1 with
    | 0 => ok (s.answer c s.identifyDevice 0)
    | 1 =>
      let j := if i = 0 then c.fld 0x19 1 else i
      match s.inst? j with
      | some x => ok (s.answer c (identifyInst j x.alloc) 0)
      | none => ok (s.finish c.no 0x1002 0 0)
    | _ => ok (s.finish c.no 0x1002 0 0)

-- ---------------------------------------------------------------- log pages (R340, R483, R484, R486)

/-- The 64 bytes of an error record (R483). -/
def ErrRec.bytes (r : ErrRec) : Bytes :=
  leBytes 8 r.seq ++ leBytes 8 r.time ++ leBytes 4 r.boot ++ leBytes 2 r.kind ++ leBytes 2 r.status
    ++ leBytes 1 r.inst ++ leBytes 1 r.flags ++ leBytes 2 r.sq ++ leBytes 2 r.cid ++ leBytes 2 r.channel
    ++ leBytes 8 r.obj ++ leBytes 8 r.tag ++ leBytes 4 r.detail ++ leBytes 4 r.count ++ zeros 8

/-- The 128 bytes of a fault-history record (R484). -/
def FhRec.bytes (r : FhRec) : Bytes :=
  leBytes 8 r.seq ++ leBytes 8 r.time ++ leBytes 4 r.boot ++ leBytes 2 r.kind ++ leBytes 2 r.status
    ++ leBytes 1 r.outcome ++ leBytes 1 r.mech ++ leBytes 1 r.mode ++ leBytes 1 r.inst ++ leBytes 4 r.resource
    ++ leBytes 4 r.count ++ leBytes 4 r.flags ++ leBytes 8 r.addr ++ leBytes 8 r.leaf ++ padTo r.data 72

/-- A log page: the header of R486 and the records. -/
def logPage (size lost boot : Nat) (recs : List (Nat × Bytes)) : Bytes :=
  leBytes 2 size ++ zeros 6 ++ leBytes 8 recs.length ++ leBytes 8 ((recs.head?.map (·.1)).getD 0)
    ++ leBytes 8 ((recs.getLast?.map (·.1)).getD 0) ++ leBytes 8 lost ++ leBytes 4 boot ++ zeros 20
    ++ (recs.map (·.2)).flatten

/-- The retained error records of a reader: the Colophon's and those waiting (R340, R480). -/
def State.errView (s : State) (i : Nat) : List ErrRec :=
  (s.col.errLog ++ s.log.err).filter (fun r => i == 0 || r.inst == i)

def State.fhView (s : State) : List FhRec := s.col.fhLog ++ s.log.fh

/-- The hottest reported quire Tj in thousandths of a degree. -/
def State.hottest (s : State) : Nat :=
  ((List.range 16).map (fun q => s.regField (0x700200 + 8 * q) 7 0)).foldl max 0 * 1000

/-- A per-instance count of the HEALTH page; the manager sees every instance's (R340, R373; log 22). -/
def healthSum (t : Tab Nat) (i : Nat) : Nat :=
  if i = 0 then (t.map (·.2)).foldl (· + ·) 0 else Tab.get t i 0

def State.healthPage (s : State) (i : Nat) : Bytes :=
  let held := (s.insts.filter (fun p => i == 0 || p.1 == i)).map (fun p => p.2.hold.length)
  ([s.regField 0x700018 31 0, s.hottest, s.feature 0 1, s.dev.constrainedNs, healthSum s.dev.leavesFailed i,
    healthSum s.dev.cmdsFailed i, held.foldl (· + ·) 0, s.timebase].map (leBytes 8)).flatten

/-- The QUEUES page: 16 bytes per queue; kind 0 for an SQ and 1 for a CQ (log 22). -/
def State.queuesPage (s : State) (i : Nat) : Bytes :=
  match s.inst? i with
  | none => []
  | some x =>
    (x.sqs.map (fun p => leBytes 2 p.1 ++ leBytes 1 0 ++ leBytes 1 p.2.cls ++ leBytes 2 (p.2.depth - 1)
        ++ leBytes 2 p.2.head ++ leBytes 2 p.2.tail ++ zeros 2
        ++ leBytes 4 (s.cmds.filter (fun c => c.inst == i && c.sq == p.1 && c.open_)).length)).flatten
    ++ (x.cqs.map (fun p => leBytes 2 p.1 ++ leBytes 1 1 ++ leBytes 1 0 ++ leBytes 2 (p.2.depth - 1)
        ++ leBytes 2 p.2.head ++ leBytes 2 p.2.tail ++ zeros 2 ++ zeros 4)).flatten

/-- A log page of a reader, or the status that refuses it (R340). -/
def State.page (s : State) (i lid : Nat) : Except Nat Bytes :=
  let boot := s.col.boots
  let fh := fun (l : List FhRec) => .ok (logPage 128 s.log.lostFh boot (l.map (fun r => (r.seq, r.bytes))))
  match lid with
  | 1 => .ok (logPage 64 (if i = 0 then s.log.lostErr else Tab.get s.log.lostBy i 0) boot
               ((s.errView i).map (fun r => (r.seq, r.bytes))))
  | 2 => if i = 0 then fh s.fhView else .error 0x1001
  | 3 => .ok (s.healthPage i)
  | 4 => .ok (s.fwVersions ++ leBytes 8 (s.slotVersion s.col.nextSlot))
  | 5 => .ok (s.queuesPage i)
  | 6 => if i = 0 then fh (s.fhView.filter (fun r => r.kind == 0x0202)) else .error 0x1001
  | 7 => if i = 0 then fh (s.fhView.filter (fun r => r.kind == 0x0502)) else .error 0x1001
  | _ => .error 0x1002

def execGetLogPage (i sq cid : Nat) (s : State) : Host.Outcome State Fault Refusal :=
  match s.takeCmd i sq cid 2 with
  | none => ok s
  | some c =>
    let off := c.fld 0x20 8
    let n := c.dataLen
    match s.page i (c.fld 0x18 1) with
    | .error st => ok (s.finish c.no st 0 0)
    | .ok p =>
      if off % 4 ≠ 0 ∨ n % 4 ≠ 0 ∨ n < 4 ∨ 1048576 < n ∨ p.length ≤ off then ok (s.finish c.no 0x1002 0 0)
      else ok (s.answer c ((p.drop off).take n) p.length)

-- ---------------------------------------------------------------- features (R341)

/-- Is a feature value in its range (R341)? -/
def featLegal (fid v : Nat) : Bool :=
  match fid with
  | 1 => decide (200 ≤ v) && decide (v ≤ 1500)
  | 2 => decide (v < 2 ^ 32) && decide (1 ≤ v % 256) && decide (v % 256 ≤ 128)
  | 3 => decide (v < 2 ^ 16)
  | 4 => true
  | 5 => decide (v ≤ 1)
  | 6 => decide (v ≤ 1)
  | _ => false

/-- Is a feature of manager scope? -/
def featManager (fid : Nat) : Bool := fid == 1 || fid == 6

/-- Sets the current value of a feature. -/
def State.setFeature (s : State) (i fid v : Nat) : State :=
  if fid = 6 then s.setReg offQmConfig v
  else s.updInst (if fid = 1 then 0 else i) (fun x => { x with features := Tab.set x.features fid v })

/-- The saved value of a feature, or its default. -/
def State.savedFeature (s : State) (i fid : Nat) : Nat :=
  if fid = 7 then s.timebase
  else if fid = 6 then s.regReset offQmConfig % 2
  else
    let k := 256 * (if fid = 1 then 0 else i) + fid
    Tab.get s.col.featDirty k (Tab.get s.col.features k (featDefault fid))

def execSetFeatures (i sq cid : Nat) (s : State) : Host.Outcome State Fault Refusal :=
  match s.takeCmd i sq cid 3 with
  | none => ok s
  | some c =>
    let fid := c.fld 0x18 1
    let save := c.fld 0x19 1
    let v := c.fld 0x20 8
    if fid = 7 then ok (s.finish c.no 0x1009 0 0)
    else if featManager fid ∧ i ≠ 0 then ok (s.finish c.no 0x1001 0 0)
    else if !featLegal fid v ∨ 1 < save ∨ (save = 1 ∧ i ≠ 0) then ok (s.finish c.no 0x1002 0 0)
    else
      let s := s.setFeature i fid v
      let s :=
        if save = 1 then
          if fid = 6 then { s with col := { s.col with dirty := dedup (s.col.dirty ++ [offQmConfig]) } }
          else { s with col := { s.col with featDirty := Tab.set s.col.featDirty (256 * i + fid) v } }
        else s
      -- a new POWER_CAP completes after the first refill that uses it (R441)
      if fid = 1 then ok (s.start c.no) else ok (s.finish c.no 0 0 0)

def execGetFeatures (i sq cid : Nat) (s : State) : Host.Outcome State Fault Refusal :=
  match s.takeCmd i sq cid 4 with
  | none => ok s
  | some c =>
    let fid := c.fld 0x18 1
    let sel := c.fld 0x19 1
    if fid = 0 ∨ 7 < fid ∨ 1 < sel then ok (s.finish c.no 0x1002 0 0)
    else if featManager fid ∧ i ≠ 0 then ok (s.finish c.no 0x1001 0 0)
    else ok (s.finish c.no 0 (if sel = 0 then s.feature i fid else s.savedFeature i fid) 0)

-- ---------------------------------------------------------------- the end of a Firmware Commit (R461, R463)

/-- A Firmware Commit completes, successfully or not: the staging area is erased (R461). -/
def State.endCommit (s : State) (no status result : Nat) : State :=
  ({ s.zeroSpace .colophon with col := { s.col with staged := [] } }).finish no status result 0

/-- A live activation that has not paused placement ends with a status (R463, R465). -/
def State.dropActivation (s : State) (status : Nat) : State :=
  match s.dev.act with
  | none => s
  | some a =>
    if a.paused then s
    else { s with dev := { s.dev with act := none, actState := 0 } }.endCommit a.cmd status 0

-- ---------------------------------------------------------------- instances (R360–R363, R370, R371)

/-- The allotment that a parameter block asks for (R360). -/
def parseAlloc (b : Bytes) : Alloc :=
  { urgentOk := bitAt (fld b 2 2) 0, minEngines := fld b 4 2, groups := fld b 6 2, urgentGroups := fld b 8 2,
    sqs := fld b 0xA 2, cqs := fld b 0xC 2, aperture := fld b 0xE 1, copy := fld b 0xF 1, slotLimit := fld b 0x10 4,
    t0 := fld b 0x14 4, t1 := fld b 0x18 4, t2 := fld b 0x1C 4, t2Base := fld b 0x20 8, t2Len := fld b 0x28 8,
    assocs := fld b 0x30 4, share := fld b 0x34 2, mbxTimeout := fld b 0x36 2,
    thumb := (List.range 16).map (fun q => fld b (0x40 + 8 * q) 8),
    weights := ((List.range 512).map (fun g => fld b (0xC0 + g) 1)).take (fld b 6 2) }

/-- WEIGHT[g] is 1–255 for g below GROUPS and zero otherwise (R360, R363). -/
def weightsLegal (b : Bytes) (off groups : Nat) : Bool :=
  (List.range 512).all (fun g => (fld b (off + g) 1 != 0) == decide (g < groups))

/-- Does a parameter block keep the table of R360? -/
def blockLegal (b : Bytes) : Bool :=
  let a := parseAlloc b
  decide (fld b 0 2 = 1) && decide (fld b 2 2 ≤ 1) && decide (a.minEngines ≤ 256) && decide (1 ≤ a.groups)
  && decide (a.groups ≤ 512) && decide (a.urgentGroups ≤ a.groups) && (a.urgentGroups == 0 || a.urgentOk)
  && decide (2 ≤ a.sqs) && decide (a.sqs ≤ 1024) && decide (2 ≤ a.cqs) && decide (a.cqs ≤ 1024)
  && decide (a.aperture ≤ 16) && decide (a.copy ≤ 64) && decide (1024 ≤ a.slotLimit) && decide (a.slotLimit ≤ 262144)
  && decide (1 ≤ a.t0) && decide (a.t2 ≤ a.t2Len / kib64) && aligned a.t2Base kib64 && (a.t2 != 0 || a.t2Base == 0)
  && aligned a.t2Len kib64 && decide (a.assocs ≤ 65536) && decide (a.share ≤ 1000) && decide (1 ≤ a.mbxTimeout)
  && zeroAt b 0x38 8 && weightsLegal b 0xC0 a.groups

/-- Can the pools cover an allotment, and is no named Thumb bank owned (R361)? -/
def State.covers (s : State) (a : Alloc) : Bool :=
  decide (s.allotted (·.minEngines) + a.minEngines ≤ 256) && decide (s.groups.length + a.groups ≤ 512)
  && decide (s.allotted (·.sqs) + a.sqs ≤ 4096) && decide (s.allotted (·.cqs) + a.cqs ≤ 4096)
  && decide (s.allotted (·.slotLimit) + a.slotLimit ≤ 262144) && decide (s.allotted (·.t0) + a.t0 ≤ s.t0Pool)
  && (a.t1 == 0 || decide (s.allotted (·.t1) + a.t1 ≤ s.t1Pool)) && decide (s.allotted (·.assocs) + a.assocs ≤ 65536)
  && decide (a.copy ≤ s.freeCopies.length) && decide (s.allotted (·.aperture) + a.aperture ≤ 16)
  && !s.banks.any (fun p => bitAt (a.thumb.getD (p.1 / 64) 0) (p.1 % 64))

/-- Create Instance (R360–R362): it takes every resource in one step, and while the Slipcase is unavailable it waits for the
instance's XTS keys. -/
def execCreateInstance (i sq cid : Nat) (s : State) : Host.Outcome State Fault Refusal :=
  match s.takeCmd i sq cid 0x10 with
  | none => ok s
  | some c =>
    let j := c.fld 0x18 1
    if i ≠ 0 then ok (s.finish c.no 0x1001 0 0)
    else if j = 0 ∨ 127 < j ∨ (s.inst? j).isSome ∨ c.dataLen ≠ 704 then ok (s.finish c.no 0x1002 0 0)
    else match s.bufRead c c.dataAddr 704 with
      | .wait s => ok s
      | .fail st a s => ok (s.finishAt c.no st 0 0 a)
      | .ok b s =>
        if !blockLegal b then ok (s.finish c.no 0x1002 0 0)
        else if !s.covers (parseAlloc b) then ok (s.finish c.no 0x2002 0 0)
        else
          let s := (s.makeInst j (parseAlloc b)).logShortfall
          ok (if s.slcUp then s.finish c.no 0 0 0 else s.start c.no)

/-- Set Instance Share (R363): weights and POWER_SHARE from the next refill on. -/
def execSetInstanceShare (i sq cid : Nat) (s : State) : Host.Outcome State Fault Refusal :=
  match s.takeCmd i sq cid 0x14 with
  | none => ok s
  | some c =>
    let j := c.fld 0x18 1
    if i ≠ 0 then ok (s.finish c.no 0x1001 0 0)
    else match s.inst? j with
      | none => ok (s.finish c.no 0x1002 0 0)
      | some x =>
        if j = 0 ∨ c.dataLen ≠ 576 then ok (s.finish c.no 0x1002 0 0)
        else match s.bufRead c c.dataAddr 576 with
          | .wait s => ok s
          | .fail st a s => ok (s.finishAt c.no st 0 0 a)
          | .ok b s =>
            if fld b 0 2 ≠ 1 ∨ fld b 2 2 ≠ x.alloc.groups ∨ 1000 < fld b 4 2 ∨ !zeroAt b 6 58
                ∨ !weightsLegal b 0x40 x.alloc.groups then ok (s.finish c.no 0x1002 0 0)
            else
              let w := (List.range x.alloc.groups).map (fun g => fld b (0x40 + g) 1)
              let s := { s with shares := s.shares.filter (fun (p : Nat × Nat × List Nat) => p.1 != j) ++ [(j, fld b 4 2, w)] }
              ok (s.finish c.no 0 0 0)

/-- Quiesce Instance: I/O fetching stops at once; the command completes when nothing of the instance runs (R370). -/
def execQuiesceInstance (i sq cid : Nat) (s : State) : Host.Outcome State Fault Refusal :=
  match s.takeCmd i sq cid 0x11 with
  | none => ok s
  | some c =>
    let j := c.fld 0x18 1
    if i ≠ 0 then ok (s.finish c.no 0x1001 0 0)
    else match s.inst? j with
      | none => ok (s.finish c.no 0x1002 0 0)
      | some x =>
        if j = 0 then ok (s.finish c.no 0x1002 0 0)
        else if x.quiesced then ok (s.finish c.no 0 0 0)
        else ok ((s.start c.no).updInst j (fun x => { x with quiescing := true, quiesceCmd := some c.no }))

/-- Resume Instance: fetching restarts; with INSTANCE 0 CONTAINMENT is left when no cause is open (R371, R458). -/
def execResumeInstance (i sq cid : Nat) (s : State) : Host.Outcome State Fault Refusal :=
  match s.takeCmd i sq cid 0x12 with
  | none => ok s
  | some c =>
    let j := c.fld 0x18 1
    if i ≠ 0 then ok (s.finish c.no 0x1001 0 0)
    else if j = 0 then
      if s.dev.causes ≠ [] then ok (s.finish c.no 0x100A 0 0)
      else ok ((s.setDev (fun d => { d with contained := false })).finish c.no 0 0 0)
    else match s.inst? j with
      | none => ok (s.finish c.no 0x1002 0 0)
      | some x =>
        if !x.quiesced then ok (s.finish c.no 0x1002 0 0)
        else ok ((s.updInst j (fun x => { x with quiesced := false })).finish c.no 0 0 0)

end Sys2Proof.Machine
end

