-- ==== Sys2Proof/Machine/Colophon.lean ====
section
/-! DEFINITION. The Colophon and the fault registers: flushing logs, saving settings and the operating time, arming
an injected fault (R473, R478–R482, R489, R517). -/
namespace Sys2Proof.Machine

/-- The newest `n` elements of a list: a circular area keeps those (R477). -/
def newest {α : Type} (n : Nat) (l : List α) : List α := l.drop (l.length - n)

/-- Records the log areas hold (R477). -/
def errArea : Nat := 4194304
def fhArea : Nat := 8388608

/-- Does a 256 KiB block belong to the error log, or to the fault-history log (R477)? -/
def inErrArea (b : Nat) : Bool := decide (0x484 ≤ b) && decide (b < 0x884)
def inFhArea (b : Nat) : Bool := decide (0x884 ≤ b) && decide (b < 0x1884)

/-- A block is retired and a spare takes its data; below 64 spares a log area goes on without it, and where no spare is
left for another area the cause OTHER opens (R482). -/
def State.retireBlock (s : State) (b : Nat) : State :=
  let s : State := { s with col := { s.col with retBlocks := min 65535 (s.col.retBlocks + 1) } }
  if (inErrArea b || inFhArea b) && decide (s.col.spareBlocks < 64) then
    { s with col := { s.col with errLost := s.col.errLost + b2n (inErrArea b), fhLost := s.col.fhLost + b2n (inFhArea b) } }
  else if s.col.spareBlocks = 0 then s.openCause 7 0x0D b
  else { s with col := { s.col with spareBlocks := s.col.spareBlocks - 1 } }

/-- What the flash reports of a write takes effect. -/
def State.flashReport (s : State) (f : Flash) : State :=
  let s := f.bad.foldl State.retireBlock s
  { s with col := { s.col with wear := (f.wear.map (min 255)).getD s.col.wear } }

/-- Did a record write find no good block: is a cause open for one of its blocks? -/
def State.flashFull (s : State) (f : Flash) : Bool := f.bad.any (fun b => s.dev.causes.contains (7, 0x0D * 2 ^ 24 + b))

/-- Waiting log records are written from the log buffer to the Colophon, whose log areas are circular (R477, R480, R482). -/
def execLogRecordFlush (f : Flash) (s : State) : Host.Outcome State Fault Refusal :=
  if s.running then
    let s := s.flashReport f
    ok { s with
      col := { s.col with errLog := newest (errArea - 4096 * s.col.errLost) (s.col.errLog ++ s.log.err)
                          fhLog := newest (fhArea - 2048 * s.col.fhLost) (s.col.fhLog ++ s.log.fh) }
      log := { s.log with err := [], fh := [] } }
  else ok s

/-- A record of the settings or repair area is written, unless no good block is left for it (R482). -/
def State.recordWrite (s : State) (f : Flash) (g : State → State) : State :=
  let s := s.flashReport f
  if s.flashFull f then s else g s

/-- The operating time is saved (R473). -/
def execOptimeSave (f : Flash) (s : State) : Host.Outcome State Fault Refusal :=
  if s.running then ok (s.recordWrite f (fun s => { s with col := { s.col with optimeSaved := s.col.optime } })) else ok s

/-- Puts every written persisted field into the settings area (R517). -/
def State.saveSettings (s : State) : State :=
  { s with col := { s.col with
      settings := s.col.dirty.foldl (fun t off =>
        Tab.set t off (s.reg off &&& ((regInfo off).map (·.persist)).getD 0)) s.col.settings
      dirty := []
      features := s.col.featDirty.foldl (fun t p => Tab.set t p.1 p.2) s.col.features
      featDirty := [] } }

/-- Persisted fields reach the Colophon within 10 ms of taking effect (R517, R341). -/
def execSettingsPersist (f : Flash) (s : State) : Host.Outcome State Fault Refusal :=
  if s.running then ok (s.recordWrite f State.saveSettings) else ok s

/-- Is an injection target valid (R488, R489)? -/
def injectLegal (v : Nat) : Bool :=
  let t := bits v 55 48
  let i := bits v 31 0
  (t == 1 && decide (i < 256)) || (t == 2 && decide (i < 16)) || ((t == 3 || t == 4) && decide (i < 256))
    || (t == 5 && decide (i < 256))

/-- A write of FLT_INJECT: an invalid target, or ARM without MAINT_HOLD, leaves the register as it was (R489); 256
Spine segments are taken (log 23). -/
def State.writeInject (s : State) (v : Nat) : State :=
  if !injectLegal v || (bitAt v 63 && !s.dev.maintHold) then s
  else s.setReg offInject ((v &&& 0x00FF0000FFFFFFFF) + (if bitAt v 63 ∨ bitAt (s.reg offInject) 63 then 2 ^ 63 else 0))

def execFaultInjectArm (value : Word) (s : State) : Host.Outcome State Fault Refusal :=
  if s.serving then ok (s.writeInject value.toNat) else ok s

/-- Stores the value of a legal write; a register with persisted bits waits to be saved (R517). -/
def State.storeReg (s : State) (off v : Nat) : State :=
  let s := s.setReg off v
  if ((regInfo off).map (·.persist)).getD 0 = 0 then s
  else { s with col := { s.col with dirty := if s.col.dirty.contains off then s.col.dirty else s.col.dirty ++ [off] } }

/-- Holds a write until after step 7; it replaces an earlier one to the same register (R515). -/
def State.deferWrite (s : State) (off v : Nat) : State :=
  { s with dev := { s.dev with
      deferred := s.dev.deferred.filter (fun d => d.off != off) ++ [{ off := off, value := v }] } }

end Sys2Proof.Machine
end

