-- ==== Sys2Proof/Machine/Float.lean ====
section
/-! DEFINITION. Floating point of the engines (R104, R117): binary32 and binary64 as bit patterns, computed exactly
and rounded once, to nearest with ties to even; NaN results are the canonical NaN of R81. -/
namespace Sys2Proof.Machine

/-- A binary format: exponent and fraction bits. -/
structure Fmt where
  eb : Nat
  mb : Nat
deriving DecidableEq, Repr

def f32 : Fmt := { eb := 8, mb := 23 }
def f64 : Fmt := { eb := 11, mb := 52 }

/-- The format of an element width (32 or 64 bits). -/
def fmtOf (w : Nat) : Fmt := if w = 32 then f32 else f64

namespace Fmt

def width (F : Fmt) : Nat := F.eb + F.mb + 1
def signBit (F : Fmt) : Nat := 2 ^ (F.eb + F.mb)
/-- The pattern of +∞. -/
def inf (F : Fmt) : Nat := (2 ^ F.eb - 1) * 2 ^ F.mb
/-- The canonical quiet NaN of R81. -/
def nan (F : Fmt) : Nat := F.inf + 2 ^ (F.mb - 1)
/-- The exponent of the least bit of a subnormal. -/
def emin (F : Fmt) : Int := 2 - 2 ^ (F.eb - 1) - F.mb

def neg (F : Fmt) (x : Nat) : Bool := bitAt x (F.eb + F.mb)
def mag (F : Fmt) (x : Nat) : Nat := x % F.signBit
def isNan (F : Fmt) (x : Nat) : Bool := decide (F.inf < F.mag x)
def isInf (F : Fmt) (x : Nat) : Bool := F.mag x == F.inf
def isZero (F : Fmt) (x : Nat) : Bool := F.mag x == 0

/-- Significand and exponent of a finite pattern: its magnitude is `mant × 2^exp`. -/
def mant (F : Fmt) (x : Nat) : Nat :=
  let m := F.mag x % 2 ^ F.mb
  if F.mag x / 2 ^ F.mb = 0 then m else m + 2 ^ F.mb
def exp (F : Fmt) (x : Nat) : Int := F.emin + ((max (F.mag x / 2 ^ F.mb) 1 : Nat) - 1 : Int)

/-- The pattern of a magnitude with a sign. -/
def pack (F : Fmt) (s : Bool) (m : Nat) : Nat := (if s then F.signBit else 0) + m

/-- `m × 2^e`, with a part below it when `sticky`, rounded to nearest, ties to even; overflow gives infinity. -/
def round (F : Fmt) (s : Bool) (m : Nat) (e : Int) (sticky : Bool) : Nat :=
  if m = 0 then F.pack s 0
  else
    let q : Int := max (e + m.log2 - F.mb) F.emin
    let r : Nat :=
      if q ≤ e then m * 2 ^ (e - q).toNat
      else
        let k := (q - e).toNat
        let t := m / 2 ^ k
        let rem := m % 2 ^ k
        let half := 2 ^ (k - 1)
        if half < rem ∨ (rem = half ∧ (sticky ∨ t % 2 = 1)) then t + 1 else t
    F.pack s (min F.inf ((q - F.emin).toNat * 2 ^ F.mb + r))

/-- A finite sum of two signed magnitudes at one exponent. -/
def roundSum (F : Fmt) (i : Int) (e : Int) : Nat := F.round (i < 0) i.natAbs e false

/-- The signed significand of a finite pattern scaled to exponent `e`. -/
def scaled (F : Fmt) (x : Nat) (e : Int) : Int :=
  let v : Int := F.mant x * 2 ^ (F.exp x - e).toNat
  if F.neg x then -v else v

def add (F : Fmt) (x y : Nat) : Nat :=
  if F.isNan x || F.isNan y then F.nan
  else if F.isInf x then (if F.isInf y && F.neg x != F.neg y then F.nan else F.pack (F.neg x) F.inf)
  else if F.isInf y then F.pack (F.neg y) F.inf
  else
    let e := min (F.exp x) (F.exp y)
    let i := F.scaled x e + F.scaled y e
    if i = 0 then F.pack (F.isZero x && F.isZero y && F.neg x && F.neg y) 0 else F.roundSum i e

/-- The pattern with its sign inverted. -/
def negate (F : Fmt) (x : Nat) : Nat := F.pack (!F.neg x) (F.mag x)

def sub (F : Fmt) (x y : Nat) : Nat := if F.isNan y then F.nan else F.add x (F.negate y)

def mul (F : Fmt) (x y : Nat) : Nat :=
  let s := F.neg x != F.neg y
  if F.isNan x || F.isNan y then F.nan
  else if F.isInf x || F.isInf y then (if F.isZero x || F.isZero y then F.nan else F.pack s F.inf)
  else F.round s (F.mant x * F.mant y) (F.exp x + F.exp y) false

def div (F : Fmt) (x y : Nat) : Nat :=
  let s := F.neg x != F.neg y
  if F.isNan x || F.isNan y then F.nan
  else if F.isInf x then (if F.isInf y then F.nan else F.pack s F.inf)
  else if F.isInf y then F.pack s 0
  else if F.isZero y then (if F.isZero x then F.nan else F.pack s F.inf)
  else
    let k := 2 * F.mb + 8
    let n := F.mant x * 2 ^ k
    F.round s (n / F.mant y) (F.exp x - F.exp y - k) (n % F.mant y != 0)

/-- The order of non-NaN patterns with −0 below +0 (R104). -/
def key (F : Fmt) (x : Nat) : Int := if F.neg x then -1 - F.mag x else F.mag x

def fmin (F : Fmt) (x y : Nat) : Nat :=
  if F.isNan x || F.isNan y then F.nan else if F.key y < F.key x then y else x
def fmax (F : Fmt) (x y : Nat) : Nat :=
  if F.isNan x || F.isNan y then F.nan else if F.key x < F.key y then y else x

def fabs (F : Fmt) (x : Nat) : Nat := F.mag x

/-- The value order of non-NaN patterns, −0 equal to +0 (R73). -/
def val (F : Fmt) (x : Nat) : Int := if F.neg x then -(F.mag x) else F.mag x

/-- The quiet comparisons of R73 and R110: 0 EQ, 1 NE, 2 LT, 3 LE, 4 GT, 5 GE. -/
def compare (F : Fmt) (cond : Nat) (x y : Nat) : Bool :=
  if F.isNan x || F.isNan y then cond == 1
  else
    let a := F.val x
    let b := F.val y
    match cond with
    | 0 => decide (a = b)
    | 1 => decide (a ≠ b)
    | 2 => decide (a < b)
    | 3 => decide (a ≤ b)
    | 4 => decide (b < a)
    | _ => decide (b ≤ a)

/-- VCVT.IF: a signed integer, rounded. -/
def ofInt (F : Fmt) (i : Int) : Nat := F.roundSum i 0

/-- The integer part of a finite pattern, toward zero. -/
def trunc (F : Fmt) (x : Nat) : Int :=
  let e := F.exp x
  let v : Int := if 0 ≤ e then F.mant x * 2 ^ e.toNat else F.mant x / 2 ^ (-e).toNat
  if F.neg x then -v else v

/-- VCVT.FI: toward zero; out of range saturates, NaN gives 0. -/
def toInt (F : Fmt) (x : Nat) : Int :=
  let hi : Int := 2 ^ (F.width - 1) - 1
  let lo : Int := -2 ^ (F.width - 1)
  if F.isNan x then 0
  else if F.isInf x then (if F.neg x then lo else hi)
  else max lo (min hi (F.trunc x))

/-- A pattern of one format in another, rounded once; a NaN becomes the canonical NaN. -/
def convert (F G : Fmt) (x : Nat) : Nat :=
  if F.isNan x then G.nan
  else if F.isInf x then G.pack (F.neg x) G.inf
  else G.round (F.neg x) (F.mant x) (F.exp x) false

end Fmt

-- ---------------------------------------------------------------- exact accumulators (R115–R117)

/-- The fixed-point weight of an accumulator's VALUE: 2^−1,074. -/
def accWeight : Int := -1074

def accNan : BitVec 4 := 1
def accPos : BitVec 4 := 2
def accNeg : BitVec 4 := 4
def accNonNeg0 : BitVec 4 := 8

/-- COUNT grows and saturates at 2^64 − 1 (R115). -/
def satCount (c : Word) (n : Nat) : Word := BitVec.ofNat 64 (min (c.toNat + n) (2 ^ 64 - 1))

namespace ExactAcc

/-- Adds a signed significand at an exponent of at least −1,074. -/
def addAt (a : ExactAcc) (i e : Int) : ExactAcc :=
  { a with value := a.value + BitVec.ofInt 4096 (i * 2 ^ (e - accWeight).toNat) }

def orFlags (a : ExactAcc) (f : BitVec 4) : ExactAcc := { a with flags := a.flags ||| f }

/-- Adds one element of a binary format (XADDF): COUNT is added by the caller (R116). -/
def addFloat (F : Fmt) (a : ExactAcc) (x : Nat) : ExactAcc :=
  let nn := if F.isZero x && F.neg x then 0 else accNonNeg0
  if F.isNan x then a.orFlags (accNan ||| nn)
  else if F.isInf x then a.orFlags ((if F.neg x then accNeg else accPos) ||| nn)
  else (a.addAt (F.scaled x (F.exp x)) (F.exp x)).orFlags nn

/-- Adds one signed integer element at weight 2^0 (XADDI). -/
def addInt (a : ExactAcc) (i : Int) : ExactAcc := (a.addAt i 0).orFlags accNonNeg0

/-- Adds the exact product of two binary32 elements (XMACF). -/
def addProd (a : ExactAcc) (x y : Nat) : ExactAcc :=
  let F := f32
  let s := F.neg x != F.neg y
  let z := F.isZero x || F.isZero y
  if F.isNan x || F.isNan y || ((F.isInf x || F.isInf y) && z) then a.orFlags (accNan ||| accNonNeg0)
  else if F.isInf x || F.isInf y then a.orFlags ((if s then accNeg else accPos) ||| accNonNeg0)
  else
    (a.addAt (F.scaled x (F.exp x) * F.scaled y (F.exp y)) (F.exp x + F.exp y)).orFlags
      (if z && s then 0 else accNonNeg0)

/-- XMRG and the merge of XPOST: VALUE and COUNT add, FLAGS combine. -/
def merge (a b : ExactAcc) : ExactAcc :=
  { value := a.value + b.value, count := satCount a.count b.count.toNat, flags := a.flags ||| b.flags }

/-- XRND and XRNDS (R117). -/
def round (F : Fmt) (a : ExactAcc) : Nat :=
  let nan := a.flags &&& accNan != 0
  let pos := a.flags &&& accPos != 0
  let neg := a.flags &&& accNeg != 0
  let n := a.value.toInt
  if nan || (pos && neg) then F.nan
  else if pos then F.pack false F.inf
  else if neg then F.pack true F.inf
  else if n = 0 then F.pack (a.count != 0 && a.flags &&& accNonNeg0 == 0) 0
  else F.roundSum n accWeight

/-- Word `k` of the image (R115). -/
def word (a : ExactAcc) (k : Nat) : Word :=
  if k < 64 then a.value.extractLsb' (64 * k) 64
  else if k = 64 then a.count
  else a.flags.setWidth 64

/-- The 528 bytes of the image. -/
def image (a : ExactAcc) : Bytes := leBytes 512 a.value.toNat ++ leBytes 8 a.count.toNat ++ leBytes 8 a.flags.toNat

/-- The accumulator of an image; bits [63:4] of FLAGS are read as zero. -/
def ofImage (b : Bytes) : ExactAcc :=
  { value := BitVec.ofNat 4096 (fld b 0 512), count := BitVec.ofNat 64 (fld b 512 8), flags := BitVec.ofNat 4 (fld b 520 8) }

end ExactAcc

end Sys2Proof.Machine
end

