-- ==== Sys2Proof/Machine/Operands.lean ====
section
/-! DEFINITION. Operands of the engine instructions: scalar, vector, mask and accumulator registers, elements at the
current width, active elements, the broadcast of a scalar B (R99–R102). -/
namespace Sys2Proof.Machine

/-- g[i]: g0 reads 0 (R99). -/
def EngRun.rg (r : EngRun) (i : BitVec 5) : Word := if i = 0 then 0 else r.g[i.toNat]'i.isLt
/-- Writes g[i]: a write to g0 is discarded (R99). -/
def EngRun.wg (r : EngRun) (i : BitVec 5) (x : Word) : EngRun :=
  if i = 0 then r else { r with g := r.g.set i.toNat x i.isLt }

/-- v[i]. -/
def EngRun.rv (r : EngRun) (i : BitVec 5) : BitVec 512 := r.v[i.toNat]'i.isLt
def EngRun.wv (r : EngRun) (i : BitVec 5) (x : BitVec 512) : EngRun := { r with v := r.v.set i.toNat x i.isLt }

/-- m[i]. -/
def EngRun.rm (r : EngRun) (i : BitVec 3) : Word := r.m[i.toNat]'i.isLt
def EngRun.wm (r : EngRun) (i : BitVec 3) (x : Word) : EngRun := { r with m := r.m.set i.toNat x i.isLt }

/-- a[i]. -/
def EngRun.ra (r : EngRun) (i : BitVec 2) : ExactAcc := r.acc[i.toNat]'i.isLt
def EngRun.wa (r : EngRun) (i : BitVec 2) (x : ExactAcc) : EngRun := { r with acc := r.acc.set i.toNat x i.isLt }

/-- The element width in bits of an EW code (R99). -/
def ewBits (code : Nat) : Nat := 8 * 2 ^ code
def EngRun.w (r : EngRun) : Nat := ewBits r.ew

/-- VL × EW in bits (R93). -/
def EngRun.width (r : EngRun) : Nat := r.vl * r.w

/-- Element `i` of a register at width `w` (R99). -/
def elem (v : BitVec 512) (w i : Nat) : Nat := (v.toNat >>> (i * w)) % 2 ^ w

/-- The elements of a register at width `w`. -/
def elems (v : BitVec 512) (w : Nat) : List Nat := (List.range (512 / w)).map (elem v w)

/-- The register that holds a list of elements of width `w`, element 0 lowest. -/
def ofElems (w : Nat) (l : List Nat) : BitVec 512 := BitVec.ofNat 512 (l.foldr (fun x acc => x % 2 ^ w + acc * 2 ^ w) 0)

/-- Is element `i` active: below VL and, with M = 1, set in m[MK] (R102)? -/
def EngRun.active (r : EngRun) (m : BitVec 1) (mk : BitVec 3) (i : Nat) : Bool :=
  decide (i < r.vl) && (m == 0 || (r.rm mk).getLsbD i)

/-- The active elements, rising. -/
def EngRun.actives (r : EngRun) (m : BitVec 1) (mk : BitVec 3) : List Nat := (List.range r.vl).filter (r.active m mk)

/-- Element `i` of operand B: of v[B], or with S = 1 the low EW bits of g[B] (R100). At EW 128 the 64 bits of g[B] are
zero-extended, which R100 leaves open (DESIGN CHOICE, log 85). -/
def EngRun.bElem (r : EngRun) (s : BitVec 1) (b : BitVec 5) (i : Nat) : Nat :=
  if s = 1 then (r.rg b).toNat % 2 ^ r.w else elem (r.rv b) r.w i

/-- The register `old` with its active elements replaced by `f`; the others keep their values (R102). -/
def EngRun.mapV (r : EngRun) (m : BitVec 1) (mk : BitVec 3) (old : BitVec 512) (f : Nat → Nat) : BitVec 512 :=
  ofElems r.w ((elems old r.w).zipIdx.map (fun p => if r.active m mk p.2 then f p.2 else p.1))

/-- A mask: bit `i` set where `f i`, for `i` below 64. -/
def maskOf (f : Nat → Bool) : Word := BitVec.ofNat 64 ((List.range 64).foldl (fun a i => if f i then a + 2 ^ i else a) 0)

/-- The mask with bits 0 to n − 1 set. -/
def maskLow (n : Nat) : Word := maskOf (fun i => decide (i < n))

/-- A mask's bits below VL. -/
def EngRun.below (r : EngRun) (x : Word) : Word := x &&& maskLow r.vl

/-- Leading zeros, trailing zeros and ones of 64 bits; 64 for zero (R109). -/
def clz64 (x : Word) : Nat := if x = 0 then 64 else 63 - x.toNat.log2
def ctz64 (x : Word) : Nat := ((List.range 64).find? (fun i => x.getLsbD i)).getD 64
def popc64 (x : Word) : Nat := popcount 64 x.toNat

/-- The scalar value of a small number. -/
def ofN (n : Nat) : Word := BitVec.ofNat 64 n

/-- Sign extension of a 16-bit immediate (R100). -/
def sx16 (i : BitVec 16) : Word := i.signExtend 64
def zx16 (i : BitVec 16) : Word := i.setWidth 64

/-- The state of an engine when a leaf enters (R123). -/
def entryRun (leaf entry limit arg src sink extra win : Nat) (vl256 : Bool) (free : Option Nat) : EngRun :=
  let g : Vector Word 32 := Vector.replicate 32 0
  let n := if vl256 then 256 else 512
  { leaf := leaf, pc := entry, limit := limit, free := free, vlen := n, vl := n / 64
    g := (((((((g.set 1 (ofN leaf)).set 2 (ofN arg)).set 3 0xFFFF800000000000).set 4 (ofN win)).set 5 (ofN src)).set 6
      (ofN sink)).set 7 (ofN extra)).set 31 0xFFFFFFFFFFFFFFFC
    v := Vector.replicate 32 0
    m := (Vector.replicate 8 (0 : Word)).set 0 0xFFFFFFFFFFFFFFFF
    acc := Vector.replicate 4 {} }

/-- The exit address in g31 at entry (R123). -/
def exitAddr : Nat := 0xFFFFFFFFFFFFFFFC

end Sys2Proof.Machine
end

