-- ==== Sys2Proof/Machine/Flags.lean ====
section
/-! DEFINITION. The flags of the engines: OVF, set by the checked instructions and never cleared by them (R99, R109). -/
namespace Sys2Proof.Machine

/-- Does a signed result not fit in `w` bits? -/
def ovfSigned (w : Nat) (i : Int) : Bool := decide (i < -2 ^ (w - 1)) || decide (2 ^ (w - 1) ≤ i)

/-- Does an unsigned result not fit in `w` bits? -/
def ovfUnsigned (w : Nat) (i : Int) : Bool := decide (i < 0) || decide (2 ^ w ≤ i)

/-- Sets OVF when any active element overflows; it stays set (R99). -/
def EngRun.setOvf (r : EngRun) (acts : List Nat) (f : Nat → Bool) : EngRun := { r with ovf := r.ovf || acts.any f }

end Sys2Proof.Machine
end

