-- ==== Sys2Proof/Machine/Sha.lean ====
section
/-! DEFINITION. The digests of the cipher complex: SHA-2 (FIPS 180-4) and SHA-3 (FIPS 202), by blocks, and the
HMAC and HKDF (RFC 2104, RFC 5869) that the Slipcase builds on SHA-384 (R385, R414). -/
namespace Sys2Proof.Machine

-- ---------------------------------------------------------------- constants from primes (FIPS 180-4, 4.2 and 5.3)

/-- The first 80 primes. -/
def primes80 : List Nat :=
  (List.range 410).filter (fun n => decide (2 ≤ n) && (List.range n).all (fun d => decide (d < 2) || n % d != 0))

/-- The floor of the `k`-th root of `n`, from `bits` bits down. -/
def rootBits (k n : Nat) : Nat → Nat → Nat
  | 0, r => r
  | b + 1, r => let r' := r + 2 ^ b; rootBits k n b (if r' ^ k ≤ n then r' else r)

/-- The first 64 bits of the fractional part of the square root of a prime. -/
def sqrtFrac (p : Nat) : Nat := rootBits 2 (p * 2 ^ 128) 69 0 % 2 ^ 64
/-- The first 64 bits of the fractional part of the cube root of a prime. -/
def cbrtFrac (p : Nat) : Nat := rootBits 3 (p * 2 ^ 192) 68 0 % 2 ^ 64

-- ---------------------------------------------------------------- SHA-2

/-- A SHA-2 function: word width, rounds, and the rotations of its six functions (the last of σ0 and σ1 is a shift). -/
structure Sha2 where
  w      : Nat
  rounds : Nat
  s0     : List Nat
  s1     : List Nat
  e0     : List Nat
  e1     : List Nat

def sha256 : Sha2 := { w := 32, rounds := 64, s0 := [7, 18, 3], s1 := [17, 19, 10], e0 := [2, 13, 22], e1 := [6, 11, 25] }
def sha512 : Sha2 := { w := 64, rounds := 80, s0 := [1, 8, 7], s1 := [19, 61, 6], e0 := [28, 34, 39], e1 := [14, 18, 41] }

def rotrN (w x n : Nat) : Nat := ((x >>> n) ||| (x <<< (w - n))) % 2 ^ w

/-- Three rotations, or two rotations and a shift, added without carry. -/
def Sha2.mix (c : Sha2) (r : List Nat) (x : Nat) (shift : Bool) : Nat :=
  rotrN c.w x (r.getD 0 0) ^^^ rotrN c.w x (r.getD 1 0) ^^^ (if shift then x >>> r.getD 2 0 else rotrN c.w x (r.getD 2 0))

/-- The message schedule. -/
def Sha2.schedule (c : Sha2) : Nat → List Nat → List Nat
  | 0, l => l
  | n + 1, l =>
    let g := fun k => l.getD (l.length - k) 0
    Sha2.schedule c n (l ++ [(c.mix c.s1 (g 2) true + g 7 + c.mix c.s0 (g 15) true + g 16) % 2 ^ c.w])

/-- The round constants. -/
def Sha2.consts (c : Sha2) : List Nat := (primes80.take c.rounds).map (fun p => cbrtFrac p / 2 ^ (64 - c.w))

/-- One round: the eight working words, the constant and the schedule word. -/
def Sha2.round (c : Sha2) (h : List Nat) (kw : Nat × Nat) : List Nat :=
  let g := fun k => h.getD k 0
  let m := 2 ^ c.w
  let ch := (g 4 &&& g 5) ^^^ ((m - 1 - g 4) &&& g 6)
  let maj := (g 0 &&& g 1) ^^^ (g 0 &&& g 2) ^^^ (g 1 &&& g 2)
  let t1 := g 7 + c.mix c.e1 (g 4) false + ch + kw.1 + kw.2
  let t2 := c.mix c.e0 (g 0) false + maj
  [(t1 + t2) % m, g 0, g 1, g 2, (g 3 + t1) % m, g 4, g 5, g 6]

/-- The compression of one block. -/
def Sha2.block (c : Sha2) (h : List Nat) (b : Bytes) : List Nat :=
  let ws := (List.range 16).map (fun k => ofBe ((b.drop (k * (c.w / 8))).take (c.w / 8)))
  let h' := (List.zip c.consts (c.schedule (c.rounds - 16) ws)).foldl c.round h
  List.zipWith (fun x y => (x + y) % 2 ^ c.w) h h'

-- ---------------------------------------------------------------- SHA-3

/-- One bit of the round-constant generator of Keccak: x^8 + x^6 + x^5 + x^4 + 1. -/
def lfsrStep (r : Nat) : Nat := let x := r * 2; if 256 ≤ x then (x ^^^ 0x171) % 256 else x

/-- The round constants of Keccak-f[1600]. -/
def keccakRc (round : Nat) : Nat :=
  (List.range 7).foldl (fun acc j =>
    let r := (List.range (j + 7 * round)).foldl (fun x _ => lfsrStep x) 1
    if r % 2 = 1 then acc ||| (1 <<< (2 ^ j - 1)) else acc) 0

/-- The rotation offsets: lane `x + 5y` turns by the triangular number of its place in the walk. -/
def keccakRot : List Nat :=
  ((List.range 24).foldl (fun (p : Nat × Nat × List Nat) t =>
    let (x, y, l) := p
    (y, (2 * x + 3 * y) % 5, l.set (x + 5 * y) ((t + 1) * (t + 2) / 2 % 64))) (1, 0, List.replicate 25 0)).2.2

def keccakTurn (x n : Nat) : Nat := rotrN 64 x ((64 - n) % 64)

/-- One round of Keccak-f[1600] over 25 lanes. -/
def keccakRound (a : List Nat) (round : Nat) : List Nat :=
  let g := fun x y => a.getD (x % 5 + 5 * (y % 5)) 0
  let c := (List.range 5).map (fun x => g x 0 ^^^ g x 1 ^^^ g x 2 ^^^ g x 3 ^^^ g x 4)
  let d := (List.range 5).map (fun x => c.getD ((x + 4) % 5) 0 ^^^ keccakTurn (c.getD ((x + 1) % 5) 0) 1)
  let t := a.zipIdx.map (fun p => p.1 ^^^ d.getD (p.2 % 5) 0)
  let b := (List.range 25).foldl (fun l k =>
    let x := k % 5
    let y := k / 5
    l.set (y + 5 * ((2 * x + 3 * y) % 5)) (keccakTurn (t.getD k 0) (keccakRot.getD k 0))) (List.replicate 25 0)
  let r := (List.range 25).map (fun k =>
    let h := fun x => b.getD (x % 5 + 5 * (k / 5)) 0
    h (k % 5) ^^^ ((2 ^ 64 - 1 - h (k % 5 + 1)) &&& h (k % 5 + 2)))
  r.set 0 (r.getD 0 0 ^^^ keccakRc round)

/-- Absorbs one block. -/
def keccakBlock (a : List Nat) (b : Bytes) : List Nat :=
  let a := a.zipIdx.map (fun p => p.1 ^^^ fld b (8 * p.2) 8)
  (List.range 24).foldl keccakRound a

-- ---------------------------------------------------------------- by algorithm number (R414)

/-- Block and digest length of an algorithm. -/
def digBlock (alg : Nat) : Nat := [0, 64, 128, 128, 136, 72].getD alg 0
def digLen (alg : Nat) : Nat := [0, 32, 48, 64, 32, 64].getD alg 0

/-- The state before the first block. -/
def digInit (alg : Nat) : List Nat :=
  match alg with
  | 1 => (primes80.take 8).map (fun p => sqrtFrac p / 2 ^ 32)
  | 2 => ((primes80.drop 8).take 8).map sqrtFrac
  | 3 => (primes80.take 8).map sqrtFrac
  | _ => List.replicate 25 0

/-- Absorbs one block. -/
def digOne (alg : Nat) (h : List Nat) (b : Bytes) : List Nat :=
  match alg with
  | 1 => sha256.block h b
  | 2 => sha512.block h b
  | 3 => sha512.block h b
  | _ => keccakBlock h b

/-- Absorbs whole blocks. -/
def digBlocks (alg : Nat) : Nat → List Nat → Bytes → List Nat
  | 0, h, _ => h
  | n + 1, h, b => digBlocks alg n (digOne alg h (b.take (digBlock alg))) (b.drop (digBlock alg))

/-- The padding of a message of `total` bytes. -/
def digPad (alg total : Nat) : Bytes :=
  let k := digBlock alg
  if 4 ≤ alg then
    let n := k - total % k
    if n = 1 then [0x86] else [0x06] ++ zeros (n - 2) ++ [0x80]
  else
    let l := if alg = 1 then 8 else 16
    let z := (2 * k - 1 - l - total % k) % k
    [0x80] ++ zeros z ++ beBytes l (8 * total)

/-- The digest of a state. -/
def digOut (alg : Nat) (h : List Nat) : Bytes :=
  ((if alg = 1 then (h.map (beBytes 4)).flatten else if 4 ≤ alg then (h.map (leBytes 8)).flatten
    else (h.map (beBytes 8)).flatten)).take (digLen alg)

/-- Ends a message: the state after `before` bytes, and the bytes after them. -/
def digEnd (alg : Nat) (h : List Nat) (before : Nat) (b : Bytes) : Bytes :=
  let m := b ++ digPad alg (before + b.length)
  digOut alg (digBlocks alg (m.length / digBlock alg) h m)

def sha384 (b : Bytes) : Bytes := digEnd 2 (digInit 2) 0 b

/-- HMAC-SHA-384 (RFC 2104) of a key of at most a block. -/
def hmac384 (key m : Bytes) : Bytes :=
  let k := padTo (if 128 < key.length then sha384 key else key) 128
  sha384 (k.map (· ^^^ 0x5C) ++ sha384 (k.map (· ^^^ 0x36) ++ m))

/-- HKDF-SHA-384 extract, and an expand of at most 48 bytes (RFC 5869, R385). -/
def hkdfExtract (salt ikm : Bytes) : Bytes := hmac384 salt ikm
def hkdfExpand (prk info : Bytes) (n : Nat) : Bytes := (hmac384 prk (info ++ [1])).take n

end Sys2Proof.Machine
end

