-- ==== Sys2Proof/Machine/FabCore.lean ====
section
/-! DEFINITION. The Ahnig transport's shared parts: seals, frames on the wire, paths, acknowledgements, inbox slabs and
credit, and the Slipcase's key exchange (R280, R288–R304, R383–R386). -/
namespace Sys2Proof.Machine

-- ---------------------------------------------------------------- AES-256-GCM (R289)

/-- The tag of a ciphertext. -/
def sealTag (key nonce aad ct : Bytes) : Bytes :=
  let h := ofBe (aesEnc key (zeros 16))
  let g := ghash h (ghash h (ghash h 0 aad) ct) (beBytes 8 (8 * aad.length) ++ beBytes 8 (8 * ct.length))
  xorB (beBytes 16 g) (aesEnc key (nonce ++ beBytes 4 1))

/-- The key stream of GCM, from counter 2. -/
def gcmCtr (key nonce d : Bytes) : Bytes :=
  ctrBlocks key (fun x => incr32 x 1) (blocks16 d) (ofBe (nonce ++ beBytes 4 2))

/-- Ciphertext and tag. -/
def gcmSeal (key nonce aad d : Bytes) : Bytes := let ct := gcmCtr key nonce d; ct ++ sealTag key nonce aad ct

/-- The plaintext of an authentic payload. -/
def gcmOpen (key nonce aad ct tag : Bytes) : Option Bytes :=
  if sealTag key nonce aad ct = tag then some (gcmCtr key nonce ct) else none

-- ---------------------------------------------------------------- ports (R277, R280, R310)

def groupBase (p : Nat) : Nat := 0x610000 + 0x1000 * (p / 16)
/-- A counter of port `p` at its 0x40 block. The blocks of lanes 12–15 have the offsets of the address registers of lanes 0–3
(R310): a read there gives the address register, and those ports' counters are kept outside the BAR (DESIGN CHOICE,
log 91). -/
def portReg (p off : Nat) : Nat :=
  if p % 16 < 12 then groupBase p + 0x100 + 0x40 * (p % 16) + off else 0x618000 + 0x40 * p + off
/-- An address register of port `p`. -/
def portAddrOff (p off : Nat) : Nat := groupBase p + 0x400 + 0x40 * (p % 16) + off

def State.portMac (s : State) (p : Nat) : Nat := s.reg (portAddrOff p 0) % 2 ^ 48
def State.portIp6 (s : State) (p : Nat) : Nat :=
  ofBe (leBytes 8 (s.reg (portAddrOff p 8)) ++ leBytes 8 (s.reg (portAddrOff p 0x10)))
def State.portIp4 (s : State) (p : Nat) : Nat := ofBe (leBytes 4 (s.reg (portAddrOff p 0x18)))
/-- The address of a port in a family, as a 128-bit number; zero for none. -/
def State.portIp (s : State) (p fam : Nat) : Nat :=
  if fam = 4 then (if s.portIp4 p = 0 then 0 else 0xFFFF * 2 ^ 32 + s.portIp4 p) else s.portIp6 p

/-- A port that goes down forgets what its peer paused, and what waited to be sent. -/
def FabPort.goDown (p : FabPort) (st : Nat) (lost : List Nat) : FabPort :=
  { p with state := st, lost := lost, paused := 0, ignore := 0, held := [], ucw := [] }

def State.fabPort? (s : State) (p : Nat) : Option FabPort := Tab.find s.fab.ports p
def State.portUp (s : State) (p : Nat) : Bool := ((s.fabPort? p).map (fun x => x.state == 2)).getD false
def State.updPort (s : State) (p : Nat) (f : FabPort → FabPort) : State :=
  { s with fab := { s.fab with ports := Tab.upd s.fab.ports p f } }
/-- The rate of a port in 2^-16 MB/s: 200GbE, 25,000 MB/s, for each lane (R278, R295). -/
def State.portRate (s : State) (p : Nat) : Nat := ((s.fabPort? p).map (·.lanes)).getD 1 * 25000 * 65536

def State.fabPcp (s : State) : Nat := s.regField offFabCfg 26 24
def segBytes (v : Nat) : Nat := [1024, 4096, 8192].getD v 8192

-- ---------------------------------------------------------------- the wire (R288, R290)

/-- The ones' complement checksum of big-endian 16-bit words. -/
def inetSum (b : Bytes) : Nat :=
  let n := ((groups 2 (b.length / 2 + 1) b).map (fun p => ofBe (padTo p 2))).foldl (· + ·) 0
  0xFFFF - (if n = 0 then 0 else (n - 1) % 65535 + 1)

/-- UDP header and payload between two addresses. -/
def udpBytes (pseudo : Bytes) (sport dport : Nat) (d : Bytes) : Bytes :=
  let len := 8 + d.length
  let head := beBytes 2 sport ++ beBytes 2 dport ++ beBytes 2 len
  let c := inetSum (pseudo ++ head ++ zeros 2 ++ d)
  head ++ beBytes 2 (if c = 0 then 0xFFFF else c) ++ d

/-- The addresses of a packet, as its header holds them. -/
def ipAddrs (fam src dst : Nat) : Bytes :=
  if fam = 4 then beBytes 4 (src % 2 ^ 32) ++ beBytes 4 (dst % 2 ^ 32) else beBytes 16 src ++ beBytes 16 dst

/-- The pseudo-header that a checksum of an upper protocol covers. -/
def ipPseudo (fam src dst proto len : Nat) : Bytes :=
  ipAddrs fam src dst ++ (if fam = 4 then [0, BitVec.ofNat 8 proto] ++ beBytes 2 len
    else beBytes 4 len ++ [0, 0, 0, BitVec.ofNat 8 proto])

/-- IPv4 or IPv6 packet of a protocol. -/
def ipPacket (fam src dst tos hops proto : Nat) (d : Bytes) : Bytes :=
  let sd := ipAddrs fam src dst
  if fam = 4 then
    let h1 := [0x45, BitVec.ofNat 8 tos] ++ beBytes 2 (20 + d.length)
      ++ [0, 0, 0x40, 0, BitVec.ofNat 8 hops, BitVec.ofNat 8 proto]
    h1 ++ beBytes 2 (inetSum (h1 ++ zeros 2 ++ sd)) ++ sd ++ d
  else
    beBytes 4 (6 * 2 ^ 28 + tos % 256 * 2 ^ 20) ++ beBytes 2 d.length ++ [BitVec.ofNat 8 proto, BitVec.ofNat 8 hops] ++ sd ++ d

/-- IPv4 or IPv6 packet with a UDP datagram, as R290 fills it. -/
def ipBytes (fam src dst tos sport dport : Nat) (d : Bytes) : Bytes :=
  ipPacket fam src dst tos 64 17 (udpBytes (ipPseudo fam src dst 17 (8 + d.length)) sport dport d)

def etherIp (fam : Nat) : Bytes := if fam = 4 then [0x08, 0x00] else [0x86, 0xDD]

/-- Priorities that a port may not send now: the peer holds them paused, and PFC is on for them (R287). -/
def State.pausedAt (s : State) (p : FabPort) (k : Nat) : Bool := bitAt (s.regField offFabCfg 15 8) k && bitAt p.paused k

/-- A port sends what waits on it, in order, but frames of a paused priority (R287). -/
def State.flushPort (s : State) (port : Nat) : State :=
  match s.fabPort? port with
  | none => s
  | some p =>
    let go := p.held.filter (fun x => !s.pausedAt p x.1)
    let s := s.updPort port (fun p => { p with held := p.held.filter (fun x => s.pausedAt p x.1) })
    go.foldl (fun s x => (s.count (portReg port 0x18) 1).emit (.frame port x.2)) s

/-- A frame of a priority goes out on a port that is up; one of a paused priority waits there (R287). -/
def State.transmit (s : State) (port prio : Nat) (b : Bytes) : State :=
  if s.portUp port then (s.updPort port (fun p => { p with held := p.held ++ [(prio, b)] })).flushPort port else s

/-- Sends an Ahnig datagram from a port that has its addresses (R280); the next hop's MAC address is Efura's to resolve, a
free value. The FCS is the MAC's. -/
def State.sendWire (s : State) (port fam dst hash : Nat) (data : Bool) (d : Bytes) : State :=
  if s.portMac port = 0 ∨ s.portIp port fam = 0 then s
  else
    let (mac, s) := s.freshBytes 6
    let tos := s.regField offFabCfg 21 16 * 4 + (if data then 2 else 0)
    let pkt := ipBytes fam (s.portIp port fam) dst tos (0xC000 ||| hash % 2 ^ 14) s.fab.udp d
    let eth := mac ++ leBytes 6 (s.portMac port) ++ [0x81, 0x00] ++ beBytes 2 (s.fabPcp * 2 ^ 13) ++ etherIp fam
    s.transmit port s.fabPcp (eth ++ pkt)

/-- The 32-byte Ahnig header. -/
def ahnigHeader (typ flags path tag seq off psn len : Nat) : Bytes :=
  [BitVec.ofNat 8 (16 + typ), BitVec.ofNat 8 flags] ++ leBytes 2 path ++ leBytes 4 tag ++ leBytes 8 seq ++ leBytes 8 off
    ++ leBytes 4 psn ++ leBytes 2 len ++ zeros 2

-- ---------------------------------------------------------------- associations and paths (R291, R294)

def State.assoc? (s : State) (a : Nat) : Option Assoc := Tab.find s.assocs a
def State.updAssoc (s : State) (a : Nat) (f : Assoc → Assoc) : State := { s with assocs := Tab.upd s.assocs a f }
def Assoc.path (x : Assoc) (p : Nat) : Path := x.paths.getD p { lane := 0, family := 6, ip := 0 }
def State.updPath (s : State) (a p : Nat) (f : Path → Path) : State :=
  s.updAssoc a (fun x => { x with paths := x.paths.modify p f })

/-- Can a port send Ahnig frames of a family: it is up with its MAC address and an address of the family (R280)? -/
def State.portSends (s : State) (p fam : Nat) : Bool := s.portUp p && s.portMac p != 0 && s.portIp p fam != 0
/-- Can a path carry frames: its port sends its family, and it is not SUSPECT (R280, R294)? -/
def State.usable (s : State) (p : Path) : Bool := s.portSends p.lane p.family && !p.suspect
/-- Is a path eligible now: usable, and its pacing allows a frame (R294)? -/
def State.eligible (s : State) (p : Path) : Bool := s.usable p && decide (p.next ≤ s.timebase)

/-- The eligible path with the earliest send time, the lowest number on a tie; `but` is avoided where another exists. -/
def State.pickPath (s : State) (x : Assoc) (but : Option Nat) : Option Nat :=
  let ok := (List.range x.paths.length).filter (fun p => s.eligible (x.path p))
  let best := fun (l : List Nat) => l.foldl (fun (b : Option Nat) p => match b with
    | none => some p
    | some q => if (x.path p).next < (x.path q).next then some p else some q) none
  match best (ok.filter (fun p => some p != but)) with
  | some p => some p
  | none => best ok

/-- May this direction send: it has a key and its NONCE_SEQ is below the limit (R305)? -/
def Assoc.maySend (x : Assoc) : Bool := x.txKey != [] && decide (x.txSeq < 2 ^ 64 - 1)

/-- OPEN and HELD follow the paths and the counter (R294, R305). -/
def State.rehold (s : State) (a : Nat) : State :=
  match s.assoc? a with
  | none => s
  | some x =>
    let live := x.paths.any s.usable && x.maySend
    if x.state = 2 ∧ !live then s.updAssoc a (fun x => { x with state := 5 })
    else if x.state = 5 ∧ live then s.updAssoc a (fun x => { x with state := 2 })
    else s

-- ---------------------------------------------------------------- the Slipcase's exchange messages (R383, R384)

/-- The local fabric domain. -/
def State.domain (s : State) : Bytes := ((s.col.domain).map (·.domain)).getD (zeros 16)

/-- The 512 bytes of an ESTABLISH payload. -/
def estBytes (msg epoch reason xid tag box remote : Nat) (domain random eph : Bytes) : Bytes :=
  [BitVec.ofNat 8 msg, BitVec.ofNat 8 epoch, BitVec.ofNat 8 reason, 0] ++ leBytes 4 xid ++ leBytes 4 tag ++ leBytes 2 box
    ++ leBytes 2 remote ++ padTo domain 16 ++ padTo random 32 ++ padTo eph 96 ++ serialBytes ++ padTo (Config.pub 0) 96
    ++ padTo Config.endorse 96 ++ zeros 96 ++ zeros 48

def estSign (b : Bytes) (sig : Bytes) : Bytes := b.take 0x170 ++ padTo sig 96 ++ b.drop 0x1D0
def estUnsigned (b : Bytes) : Bytes := estSign b []

/-- The path of an association that a port and a peer address name; 0 where none does. -/
def Assoc.pathAt (x : Assoc) (port src : Nat) : Nat :=
  ((findIdxFrom (fun (q : Path) => q.lane == port && q.ip == src) x.paths 0).map (·.1)).getD 0

/-- Sends an ESTABLISH frame on a path of an association (R290, R383). -/
def State.sendEst (s : State) (a path port fam dst : Nat) (p : Bytes) : State :=
  s.sendWire port fam dst (Config.pathHash a path) false (ahnigHeader 0xF 0 path 0 0 0 0 512 ++ p)

/-- Sends an ESTABLISH frame on each named path of an association. -/
def State.sendEstAll (s : State) (a : Nat) (x : Assoc) (p : Bytes) : State :=
  x.paths.zipIdx.foldl (fun s q => if s.portUp q.1.lane then s.sendEst a q.2 q.1.lane q.1.family q.1.ip p else s) s

/-- Answers an ESTABLISH frame on the port and to the address that it came from. -/
def State.answerEst (s : State) (a port src : Nat) (p : Bytes) : State :=
  s.sendEst a (((s.assoc? a).map (·.pathAt port src)).getD 0) port (if src / 2 ^ 32 = 0xFFFF then 4 else 6) src p

/-- A fresh 384-bit number, as a handle of a private key. -/
def State.freshKey (s : State) : Nat × State :=
  let (b, s) := s.freshBytes 48
  (ofLe b, s)

/-- Starts an exchange as its initiator: HELLO goes out on every path. -/
def State.hello (s : State) (a epoch : Nat) : State :=
  match s.assoc? a with
  | none => s
  | some x =>
    let (xid, s) := s.fresh
    let (rand, s) := s.freshBytes 32
    let (eph, s) := s.freshKey
    let h := estBytes 1 epoch 0 (xid.toNat % 2 ^ 32) x.tag x.local_ x.remote s.domain rand (Config.pub eph)
    let s := s.updAssoc a (fun x => { x with
      est := some { initiator := true, xid := xid.toNat % 2 ^ 32, eph := eph, hello := h } })
    s.sendEstAll a x h

/-- Is a rekey of an association to start, and may it: the old receive key is gone and none is under way (R304)? -/
def Assoc.rekeyWaits (x : Assoc) : Bool :=
  (x.rekeyAsk || x.rekeyDue) && (x.state == 2 || x.state == 5) && x.est.isNone && x.rx.length == 1 && x.txNext.isNone

/-- The association with the oldest epoch among those whose rekey waits (R386). -/
def State.oldestRekey (s : State) : Option (Nat × Assoc) :=
  (s.assocs.filter (fun p => p.2.rekeyWaits)).foldl (fun (b : Option (Nat × Assoc)) p => match b with
    | none => some p
    | some q => if p.2.epochAt < q.2.epochAt then some p else some q) none

/-- Rekeys that wait start, oldest epoch first, at most 64 in a second, while the Slipcase runs (R386). -/
def State.startRekeys (s : State) : Nat → State
  | 0 => s
  | n + 1 =>
    match s.oldestRekey with
    | none => s
    | some (a, x) =>
      let (t, k) := s.fab.rekeys
      let fresh := decide (t + 1000000000 ≤ s.timebase)
      if !s.slcUp || !fresh && decide (64 ≤ k) then s
      else
        let w := if fresh then (s.timebase, 1) else (t, k + 1)
        State.startRekeys ({ s with fab := { s.fab with rekeys := w } }.hello a ((x.txEpoch + 1) % 2)) n

/-- A rekey of an association is asked for; it starts as soon as it may (R304, R386). -/
def State.startRekey (s : State) (a : Nat) : State :=
  (s.updAssoc a (fun x => { x with rekeyAsk := true })).startRekeys s.assocs.length

/-- A counter of an association has reached 2^63 (R304). -/
def State.counterDue (s : State) (a : Nat) : State :=
  (s.updAssoc a (fun x => { x with rekeyDue := true })).startRekey a

-- ---------------------------------------------------------------- sending a frame (R289, R304)

/-- Sends a sealed frame on a path; its NONCE_SEQ is spent. At 2^63 a rekey is due; at the last value the direction
stops (R304, R305). -/
def State.sendSealed (s : State) (a p typ flags off psn : Nat) (d : Bytes) : State :=
  match s.assoc? a with
  | none => s
  | some x =>
    if !x.maySend then s
    else
      let q := x.path p
      let h := ahnigHeader typ (flags ||| x.txEpoch) p x.peerTag x.txSeq off psn d.length
      let body := h ++ gcmSeal x.txKey (x.txSalt ++ leBytes 8 x.txSeq) h d
      let rate := max 1 (q.rate / 65536)
      let s := s.sendWire q.lane q.family q.ip (Config.pathHash a p) (typ == 1) body
      let s := s.updAssoc a (fun x => { x with txSeq := x.txSeq + 1 })
      let s := if typ = 1 then
          s.updPath a p (fun q => { q with next := max q.next s.timebase + ceilDiv ((body.length + 100) * 1000) rate })
        else s
      let s := if x.txSeq + 1 = 2 ^ 63 then s.counterDue a else s
      if x.txSeq + 1 = 2 ^ 64 - 1 then s.rehold a else s

-- ---------------------------------------------------------------- inbox slabs and credit (R296, R297, R299)

def boxKey (i box : Nat) : Nat := i * 4096 + box
def Assoc.box (x : Assoc) : Nat := boxKey x.inst x.local_
/-- Associations that feed an inbox, rising. -/
def State.feeders (s : State) (k : Nat) : List Nat := (s.assocs.filter (fun p => p.2.box == k)).map (·.1)
def Inbox.slabs (b : Inbox) : Nat := b.len / 65536

/-- Free slabs of an inbox. -/
def State.freeSlabs (s : State) (k : Nat) : List Nat :=
  match Tab.find s.inboxes k with
  | none => []
  | some b =>
    let used := ((s.assocs.filter (fun p => p.2.box == k)).map (fun p => p.2.slabs.map (·.2))).flatten
    (List.range b.slabs).filter (fun n => !used.contains n)

/-- The device address of a stream offset in an inbox. -/
def State.boxAddr (s : State) (x : Assoc) (off : Nat) : Nat :=
  match Tab.find s.inboxes x.box, Tab.find x.slabs (off / 65536) with
  | some b, some n => b.base + 65536 * n + off % 65536
  | _, _ => 2 ^ 48

/-- Grants an association the lowest free slab (log 15). -/
def State.grantSlab (s : State) (a : Nat) : State :=
  match s.assoc? a with
  | none => s
  | some x =>
    match (s.freeSlabs x.box).head? with
    | none => s
    | some n => s.updAssoc a (fun x => { x with slabs := Tab.set x.slabs x.granted n, granted := x.granted + 1 })

/-- Keeps 128 KiB granted beyond the last complete message of an association, while slabs are free. -/
def State.keepSlabs (s : State) (a : Nat) : Nat → State
  | 0 => s
  | n + 1 =>
    match s.assoc? a with
    | none => s
    | some x =>
      if 65536 * x.granted < x.inEnd + 131072 ∧ s.freeSlabs x.box ≠ [] then State.keepSlabs (s.grantSlab a) a n else s

/-- Grants free slabs 64 KiB at a time, round-robin among associations with a backlog, up to 4 MiB beyond the last
complete message; two slabs for each association stay in hand for the 128 KiB rule. -/
def State.grantRound (s : State) (k : Nat) : Nat → State
  | 0 => s
  | n + 1 =>
    let fs := s.feeders k
    let want := fs.filter (fun a => match s.assoc? a with
      | some x => decide (0 < x.backlog) && decide (65536 * (x.granted + 1) ≤ x.inEnd + 4194304)
      | none => false)
    let rr := ((Tab.find s.inboxes k).map (·.rr)).getD 0
    match (want.find? (fun a => decide (rr < a))).orElse (fun _ => want.head?) with
    | none => s
    | some a =>
      if (s.freeSlabs k).length ≤ 2 * fs.length then s
      else
        let s := s.grantSlab a
        State.grantRound { s with inboxes := Tab.upd s.inboxes k (fun b => { b with rr := a }) } k n

/-- Ranges of received PSNs above CUM_PSN, ascending. -/
def sackRanges : List Nat → List (Nat × Nat)
  | [] => []
  | p :: r =>
    match sackRanges r with
    | (lo, hi) :: t => if p + 1 = lo then (p, hi) :: t else (p, p) :: (lo, hi) :: t
    | [] => [(p, p)]

/-- Committed bytes that wait to be sent. -/
def Assoc.waiting (x : Assoc) : Nat := x.outEnd - x.sent

/-- Sends an ACK on the path of the latest DATA frame (R296, R301). -/
def State.sendAck (s : State) (a : Nat) : State :=
  match s.assoc? a with
  | none => s
  | some x =>
    let sack := (sackRanges (sortBy (fun a b => decide (a ≤ b)) x.got)).take 8
    let body := leBytes 4 x.cum ++ leBytes 1 sack.length ++ zeros 3 ++ leBytes 8 (65536 * x.granted)
      ++ leBytes 4 (min (2 ^ 32 - 1) (ceilDiv x.waiting 65536)) ++ zeros 12
      ++ padTo ((sack.map (fun r => leBytes 4 r.1 ++ leBytes 4 r.2)).flatten) 64
      ++ ((List.range 16).map (fun p => let r := Tab.get x.rxRep p (0, 0); leBytes 4 r.1 ++ leBytes 4 r.2)).flatten
    let s := s.updAssoc a (fun x => { x with ackRun := 0, ackLimit := 65536 * x.granted, rxRep := [] })
    s.sendSealed a x.ackPath 2 0 0 0 body

/-- Grants of an inbox, and the ACKs of associations whose limit rose by 64 KiB or more (R299, R301). -/
def State.grantBox (s : State) (k : Nat) : State :=
  let n := ((Tab.find s.inboxes k).map Inbox.slabs).getD 0
  let fs := s.feeders k
  let s := fs.foldl (fun s a => s.keepSlabs a n) s
  let s := s.grantRound k n
  fs.foldl (fun s a => match s.assoc? a with
    | some x => if x.ackLimit + 65536 ≤ 65536 * x.granted ∧ x.rx ≠ [] then s.sendAck a else s
    | none => s) s

/-- Frees the slabs that no remaining message and no later byte of the stream needs (R300). -/
def State.freeSlabsOf (s : State) (a : Nat) : State :=
  match s.assoc? a with
  | none => s
  | some x =>
    let keep := fun k => decide (x.inEnd < 65536 * (k + 1))
      || x.msgs.any (fun m => decide (m.off < 65536 * (k + 1)) && decide (65536 * k < m.off + m.len))
    (s.updAssoc a (fun x => { x with slabs := x.slabs.filter (fun p => keep p.1) })).grantBox x.box

end Sys2Proof.Machine
end

