-- ==== Sys2Proof/Machine/Ready.lean ====
section
/-! DEFINITION. Ready leaves: tables of runs, leaves, engines and quires, costs and credits, the dispatch trace, slots, heads
of groups and reservations (R39, R190–R196, R200, R203, R204, R207–R211, R366). -/
namespace Sys2Proof.Machine

-- ---------------------------------------------------------------- tables

def runKey (i sub : Nat) : Nat := i * 2 ^ 17 + sub
/-- The leaf identifier (R39). -/
def leafId (i sub sig ord : Nat) : Nat := i * 2 ^ 57 + sub * 2 ^ 40 + sig * 2 ^ 30 + ord
def Leaf.id (l : Leaf) : Nat := leafId l.inst l.sub l.sig l.ord
def Leaf.run (l : Leaf) : Nat := runKey l.inst l.sub

def State.run? (s : State) (k : Nat) : Option Run := Tab.find s.runs k
def State.updRun (s : State) (k : Nat) (f : Run → Run) : State := { s with runs := Tab.upd s.runs k f }
def Run.sig (r : Run) (i : Nat) : SigRun := r.sigs.getD i {}
def State.updSig (s : State) (k i : Nat) (f : SigRun → SigRun) : State :=
  s.updRun k (fun r => { r with sigs := r.sigs.set i (f (r.sig i)) })
def State.leaf? (s : State) (id : Nat) : Option Leaf := Tab.find s.leaves id
def State.updLeaf (s : State) (id : Nat) (f : Leaf → Leaf) : State := { s with leaves := Tab.upd s.leaves id f }

def State.engOf (s : State) (e : Nat) : Eng := Tab.get s.eng e {}
def State.updEng (s : State) (e : Nat) (f : Eng → Eng) : State := { s with eng := Tab.set s.eng e (f (s.engOf e)) }
def State.engRun (s : State) (e : Nat) : Option EngRun := (s.engOf e).run
def State.setRun (s : State) (e : Nat) (r : EngRun) : State := s.updEng e (fun x => { x with run := some r })

def State.quire (s : State) (q : Nat) : Quire := Tab.get s.quires q {}
def State.updQuire (s : State) (q : Nat) (f : Quire → Quire) : State :=
  { s with quires := Tab.set s.quires q (f (s.quire q)) }

/-- Leaves of a signature of a run that hold a slot. -/
def State.alive (s : State) (k sig : Nat) : Bool := s.leaves.any (fun p => p.2.run == k && p.2.sig == sig)

/-- Slots an instance holds (R191). -/
def State.slotsUsed (s : State) (i : Nat) : Nat := (s.leaves.filter (fun p => p.2.inst == i)).length

-- ---------------------------------------------------------------- costs, credit, true-up (R194–R196, R366)

def State.cost (s : State) (cls : Nat) : Nat := s.reg (offCost cls)
def State.credCap (s : State) (q : Nat) : Nat := s.reg (offQCap q)
def State.defMax (s : State) : Nat := s.reg offDefMax
def State.largestCost (s : State) : Nat := ((List.range 8).map s.cost).foldl max 0

/-- A value clamped to [−c, c]. -/
def clamp (c : Nat) (v : Int) : Int := max (-(c : Int)) (min (c : Int) v)

/-- The sum of the last refills, and the ceiling of an instance's energy account (R366). -/
def State.refillSum (s : State) : Nat := ((List.range 16).map (fun q => (s.quire q).refill)).foldl (· + ·) 0
def State.energyCap (s : State) (x : Inst) : Nat := max (4 * (x.alloc.share * s.refillSum / 1000)) s.largestCost

/-- Adds to an instance's energy account, where it has one. -/
def State.addEnergy (s : State) (i : Nat) (v : Int) : State :=
  s.updInst i (fun x => if x.alloc.share = 0 then x else { x with energy := clamp (s.energyCap x) (x.energy + v) })

def State.addCredit (s : State) (q : Nat) (v : Int) : State :=
  s.updQuire q (fun x => { x with credit := clamp (s.credCap q) (x.credit + v) })

def State.addDeficit (s : State) (g : Nat) (v : Int) : State :=
  { s with groups := Tab.upd s.groups g (fun x =>
      if x.urgent then x else { x with deficit := clamp s.defMax (x.deficit + v) }) }

/-- The energy of an attempt in nJ: 0.185 nJ for each Thumb bank searched (R158) beside what the activity counters measure,
which is a free value (R196; log 30). -/
def attemptEnergy (banks measured : Nat) : Nat := banks * 185 / 1000 + measured

/-- The true-up at the end of an attempt that searched `banks` Thumb banks (R196). -/
def State.trueUp (s : State) (l : Leaf) (banks : Nat) : State :=
  let (e, s) := s.fresh
  let v : Int := (s.cost l.cls : Int) - attemptEnergy banks e.toNat
  ((s.addCredit (l.engine / 16) v).addDeficit l.group v).addEnergy l.inst v

-- ---------------------------------------------------------------- the dispatch trace (R207–R211)

/-- The control register of a ring: 0 the device ring, i + 1 the ring of instance i. -/
def ringCtl (k : Nat) : Nat := if k = 0 then offTrcCtrl else offTrcInstCtrl (k - 1)
def ringInst (k : Nat) : Nat := k - 1

/-- A ring write faults: the ring is disabled, ERR is set and the fault is logged (R210). -/
def State.ringFault (s : State) (k : Nat) : State :=
  let s := s.setReg (ringCtl k) ((s.reg (ringCtl k) / 2 * 2) ||| 8)
  let s := { s with coll := { s.coll with rings := Tab.del s.coll.rings k, backlog := s.coll.backlog.filter (fun p => p.1 != k) } }
  s.logFh { kind := 0x0A05, outcome := 7, resType := 0x0C, resIdx := 0, inst := ringInst k, data := leBytes 4 k }

/-- Writes the header of a ring that has just been enabled (R207); `false`: its page must be restored first. -/
def State.ringHeader (s : State) (k : Nat) : Bool × State :=
  match Tab.find s.coll.rings k with
  | none => (true, s)
  | some g =>
    if !g.fresh then (true, s)
    else match s.devWrite .trace (ringInst k) g.base (zeros 24 ++ leBytes 1 g.size ++ zeros 39) with
      | .wait s => (false, s)
      | .fail _ _ s => (true, s.ringFault k)
      | .ok _ s => (true, { s with coll := { s.coll with rings := Tab.set s.coll.rings k { g with fresh := false } } })

/-- Writes one trace record to its ring, whose header stands; `false`: its page must be restored first. Under MODE STOP
CONS is read again only when the ring appears full (R210). -/
def State.ringRecord (s : State) (k : Nat) (entry_ : Bytes) : Bool × State :=
  match Tab.find s.coll.rings k with
  | none => (true, s)
  | some g =>
    let i := ringInst k
    let put := fun (s : State) (g : Ring) => { s with coll := { s.coll with rings := Tab.set s.coll.rings k g } }
    let write := fun (s : State) (g : Ring) =>
      match s.devWrite .trace i (g.base + 64 + 32 * (g.prod % 2 ^ g.size)) entry_ with
      | .wait s => (false, s)
      | .fail _ _ s => (true, s.ringFault k)
      | .ok _ s =>
        match s.devWrite .trace i g.base (leBytes 8 (g.prod + 1)) with
        | .wait s => (false, s)
        | .fail _ _ s => (true, s.ringFault k)
        | .ok _ s => (true, put s { g with prod := g.prod + 1 })
    let lose := fun (s : State) (g : Ring) =>
      match s.devWrite .trace i (g.base + 16) (leBytes 8 (g.lost + 1)) with
      | .wait s => (false, s)
      | .fail _ _ s => (true, s.ringFault k)
      | .ok _ s => (true, put s { g with lost := g.lost + 1 })
    if bitAt (s.reg (ringCtl k)) 1 || decide (g.prod < g.cons + 2 ^ g.size) then write s g
    else
      match s.devRead .trace i (g.base + 8) 8 with
      | .wait s => (false, s)
      | .fail _ _ s => lose s g
      | .ok b s =>
        let g := { g with cons := ofLe b }
        if g.prod < g.cons + 2 ^ g.size then write s g else lose s g

/-- Writes one trace record to its ring, after the header of a new one. -/
def State.ringWrite (s : State) (k : Nat) (entry_ : Bytes) : Bool × State :=
  match s.ringHeader k with
  | (true, s) => s.ringRecord k entry_
  | (false, s) => (false, s)

/-- Takes a record off the front of the waiting ones, if it is still there. -/
def dropFront (l : List (Nat × Bytes)) (x : Nat × Bytes) : List (Nat × Bytes) :=
  match l with
  | y :: r => if y = x then r else l
  | [] => []

/-- Writes waiting records in order, as far as their pages are in place. -/
def State.traceFlush (s : State) : Nat → State
  | 0 => s
  | n + 1 =>
    match s.coll.backlog with
    | [] => s
    | x :: _ =>
      match s.ringWrite x.1 x.2 with
      | (true, s) => State.traceFlush { s with coll := { s.coll with backlog := dropFront s.coll.backlog x } } n
      | (false, s) => s

/-- A signed 32-bit field. -/
def i32 (v : Int) : Bytes := leBytes 4 (unsigned v 32)

/-- Writes the waiting records as far as their pages are in place. -/
def State.flushTrace (s : State) : State := s.traceFlush s.coll.backlog.length

/-- After a restore, headers and records that waited for a page are written. -/
def State.traceRestored (s : State) : State :=
  (s.coll.rings.foldl (fun s (p : Nat × Ring) => if p.2.fresh then (s.ringHeader p.1).2 else s) s).flushTrace

/-- A decision's record goes to the device ring and to the ring of its instance (R208, R209, R211). -/
def State.trace (s : State) (reason : Nat) (leaf : Option Leaf) (engine quire : Option Nat) (group : Option Nat)
    (inst : Option Nat) : State :=
  let cred := (quire.map (fun q => (s.quire q).credit)).getD 0
  let def_ := ((group.bind (fun g => Tab.find s.groups g)).map (fun (g : Group) => if g.urgent then 0 else g.deficit)).getD 0
  let entry_ := fun (show_ : Bool) =>
    leBytes 8 s.timebase ++ leBytes 8 ((leaf.map Leaf.id).getD 0) ++ leBytes 2 (engine.getD 0xFFFF)
    ++ leBytes 2 (group.getD 0xFFFF) ++ leBytes 1 (quire.getD 0xFF) ++ leBytes 1 ((leaf.map (·.cls)).getD 0xFF)
    ++ leBytes 1 reason ++ leBytes 1 (inst.getD 0xFF) ++ (if show_ then i32 cred else leBytes 4 0x80000000) ++ i32 def_
  let on := fun (k : Nat) => Tab.has s.coll.rings k && bitAt (s.reg (ringCtl k)) (16 + reason / 16)
  let dev := if on 0 then [(0, entry_ true)] else []
  let own := match inst with
    | some i => if on (i + 1) then [(i + 1, entry_ (bitAt (s.reg (ringCtl (i + 1))) 2))] else []
    | none => []
  if dev ++ own = [] then s
  else
    { s with coll := { s.coll with backlog := s.coll.backlog ++ dev ++ own } }.flushTrace

-- ---------------------------------------------------------------- slots (R191, R203)

/-- Free slots of an instance. -/
def State.slotsFree (s : State) (i : Nat) : Nat :=
  ((s.inst? i).map (fun x => x.alloc.slotLimit)).getD 0 - s.slotsUsed i

/-- The instance of the leaf that an engine runs. -/
def State.engInst (s : State) (e : Nat) : Option Nat := ((s.engRun e).bind (fun r => s.leaf? r.leaf)).map (·.inst)

/-- SPAWNs of an instance that wait, in order of arrival. -/
def State.spawnsOf (s : State) (i : Nat) : List Nat := s.coll.spawns.filter (fun e => s.engInst e == some i)

/-- An insertion or SPAWN of an instance begins to wait (R203, R209). -/
def State.beginSlotWait (s : State) (i : Nat) (l : Option Leaf) : State :=
  { s with slotWait := if s.slotWait.contains i then s.slotWait else s.slotWait ++ [i] }.trace 0x60 l none none none (some i)

/-- The waiting of an instance ends when neither a SPAWN nor an insertion of it waits (R203). -/
def State.endSlotWait (s : State) (i : Nat) : State :=
  if s.slotWait.contains i && s.spawnsOf i == [] && !s.coll.cutters.any (fun c => c.1 == i) then
    { s with slotWait := s.slotWait.filter (· != i) }.trace 0x61 none none none none (some i)
  else s

/-- The next order number of the ready lists (R190). -/
def State.nextSeq (s : State) : Int × State := (s.coll.seq, { s with coll := { s.coll with seq := s.coll.seq + 1 } })

-- ---------------------------------------------------------------- heads (R190, R197, R204)

/-- The completion queue of an instance that has a pool number (R192, R317). -/
def State.cqInPool (s : State) (i n : Nat) : Option Cq :=
  (s.inst? i).bind (fun x => (x.cqs.find? (fun p => p.2.pool == n)).map (·.2))

/-- Is a leaf passed over: its completion queue and its instance's hold are full (R204)? -/
def State.cqHeld (s : State) (l : Leaf) : Bool :=
  s.holdFull l.inst && ((s.cqInPool l.inst l.cq).map Cq.full).getD false

/-- The READY leaves of a group, first in first. -/
def State.readyOf (s : State) (g : Nat) : List Leaf :=
  sortBy (fun a b => decide (a.seq ≤ b.seq)) ((s.leaves.map (·.2)).filter (fun l => l.group == g && l.state == .ready))

/-- The head of a group: its first READY leaf that is not passed over. A group with a head is backlogged. -/
def State.headOf (s : State) (g : Nat) : Option Leaf := (s.readyOf g).find? (fun l => !s.cqHeld l)
def State.backlogged (s : State) (g : Nat) : Bool := (s.headOf g).isSome

-- ---------------------------------------------------------------- reservations (R200)

/-- Does a quire receive leaves: it is neither drained nor mapped out? -/
def State.quireOpen (s : State) (q : Nat) : Bool := !(s.quire q).drain && !s.col.mapQuires.contains q

/-- The tiers of a leaf: reason and quires. -/
def Leaf.tiers (l : Leaf) : List (Nat × List Nat) :=
  let all := List.range 16
  match l.home with
  | none => [(0x03, all)]
  | some h => [(0x01, [h]), (0x02, all.filter (fun q => q != h && q / 4 == h / 4)), (0x03, all.filter (fun q => q / 4 != h / 4))]

/-- The quires without a reservation. -/
def State.unreserved (s : State) : List Nat := (List.range 16).filter (fun q => !s.coll.grants.any (fun p => p.2 == q))

def State.group (s : State) (g : Nat) : Group := Tab.get s.groups g { inst := 0, local_ := 0 }

/-- Takes a group's reservation and its request away. -/
def Coll.unreserve (c : Coll) (g : Nat) : Coll :=
  { c with grants := c.grants.filter (fun p => p.1 != g), requests := c.requests.filter (· != g) }

/-- The quire that R200 selects for a group's head among those that are open and not reserved. -/
def State.selectQuire (s : State) (l : Leaf) : Option Nat :=
  let tier := fun (q : Nat) => (l.tiers.findIdx? (fun t => t.2.contains q)).getD 3
  let better := fun (a b : Nat) =>
    let x := s.quire a
    let y := s.quire b
    if x.refill ≠ y.refill then decide (y.refill < x.refill)
    else if x.credit ≠ y.credit then decide (y.credit < x.credit)
    else decide (tier a < tier b)
  ((List.range 16).filter (fun q => s.quireOpen q && s.unreserved.contains q)).foldl (fun (b : Option Nat) q => match b with
    | none => some q
    | some p => if better q p then some q else some p) none

/-- Grants a request, if a quire is free. -/
def State.grantResv (s : State) (g : Nat) : State :=
  match (s.headOf g).bind s.selectQuire with
  | none => s
  | some q =>
    let s := { s with coll := { s.coll with
      grants := s.coll.grants ++ [(g, q)], requests := s.coll.requests.filter (· != g) } }
    s.trace 0x20 none none (some q) (some g) (some (s.group g).inst)

/-- Grants the waiting requests in request order, as far as quires are free. -/
def State.grantWaiting (s : State) : State := s.coll.requests.foldl State.grantResv s

/-- The reservations and requests of groups that have stopped being backlogged end; a quire that this frees goes to the next
request (R200). -/
def State.cleanResv (s : State) : State :=
  { s with coll := { s.coll with
      grants := s.coll.grants.filter (fun p => s.backlogged p.1)
      requests := s.coll.requests.filter s.backlogged } }.grantWaiting

end Sys2Proof.Machine
end

