-- ==== Sys2Proof/Machine/Folio.lean ====
section
/-! DEFINITION. The folio format: header, directory, signatures, decisions, Trimmer programs, Thumb images and
partition maps, and the checks of Load Folio (R25–R34, R71–R75, R167, R168, R174, R175). -/
namespace Sys2Proof.Machine

-- ---------------------------------------------------------------- accessors (R26, R27)

def foSections (b : Bytes) : Nat := fld b 0xC 2
def foSigs (b : Bytes) : Nat := fld b 0xE 2
def foDecs (b : Bytes) : Nat := fld b 0x10 2
def foPolicy (b : Bytes) : Nat := fld b 0x12 1
def foMaxFail (b : Bytes) : Nat := fld b 0x14 4
def foId (b : Bytes) : Nat := fld b 0x18 8

def secType (b : Bytes) (k : Nat) : Nat := fld b (0x80 + 16 * k) 2
def secOff (b : Bytes) (k : Nat) : Nat := fld b (0x88 + 16 * k) 4
def secLen (b : Bytes) (k : Nat) : Nat := fld b (0x8C + 16 * k) 4

/-- The bytes of section `k`. -/
def section_ (b : Bytes) (k : Nat) : Bytes := (b.drop (secOff b k)).take (secLen b k)

/-- Does a directory position name a section of a type? -/
def secIs (b : Bytes) (k t : Nat) : Bool := decide (k < foSections b) && secType b k == t

/-- The position of the first section of a type. -/
def secFind (b : Bytes) (t : Nat) : Option Nat := (List.range (foSections b)).find? (fun k => secType b k == t)

/-- A signature table entry (R29). -/
structure SigInfo where
  idx    : Nat
  flags  : Nat
  source : Nat
  sink   : Nat
  cls    : Nat
  stepN  : Nat
  code   : Nat
  entry  : Nat
  const  : Nat
  trim   : Nat
  so     : Nat
  se     : Nat
  ko     : Nat
  ke     : Nat
  deps   : List Nat
  group  : Nat
  rows   : Nat      -- row limit
  bytes  : Nat      -- byte limit
  units  : Nat      -- LEAF_BYTES_4K
  zero   : Nat
deriving DecidableEq, Repr

def sigOf (e : Bytes) : SigInfo :=
  { idx := fld e 0 2, flags := fld e 2 2, source := fld e 4 1, sink := fld e 5 1, cls := fld e 6 1, stepN := fld e 7 1,
    code := fld e 8 2, entry := fld e 0xA 2, const := fld e 0xC 2, trim := fld e 0xE 2, so := fld e 0x10 8,
    se := fld e 0x18 8, ko := fld e 0x20 8, ke := fld e 0x28 8, deps := (List.range 4).map (fun k => fld e (0x30 + 2 * k) 2),
    group := fld e 0x38 2, rows := fld e 0x3A 2 + 1, bytes := fld e 0x3C 2 * 4096, units := fld e 0x3C 2, zero := fld e 0x3E 2 }

/-- Signature `i` of a folio. -/
def sigInfo (b : Bytes) (i : Nat) : SigInfo := sigOf (slice b (secOff b ((secFind b 1).getD 0) + 64 * i) 64)

def SigInfo.initial (g : SigInfo) : Bool := bitAt g.flags 0
def SigInfo.ordered (g : SigInfo) : Bool := bitAt g.flags 1
def SigInfo.vl256 (g : SigInfo) : Bool := bitAt g.flags 2
def SigInfo.alternative (g : SigInfo) : Bool := bitAt g.flags 3
/-- The step limit (R29, R47). -/
def SigInfo.limit (g : SigInfo) : Nat := if g.stepN = 0 then 2 ^ 22 else 2 ^ g.stepN
/-- The used DEPENDS slots: the signature named and its JOIN bit. -/
def SigInfo.needs (g : SigInfo) : List (Nat × Bool) :=
  (g.deps.filter (· != 0xFFFF)).map (fun w => (w % 1024, bitAt w 15))

/-- A decision table entry (R32). -/
structure DecInfo where
  idx    : Nat
  input  : Nat
  kind   : Nat
  alts   : Nat
  stream : Nat
  param  : Nat
  thr    : List Nat
  sigs   : List Nat
  hh     : Nat
  zero   : Bool
deriving DecidableEq, Repr

def decOf (e : Bytes) : DecInfo :=
  { idx := fld e 0 2, input := fld e 2 2, kind := fld e 4 1, alts := fld e 5 1, stream := fld e 6 1, param := fld e 7 1,
    thr := (List.range 3).map (fun k => fld e (8 + 8 * k) 8), sigs := (List.range 4).map (fun k => fld e (0x20 + 2 * k) 2),
    hh := fld e 0x28 1, zero := zeroAt e 0x29 23 }

def decInfo (b : Bytes) (d : Nat) : DecInfo := decOf (slice b (secOff b ((secFind b 7).getD 0) + 64 * d) 64)

/-- The alternatives that a decision uses. -/
def DecInfo.used (d : DecInfo) : List Nat := d.sigs.take d.alts

/-- The decision whose alternative a signature is. -/
def decisionOf (b : Bytes) (sig : Nat) : Option DecInfo :=
  ((List.range (foDecs b)).map (decInfo b)).find? (fun d => d.used.contains sig)

-- ---------------------------------------------------------------- Trimmer programs (R71–R75)

/-- The width of a TYPE in bytes, as delivered (R60). -/
def typeBytes (t : Nat) : Nat := 2 ^ (t % 16)
def typeKnown (t : Nat) : Bool :=
  [0x00, 0x01, 0x02, 0x03, 0x04, 0x10, 0x11, 0x12, 0x13, 0x14, 0x22, 0x23, 0x32, 0x43, 0x54, 0x60].contains t
def typeString (t : Nat) : Bool := t == 0x54
def typeFloat (t : Nat) : Bool := t == 0x22 || t == 0x23
/-- Signed integers, dates and timestamps. -/
def typeSigned (t : Nat) : Bool := (decide (0x10 ≤ t) && decide (t ≤ 0x14)) || t == 0x32 || t == 0x43

structure TrimStream where
  role  : Nat
  typ   : Nat
  first : Nat
  terms : Nat
  codes : Bool
  low   : Int
  width : Nat
deriving DecidableEq, Repr

structure Term where
  op   : Nat
  set  : Nat
  alen : Nat
  blen : Nat
  a    : Bytes
  b    : Bytes
deriving DecidableEq, Repr

def tpStreams (p : Bytes) : Nat := fld p 6 1
def tpPositions (p : Bytes) : Bool := fld p 7 1 == 1
def tpSketch (p : Bytes) : Nat := fld p 8 1
def tpSkipEmpty (p : Bytes) : Bool := bitAt (fld p 9 1) 0
def tpTerms (p : Bytes) : Nat := fld p 0xA 2
def tpSets (p : Bytes) : Nat := fld p 0xC 2

def tpStream (p : Bytes) (s : Nat) : TrimStream :=
  let e := slice p (0x40 + 32 * s) 32
  { role := fld e 0 1, typ := fld e 1 1, first := fld e 2 1, terms := fld e 3 1, codes := fld e 4 1 == 1,
    low := signed (fld e 8 8) 64, width := fld e 0x10 8 }

def tpTerm (p : Bytes) (k : Nat) : Term :=
  let e := slice p (fld p 0x10 4 + 64 * k) 64
  { op := fld e 0 1, set := fld e 2 2, alen := fld e 4 4, blen := fld e 8 4, a := slice e 0x10 16, b := slice e 0x20 16 }

/-- The terms of stream `s`. -/
def tpTermsOf (p : Bytes) (s : Nat) : List Term :=
  let e := tpStream p s
  (List.range e.terms).map (fun k => tpTerm p (e.first + k))

/-- Is the body of a page left unread: a LATE stream without terms, sketch or body check delivers nothing of it (R79;
log 38)? `flags` are those of its descriptor. -/
def tpUnread (p : Bytes) (s flags : Nat) : Bool :=
  (tpStream p s).role == 2 && (tpStream p s).terms == 0 && !bitAt (tpSketch p) s && !bitAt flags 3

/-- Set `k`: KIND, COUNT and its data. -/
def tpSet (p : Bytes) (k : Nat) : Nat × Nat × Bytes :=
  let h := slice p (fld p 0x14 4 + 16 * k) 16
  let n := if fld h 0 1 = 1 then 16 * fld h 2 2 else 512
  (fld h 0 1, fld h 2 2, slice p (fld h 4 4) n)

/-- Are spans (offset, length), sorted, disjoint, inside `b`, and every byte outside them zero? -/
def spansOk (b : Bytes) : List (Nat × Nat) → Nat → Bool
  | [], pos => (b.drop pos).all (· == 0)
  | (o, n) :: r, pos =>
    decide (pos ≤ o) && decide (o + n ≤ b.length) && ((b.drop pos).take (o - pos)).all (· == 0) && spansOk b r (o + n)

def sortSpans (l : List (Nat × Nat)) : List (Nat × Nat) := sortBy (fun a b => decide (a.1 ≤ b.1)) l

/-- Is a constant of a fixed-width TYPE zero- or sign-extended to 128 bits (R71)? -/
def extended (t : Nat) (c : Bytes) : Bool :=
  let w := 8 * typeBytes t
  if typeSigned t then unsigned (signed (ofLe c) w) 128 == ofLe c else decide (ofLe c < 2 ^ w)

/-- Are the bytes of a STRING constant past its length zero (R71)? -/
def zeroPast (len : Nat) (c : Bytes) : Bool := (c.drop len).all (· == 0)

/-- The constant of a term on a stream of a TYPE, with its length (R71). -/
def constOk (t len : Nat) (c : Bytes) : Bool := if typeString t then zeroPast len c else extended t c

/-- An entry of an EXACT set for a stream of a TYPE: a string of up to 15 bytes behind which all is zero but its length
in byte 15, any other value extended as constant A is (R75). -/
def entryOk (t : Nat) (e : Bytes) : Bool :=
  let n := ofLe (e.drop 15)
  if typeString t then decide (n ≤ 15) && zeroPast n (e.take 15) else extended t e

/-- The lengths that a term may carry on a stream of a TYPE (R71). -/
def lengthsOk (t : Nat) (m : Term) : Bool :=
  if !typeString t then m.op != 0xB && m.alen == 0 && m.blen == 0
  else (m.op == 7 || m.blen == 0)
    && (if m.op = 0xB then decide (1 ≤ m.alen) && decide (m.alen ≤ 16) else decide (m.op ≤ 7) || m.alen == 0)

/-- A term on a stream of a TYPE: its lengths, the constants that its operator reads, the entries of its EXACT set (R71,
R75; log 84). -/
def termFits (p : Bytes) (t : Nat) (m : Term) : Bool :=
  let set := tpSet p m.set
  let readsA := decide (m.op ≤ 7) || m.op == 0xB
  lengthsOk t m && (!readsA || constOk t m.alen m.a) && (m.op != 7 || constOk t m.blen m.b)
  && (m.op != 8 || set.1 != 1 || (List.range set.2.1).all (fun i => entryOk t (slice set.2.2 (16 * i) 16)))

/-- The form of one term (R71, R72); a SET_INDEX without IN_SET must be zero (log 84). -/
def termOk (p : Bytes) (k : Nat) : Bool :=
  let e := slice p (fld p 0x10 4 + 64 * k) 64
  let t := tpTerm p k
  let owner := (List.range (tpStreams p)).find? (fun s =>
    decide ((tpStream p s).first ≤ k) && decide (k < (tpStream p s).first + (tpStream p s).terms))
  decide (1 ≤ t.op) && decide (t.op ≤ 0xB) && zeroAt e 1 1 && zeroAt e 0xC 4 && zeroAt e 0x30 16
  && (if t.op = 8 then decide (t.set < tpSets p) else t.set == 0)
  && owner.all (fun s => termFits p (tpStream p s).typ t)

/-- The form of one stream entry (R71). -/
def streamOk (p : Bytes) (s : Nat) : Bool :=
  let o := 0x40 + 32 * s
  let e := tpStream p s
  if tpStreams p ≤ s then zeroAt p o 32
  else
    decide (e.role ≤ 2) && typeKnown e.typ && decide (e.terms ≤ 16) && decide (fld p (o + 4) 1 ≤ 1)
    && zeroAt p (o + 5) 3 && zeroAt p (o + 0x18) 8 && (!bitAt (tpSketch p) s || decide (1 ≤ e.width))
    && (e.terms == 0 || (decide (e.first + e.terms ≤ tpTerms p)
        && (List.range s).all (fun u =>
          let f := tpStream p u
          f.terms == 0 || decide (f.first + f.terms ≤ e.first) || decide (e.first + e.terms ≤ f.first))))

/-- The form of one set (R75). -/
def setOk (p : Bytes) (k : Nat) : Bool :=
  let h := slice p (fld p 0x14 4 + 16 * k) 16
  let cnt := fld h 2 2
  zeroAt h 1 1 && zeroAt h 8 8 && fld h 4 4 % 16 == 0
  && (if fld h 0 1 = 1 then decide (1 ≤ cnt) && decide (cnt ≤ 256) else fld h 0 1 == 2 && cnt == 0)

/-- Does a Trimmer program section keep the rules of R71 to R75? -/
def trimProgramOk (p : Bytes) : Bool :=
  let tc := tpTerms p
  let sc := tpSets p
  let to_ := fld p 0x10 4
  let so := fld p 0x14 4
  decide (0xC0 ≤ p.length) && decide (p.length ≤ 73728) && fld p 0 4 == 0x50524D54 && fld p 4 2 == 1
  && decide (1 ≤ tpStreams p) && decide (tpStreams p ≤ 4) && decide (fld p 7 1 ≤ 1)
  && decide (tpSketch p < 2 ^ tpStreams p) && decide (fld p 9 1 ≤ 1) && decide (tc ≤ 64) && decide (sc ≤ 16)
  && zeroAt p 0xE 2 && zeroAt p 0x18 40 && to_ % 64 == 0 && so % 16 == 0
  && decide (tc = 0 ∨ to_ + 64 * tc ≤ p.length) && decide (sc = 0 ∨ so + 16 * sc ≤ p.length)
  && (List.range sc).all (setOk p) && (List.range tc).all (termOk p) && (List.range 4).all (streamOk p)
  && spansOk p (sortSpans ([(0, 0xC0)] ++ (if tc = 0 then [] else [(to_, 64 * tc)])
      ++ (if sc = 0 then [] else [(so, 16 * sc)])
      ++ (List.range sc).map (fun k =>
        let h := slice p (so + 16 * k) 16
        (fld h 4 4, if fld h 0 1 = 1 then 16 * fld h 2 2 else 512)))) 0

-- ---------------------------------------------------------------- Thumb images (R167, R168)

structure ThumbRec where
  key      : Nat
  care     : Nat
  payload  : Nat
  priority : Nat
  slot     : Nat
  valid    : Bool
deriving DecidableEq, Repr

def thumbRec (p : Bytes) (k : Nat) : ThumbRec :=
  let e := slice p (64 + 48 * k) 48
  { key := fld e 0 16, care := fld e 0x10 16, payload := fld e 0x20 4, priority := fld e 0x24 2, slot := fld e 0x26 2,
    valid := bitAt (fld e 0x28 1) 0 }

def thumbCount (p : Bytes) : Nat := fld p 8 4
def thumbRecs (p : Bytes) : List ThumbRec := (List.range (thumbCount p)).map (thumbRec p)

/-- Is a Thumb image well formed (R168)? -/
def thumbImageOk (p : Bytes) : Bool :=
  let n := thumbCount p
  fld p 0 4 == 0x494D4854 && fld p 4 2 == 1 && fld p 6 2 == 64 && decide (n ≤ 65536) && decide (fld p 0xC 4 ≤ 1)
  && zeroAt p 0x14 44 && p.length == 64 + 48 * n && fld p 0x10 4 == crc32c (p.drop 64)
  && (List.range n).all (fun k => decide (fld p (64 + 48 * k + 0x28) 1 ≤ 1) && zeroAt p (64 + 48 * k + 0x29) 7)
  && (let slots := (thumbRecs p).map (·.slot); (dedup slots).length == slots.length)

/-- The banks of a mask, rising; slot `s` names the entry of R167. -/
def maskBanks (mask : Nat) : List Nat := (List.range 64).filter (bitAt mask)
def slotEntry (mask slot : Nat) : Nat := (maskBanks mask).getD (slot / 1024) 0 * 1024 + slot % 1024

-- ---------------------------------------------------------------- partition maps (R174, R175)

structure PMap where
  radix  : Nat
  keys   : List Nat          -- key columns
  mode   : Nat
  chunk  : Nat
  seed   : Nat
  fixed  : Nat
  base   : Nat
  bytes  : Nat
  dest   : List Nat
  divert : List Nat
deriving DecidableEq, Repr

def pmKeysOff (p : Bytes) : Nat := 0x40 + 64 * ceilDiv (2 ^ fld p 6 1) 16

def pmap (p : Bytes) : PMap :=
  { radix := fld p 6 1, keys := (List.range (fld p 7 1)).map (fun k => fld p (8 + k) 1), mode := fld p 0xC 1,
    chunk := 2 ^ fld p 0xE 1, seed := fld p 0x10 4, fixed := fld p 0x14 4, base := fld p 0x18 8, bytes := fld p 0x20 8,
    dest := (List.range (2 ^ fld p 6 1)).map (fun k => fld p (0x40 + 4 * k) 4),
    divert := (List.range (fld p 0xD 1)).map (fun k => fld p (pmKeysOff p + 16 * k) 16) }

/-- A destination word (R174). -/
def destLocal (w : Nat) : Bool := !bitAt w 31
def destOk (w : Nat) : Bool := bits w 30 16 == 0 && (bitAt w 31 || decide (w % 65536 < 4096))

def pmapOk (p : Bytes) : Bool :=
  let m := pmap p
  let kc := fld p 7 1
  let local_ := m.dest.any destLocal || (m.mode == 1 && destLocal m.fixed)
  decide (0x40 ≤ p.length) && fld p 0 4 == 0x50414D50 && fld p 4 2 == 1 && decide (1 ≤ m.radix) && decide (m.radix ≤ 12)
  && decide (1 ≤ kc) && decide (kc ≤ 4)
  && (List.range 4).all (fun k => if k < kc then decide (fld p (8 + k) 1 ≤ 15) else fld p (8 + k) 1 == 0xFF)
  && decide (m.mode ≤ 3) && decide (fld p 0xD 1 ≤ 32) && decide (18 ≤ fld p 0xE 1) && decide (fld p 0xE 1 ≤ 22)
  && zeroAt p 0xF 1 && zeroAt p 0x28 24 && p.length == pmKeysOff p + 512
  && m.dest.all destOk && zeroAt p (0x40 + 4 * 2 ^ m.radix) (pmKeysOff p - (0x40 + 4 * 2 ^ m.radix))
  && zeroAt p (pmKeysOff p + 16 * fld p 0xD 1) (512 - 16 * fld p 0xD 1)
  && (if m.mode = 1 then destOk m.fixed else m.fixed == 0)
  && (if local_ then m.base != 0 && m.base % 65536 == 0 && decide (65536 ≤ m.bytes) && (m.bytes - 65536) % m.chunk == 0
      else m.base == 0 && m.bytes == 0)

-- ---------------------------------------------------------------- the checks of R34

/-- The section's length and contents fit its type (R28, R71, R168, R174). -/
def sectionOk (b : Bytes) (k : Nat) : Bool :=
  let n := secLen b k
  let p := section_ b k
  match secType b k with
  | 1 => n == 64 * foSigs b
  | 2 => n % 4 == 0 && decide (n ≤ 65536)
  | 3 => decide (n ≤ 131072)
  | 4 => trimProgramOk p
  | 5 => thumbImageOk p
  | 6 => pmapOk p
  | 7 => n == 64 * foDecs b
  | 8 => true
  | _ => false

/-- Header and directory (R25–R28). -/
def folioFrame (b : Bytes) : Bool :=
  let n := foSections b
  fld b 0 4 == 0x46474C55 && fld b 4 2 == 1 && fld b 6 2 == 128 && fld b 8 4 == b.length
  && decide (256 ≤ b.length) && decide (b.length ≤ 67108864) && decide (2 ≤ n) && decide (n ≤ 64)
  && decide (1 ≤ foSigs b) && decide (foSigs b ≤ 1024) && decide (foDecs b ≤ 64) && decide (foPolicy b ≤ 1)
  && decide (fld b 0x13 1 ≤ 0xB0) && zeroAt b 0x30 80
  && fld b 0x28 4 == crc32c (slice b 0 0x28 ++ zeros 4 ++ slice b 0x2C 84) && fld b 0x2C 4 == crc32c (b.drop 0x80)
  && decide (0x80 + 16 * n ≤ b.length)
  && (List.range n).all (fun k => zeroAt b (0x82 + 16 * k) 6 && secOff b k % 64 == 0 && secLen b k != 0)
  && spansOk b (sortSpans ((0, 0x80 + 16 * n) :: (List.range n).map (fun k => (secOff b k, secLen b k)))) 0
  && ((List.range n).filter (fun k => secType b k == 1)).length == 1
  && ((List.range n).filter (fun k => secType b k == 7)).length == (if foDecs b = 0 then 0 else 1)

def sourceOk (b : Bytes) (g : SigInfo) : Bool :=
  match g.source with
  | 1 => g.so % 64 == 0 && decide (1 ≤ g.se % 2 ^ 32) && decide (g.se < 2 ^ 32)
  | 2 => decide (g.so % 65536 < foSigs b) && decide (bits g.so 31 16 ≤ bits g.so 47 32) && decide (bits g.so 47 32 < 4096)
         && decide (g.so < 2 ^ 48) && g.se == 0
  | 3 => decide (2 ≤ g.se) && decide (g.se ≤ 16)
  | 4 => decide (g.so < 4096) && decide (g.se < 65536)
  | _ => false

def sinkOk (b : Bytes) (g : SigInfo) : Bool :=
  match g.sink with
  | 0 => g.ko == 0 && g.ke == 0
  | 1 => decide (g.ko < 65536) && secIs b g.ko 6 && g.ke == 0
  | 2 => decide (g.ko < 4096) && g.ke == 0
  | 3 => decide (g.ko < 2 ^ 23) && g.ke == 0
  | 4 => true
  | 5 => decide (g.ko < 65536) && (g.ko == 0xFFFF || secIs b g.ko 5)
  | _ => false

/-- The partition map that a PARTITION sink names. -/
def sigMap (b : Bytes) (g : SigInfo) : PMap := pmap (section_ b g.ko)

/-- One signature entry against R29 to R31, R34 and R175. -/
def sigOk (b : Bytes) (i : Nat) : Bool :=
  let g := sigInfo b i
  g.idx == i && decide (g.flags < 16) && (g.initial != g.alternative) && decide (g.cls ≤ 7)
  && (g.stepN == 0 || (decide (16 ≤ g.stepN) && decide (g.stepN ≤ 26))) && decide (1 ≤ g.units) && decide (g.units ≤ 1024)
  && g.zero == 0 && secIs b g.code 2 && g.entry % 4 == 0 && decide (g.entry < secLen b g.code)
  && (g.const == 0xFFFF || secIs b g.const 3) && (if g.source = 1 then secIs b g.trim 4 else g.trim == 0xFFFF)
  && sourceOk b g && sinkOk b g
  && g.deps.all (fun w => w == 0xFFFF || (bits w 14 10 == 0 && decide (w % 1024 < foSigs b)))
  && (if g.source = 2 then
        let f := sigInfo b (g.so % 65536)
        f.sink == 1 && secIs b f.ko 6 && (sigMap b f).base != 0 && g.needs.any (fun d => d.1 == g.so % 65536)
        && g.rows == 65536 && decide ((sigMap b f).chunk ≤ g.bytes)
      else true)
  && (if g.alternative then
        ((List.range (foDecs b)).filter (fun d => (decInfo b d).used.contains i)).length == 1
      else true)

/-- Values in non-decreasing order. -/
def nonDecreasing : List Nat → Bool
  | a :: b :: r => decide (a ≤ b) && nonDecreasing (b :: r)
  | _ => true

/-- One decision entry against R32, R34, R71 and R175. -/
def decOk (b : Bytes) (d : Nat) : Bool :=
  let e := decInfo b d
  let g := sigInfo b e.input
  e.idx == d && decide (e.input < foSigs b) && decide (1 ≤ e.kind) && decide (e.kind ≤ 4) && decide (2 ≤ e.alts)
  && decide (e.alts ≤ 4) && decide (e.stream ≤ 3)
  && (if e.kind = 4 then decide (1 ≤ e.param) && decide (e.param ≤ 64) else e.param == 0)
  && nonDecreasing (e.thr.take (e.alts - 1)) && (e.thr.drop (e.alts - 1)).all (· == 0)
  && e.used.all (fun k => decide (k < foSigs b) && (sigInfo b k).alternative) && (e.sigs.drop e.alts).all (· == 0xFFFF)
  && decide (e.hh ≤ 1) && e.zero && g.source == 1 && bitAt (tpSketch (section_ b g.trim)) e.stream
  && (e.hh == 0 || e.used.all (fun k =>
        let a := sigInfo b k
        a.sink != 1 || (sigMap b a).mode != 0))

/-- The signatures that must precede signature `i` (R34: DEPENDS, input to alternatives, JOIN). -/
def preds (b : Bytes) (i : Nat) : List Nat :=
  let g := sigInfo b i
  (g.needs.map (fun n => n.1 :: (if n.2 then
      ((decisionOf b n.1).map (fun d => d.used.filter (· != n.1))).getD [] else []))).flatten
  ++ ((decisionOf b i).map (fun d => [d.input])).getD []

/-- Removes, again and again, signatures whose predecessors are all gone; what is left lies on a cycle or behind one. -/
def peel (b : Bytes) : Nat → List Nat → List Nat
  | 0, l => l
  | n + 1, l => peel b n (l.filter (fun i => (preds b i).any l.contains))

/-- Is a folio image valid (R34)? -/
def folioOk (b : Bytes) : Bool :=
  folioFrame b && (List.range (foSections b)).all (sectionOk b) && (List.range (foSigs b)).all (sigOk b)
  && (List.range (foDecs b)).all (decOk b) && peel b (foSigs b) (List.range (foSigs b)) == []

end Sys2Proof.Machine
end

