-- ==== Sys2Proof/Machine/Sketches.lean ====
section
/-! DEFINITION. Sketches (R81–R86): hashing, measuring, merging, and the values that decision points read (R32). -/
namespace Sys2Proof.Machine

/-- The sketch hash (R82). -/
def sketchHash (b : Bytes) : Nat :=
  let lo := crcRaw 0xFFFFFFFF b ^^^ 0xFFFFFFFF
  let hi := crcRaw 0x5A5A5A5A b ^^^ 0xFFFFFFFF
  (hi * 2 ^ 32 + lo) * 0x9E3779B97F4A7C15 % 2 ^ 64

/-- Leading zeros of a 52-bit field, plus one (R84). -/
def hllRank (h : Nat) : Nat := let x := h % 2 ^ 52; if x = 0 then 53 else 52 - x.log2

/-- The order key of R84 for a delivered value of a type. -/
def orderKey (t : Nat) (b : Bytes) : Int :=
  let n := ofLe b
  let w := 8 * typeBytes t
  if typeString t then
    let k := ofBe (b.take 8)
    signed (k ^^^ 2 ^ 63) 64
  else if typeFloat t then
    signed (if bitAt n (w - 1) then n ^^^ (2 ^ (w - 1) - 1) else n) w
  else if typeSigned t then
    max (-2 ^ 63) (min (2 ^ 63 - 1) (signed n w))
  else min (2 ^ 63 - 1) (n : Int)

/-- The heavy-hitter key: the value zero- or sign-extended to 128 bits, a string's 16-byte prefix (R84). -/
def hhKey (t : Nat) (b : Bytes) : Nat :=
  if typeString t then ofLe (b.take 16)
  else if typeSigned t then unsigned (signed (ofLe b) (8 * typeBytes t)) 128
  else ofLe b

/-- The canonical form of a value (R81): −0 as +0, any NaN as the canonical NaN. -/
def canonValue (t : Nat) (b : Bytes) : Bytes :=
  if typeFloat t then
    let F := fmtOf (8 * typeBytes t)
    let n := ofLe b
    leBytes (typeBytes t) (if F.isNan n then F.nan else if F.isZero n then 0 else n)
  else b

/-- The entry with the least count, lowest index on ties. -/
def leastHh : List (Nat × Nat × Nat) → Nat → Nat → Nat → Nat
  | [], _, best, _ => best
  | (_, c, _) :: r, i, best, n => if c < n then leastHh r (i + 1) i c else leastHh r (i + 1) best n

/-- The heavy-hitter update of R84. -/
def hhAdd (hh : List (Nat × Nat × Nat)) (key : Nat) : List (Nat × Nat × Nat) :=
  if hh.any (fun x => x.1 == key) then updWhere hh (fun x => x.1 == key) (fun x => (x.1, x.2.1 + 1, x.2.2))
  else if hh.length < 32 then hh ++ [(key, 1, 0)]
  else
    let e := leastHh hh 0 0 ((hh.headD (0, 0, 0)).2.1)
    let n := (hh.getD e (0, 0, 0)).2.1
    hh.set e (key, n + 1, n)

/-- One measured value (R84): `b` are its canonical sketch bytes. -/
def Sketch.measure (k : Sketch) (st : TrimStream) (b : Bytes) : Sketch :=
  let h := sketchHash b
  let i := h / 2 ^ 52
  let o := orderKey st.typ b
  let bkt := if o < st.low then 0 else min 63 ((o - st.low).toNat / st.width)
  { k with hll := Tab.set k.hll i (max (Tab.get k.hll i 0) (hllRank h))
           hh := hhAdd k.hh (hhKey st.typ b)
           histo := Tab.set k.histo bkt (Tab.get k.histo bkt 0 + 1) }

/-- Insertion by largest count, ties to the lower key. -/
def hhOrder (l : List (Nat × Nat × Nat)) : List (Nat × Nat × Nat) :=
  sortBy (fun a b => decide (b.2.1 < a.2.1) || (a.2.1 == b.2.1 && decide (a.1 ≤ b.1))) l

/-- The merge of R85. -/
def Sketch.merge (m p : Sketch) : Sketch :=
  let hh := p.hh.foldl (fun l (x : Nat × Nat × Nat) =>
    if l.any (fun y => y.1 == x.1) then updWhere l (fun y => y.1 == x.1) (fun y => (y.1, y.2.1 + x.2.1, y.2.2 + x.2.2))
    else l ++ [x]) m.hh
  { hll := p.hll.foldl (fun t x => Tab.set t x.1 (max (Tab.get t x.1 0) x.2)) m.hll
    histo := p.histo.foldl (fun t x => Tab.set t x.1 (Tab.get t x.1 0 + x.2)) m.histo
    hh := (hhOrder hh).take 32
    scanned := m.scanned + p.scanned, selected := m.selected + p.selected, nulls := m.nulls + p.nulls
    recheck := m.recheck + p.recheck }

-- ---------------------------------------------------------------- values of decision points (R32, R86)

/-- The binary64 pattern of a small natural number and of a power of two. -/
def f64Nat (n : Nat) : Nat := f64.ofInt n

/-- ln of a rational above 1, in 2^−200 units: by halving to [1, 2) and the series of 2 artanh. -/
def lnTerms (x2 : Nat) (one : Nat) : Nat → Nat → Nat → Nat → Nat
  | 0, _, _, acc => acc
  | n + 1, k, p, acc => lnTerms x2 one n (k + 2) (p * x2 / one) (acc + p / k)

def lnFix (num den : Nat) : Nat :=
  let one := 2 ^ 200
  let artanh2 := fun (x : Nat) => 2 * lnTerms (x * x / one) one 200 1 x 0
  let ln2 := artanh2 (one / 3)
  let k := (num / den).log2
  let d := den * 2 ^ k
  k * ln2 + artanh2 ((num - d) * one / (num + d))

/-- ln of a binary64 of at least 1 and below 2^53, as a binary64 (R86; rounded once, log 29). -/
def f64Ln (x : Nat) : Nat :=
  let i := lnFix (f64.mant x) (2 ^ (-(f64.exp x)).toNat)
  if i = 0 then 0 else f64.round false i (-200) true

/-- The cardinality estimate of R86, in binary64. -/
def Sketch.distinct (k : Sketch) : Nat :=
  let m := f64Nat 4096
  let alpha := f64.div (f64.div (f64Nat 7213) (f64Nat 10000))
    (f64.add (f64Nat 1) (f64.div (f64.div (f64Nat 1079) (f64Nat 1000)) m))
  let sum := (List.range 4096).foldl (fun a i => f64.add a (f64.round false 1 (-((Tab.get k.hll i 0 : Nat) : Int)) false)) 0
  let e := f64.div (f64.mul (f64.mul alpha m) m) sum
  let v0 := 4096 - (k.hll.filter (fun p => p.2 != 0)).length
  let small := f64.compare 3 e (f64.mul (f64.div (f64Nat 5) (f64Nat 2)) m)
  let e := if small && decide (0 < v0) then f64.mul m (f64Ln (f64.div m (f64Nat v0))) else e
  let x := f64.exp e
  if 0 ≤ x then f64.mant e * 2 ^ x.toNat else (f64.mant e + 2 ^ ((-x).toNat - 1)) / 2 ^ (-x).toNat

/-- The measured value of a decision (R32). -/
def Sketch.value (k : Sketch) (kind param : Nat) : Nat :=
  match kind with
  | 1 => k.distinct
  | 2 => k.selected
  | 3 => if k.selected = 0 then 0 else (k.hh.map (fun x => x.2.1)).foldl (· + ·) 0 * 65536 / k.selected
  | _ => ((List.range param).map (fun b => Tab.get k.histo b 0)).foldl (· + ·) 0

end Sys2Proof.Machine
end

