-- ==== Sys2Proof/Machine/Runs.lean ====
section
/-! DEFINITION. Runs, signatures and leaves: starting and finishing signatures, decisions, failures and retries, Thumb
banks, and the records that reach reserved space and associations (R36–R56, R121, R159, R160, R166, R178, R298). -/
namespace Sys2Proof.Machine

/-- The folio and signature of a leaf. -/
def State.sigOfLeaf (s : State) (l : Leaf) : Option SigInfo := (s.run? l.run).map (fun r => sigInfo r.image l.sig)

-- ---------------------------------------------------------------- Thumb banks: wakes and arbitration (R159, R160)

/-- The banks of a mask in an array that an instance owns, as a mask. -/
def State.ownedMask (s : State) (i q mask : Nat) : Nat :=
  (maskBanks mask).foldl (fun m b => match Tab.find s.banks (q * 64 + b) with
    | some k => if k.owner = i then m ||| (1 <<< b) else m
    | none => m) 0

/-- The banks of a mask of an array that are in retention. -/
def State.retainedIn (s : State) (q mask : Nat) : List Nat :=
  ((maskBanks mask).map (fun b => q * 64 + b)).filter (fun b => ((Tab.find s.banks b).map (·.retained)).getD false)

/-- Wakes the retained banks of a mask, if there are any: the operation waits (R159). -/
def State.thumbWake (s : State) (q mask : Nat) : Option State :=
  match s.retainedIn q mask with
  | [] => none
  | bs => some { s with banks := s.banks.map (fun p => if bs.contains p.1 then (p.1, { p.2 with waking := true }) else p) }

/-- Counts operations that waited for a wake in array `q`. -/
def State.countWakes (s : State) (q n : Nat) : State := s.count (0x900028 + 0x1000 * q) n

/-- Wakes what writes of an instance to the banks of a mask in some arrays find in retention; `none`: all are awake. The
first write to each such bank waits and is counted, unless it has been (log 86). -/
def State.wakeWrites (s : State) (qs : List Nat) (i mask : Nat) (counted : Bool) : Option State :=
  qs.foldl (fun (o : Option State) q =>
    let t := o.getD s
    let m := s.ownedMask i q mask
    match t.thumbWake q m with
    | some t' => some (if counted then t' else t'.countWakes q (t.retainedIn q m).length)
    | none => o) none

/-- A requester of a Thumb array (R160). -/
inductive ThumbReq where
  | aperture
  | search (slot : Nat)
  | write
deriving DecidableEq, Repr

/-- The Thumb banks that a stage writes. -/
def stageBanks (st : List StageItem) : Nat :=
  st.foldl (fun m t => match t with
    | .thumb idx _ => m ||| (1 <<< (idx / 1024))
    | _ => m) 0

/-- The requesters whose operation has waited and finds its banks awake: they wait for their turn (R160). -/
def State.thumbWaiters (s : State) (q : Nat) : List ThumbReq :=
  let awake := fun (m : Nat) => m != 0 && s.retainedIn q m == []
  let commit := s.leaves.any (fun p => p.2.state == .committing && p.2.waked && awake (s.ownedMask p.2.inst q (stageBanks p.2.stage)))
  let load := s.cmds.any (fun c => c.op == 0x45 && c.phase == .running && c.prog == 1 && bitAt (c.fld 0x18 2) q && awake (c.fld 0x20 8))
  let build := s.runs.any (fun p => p.2.stop == 0 && !p.2.cancelled && p.2.sigs.zipIdx.any (fun x =>
    x.1.building && awake (s.ownedMask p.2.inst q (sigInfo p.2.image x.2).ke)))
  (if s.apr.reads.any (fun p => p.2.array == q && p.2.waked && awake p.2.mask) then [.aperture] else [])
  ++ ((List.range 16).filter (fun k => ((s.engRun (16 * q + k)).map (fun r => awake r.waking)).getD false)).map .search
  ++ (if commit || load || build then [.write] else [])

/-- The requester that an array takes next (R160): an aperture search unless three have run in a row before another
requester, then searches and writes by turns, and the searches round-robin among the slots. -/
def ThumbArb.next (a : ThumbArb) (ws : List ThumbReq) : Option ThumbReq :=
  let others := ws.filter (· != .aperture)
  if ws.contains .aperture && (others == [] || decide (a.apRow < 3)) then some .aperture
  else if others.contains .write && (!a.wrote || others == [.write]) then some .write
  else ((List.range 16).map (fun k => ThumbReq.search ((a.slot + 1 + k) % 16))).find? others.contains

/-- Is it the requester's turn, among those that wait? -/
def State.thumbTurn (s : State) (q : Nat) (r : ThumbReq) : Bool :=
  (s.quire q).arb.next (dedup (r :: s.thumbWaiters q)) == some r

/-- The array takes a requester's operation. -/
def State.thumbTook (s : State) (q : Nat) (r : ThumbReq) : State :=
  let alone := (s.thumbWaiters q).all (· == .aperture)
  s.updQuire q (fun x => { x with arb := match r with
    | .aperture => { x.arb with apRow := if alone then 0 else x.arb.apRow + 1 }
    | .search k => { apRow := 0, wrote := false, slot := k }
    | .write => { x.arb with apRow := 0, wrote := true } })

/-- The arrays among `qs` in which an instance owns a bank of a mask. -/
def State.arraysOf (s : State) (qs : List Nat) (i mask : Nat) : List Nat := qs.filter (fun q => s.ownedMask i q mask != 0)

/-- Do the writes of an instance to the banks of a mask go ahead? `.ok`: the banks are awake and it is their turn in every
array, which they take; `.error`: they wait, any wakes begun (R159, R160). -/
def State.beginWrites (s : State) (qs : List Nat) (i mask : Nat) (waited : Bool) : Except State State :=
  match s.wakeWrites qs i mask waited with
  | some s => .error s
  | none =>
    let qs := s.arraysOf qs i mask
    if qs.all (fun q => s.thumbTurn q .write) then .ok (qs.foldl (fun s q => s.thumbTook q .write) s) else .error s

-- ---------------------------------------------------------------- Thumb entries (R157, R164–R166)

/-- Writes an entry into bank b of those of some arrays in which the instance owns it (R157); a bank in retention wakes
first (R159). -/
def State.thumbWriteIn (s : State) (qs : List Nat) (i idx : Nat) (t : ThumbEntry) : State :=
  qs.foldl (fun s q =>
    let b := q * 64 + idx / 1024
    match Tab.find s.banks b with
    | some k =>
      if k.owner = i then
        { ((s.count (0x900018 + 0x1000 * q) 1).countWakes q (b2n k.retained)) with
          thumb := Tab.set s.thumb (q * 65536 + idx) t
          banks := Tab.set s.banks b { k with epoch := k.epoch + 1, retained := false, waking := false } }
      else s
    | none => s) s

/-- Writes an entry in every array (R157). -/
def State.thumbWrite (s : State) (i idx : Nat) (t : ThumbEntry) : State := s.thumbWriteIn (List.range 16) i idx t

/-- Clears the banks of a mask in those of some arrays in which the instance owns them (R166); a bank in retention wakes
first (R159). -/
def State.thumbClearIn (s : State) (qs : List Nat) (i mask : Nat) : State :=
  qs.foldl (fun s q =>
    (maskBanks mask).foldl (fun s b =>
      match Tab.find s.banks (q * 64 + b) with
      | some k =>
        if k.owner = i then
          { ((s.count (0x900018 + 0x1000 * q) 1).countWakes q (b2n k.retained)) with
            thumb := s.thumb.filter (fun p => p.1 / 1024 != q * 64 + b)
            banks := Tab.set s.banks (q * 64 + b) { k with epoch := k.epoch + 1, retained := false, waking := false } }
        else s
      | none => s) s) s

def State.thumbClear (s : State) (i mask : Nat) : State := s.thumbClearIn (List.range 16) i mask

def ThumbRec.entry (r : ThumbRec) : ThumbEntry :=
  { key := BitVec.ofNat 128 r.key, care := BitVec.ofNat 128 r.care, priority := BitVec.ofNat 16 r.priority,
    payload := BitVec.ofNat 32 r.payload, valid := r.valid }

/-- Writes the records of an image in order through a bank mask (R166, R167). -/
def State.thumbImageIn (s : State) (qs : List Nat) (i mask : Nat) (img : Bytes) : State :=
  (thumbRecs img).foldl (fun s r => s.thumbWriteIn qs i (slotEntry mask r.slot) r.entry) s

def State.thumbImage (s : State) (i mask : Nat) (img : Bytes) : State := s.thumbImageIn (List.range 16) i mask img

-- ---------------------------------------------------------------- records for associations (R181, R298)

/-- Is an association open to new records (R291, R293)? -/
def Assoc.takesNew (x : Assoc) : Bool := x.state == 2 || x.state == 5

/-- A record joins an association's stream (R298); one that is FAILED, or has sent its CLOSE, carries no more (R293, R306). -/
def State.assocSend (s : State) (a quire : Nat) (b : Bytes) (eos : Bool) : State :=
  s.updAssoc a (fun x => if x.state = 4 ∨ x.closing then x else { x with
    out := x.out ++ [{ no := x.outNo, off := x.outEnd, bytes := b, eos := eos, quire := quire }]
    outNo := x.outNo + 1
    outEnd := x.outEnd + b.length })

/-- Bytes of records for associations in a stage. -/
def sendBytes (st : List StageItem) : Nat :=
  (st.map (fun t => match t with
    | .send _ b => b.length
    | _ => 0)).foldl (· + ·) 0

/-- Bytes that the partitioner of a quire holds for associations, those of commits that it has accepted among them
(R181). -/
def State.partHeld (s : State) (q : Nat) : Nat :=
  ((s.leaves.filter (fun p => p.2.state == .committing && p.2.engine / 16 == q)).map (fun p => sendBytes p.2.stage)).foldl (· + ·) 0
  + (s.assocs.map (fun p => (p.2.out.map (fun m =>
    if m.quire = q then m.bytes.length - (p.2.sent - m.off) else 0)).foldl (· + ·) 0)).foldl (· + ·) 0

/-- Associations of a group that an instance holds, but those still OPENING, rising. -/
def State.groupAssocs (s : State) (i g : Nat) : List Nat :=
  (s.assocs.filter (fun p => p.2.inst == i && p.2.group == g && p.2.state != 1)).map (·.1)

/-- Does an association accept a new record (R293)? -/
def State.takesNew (s : State) (a : Nat) : Bool := ((s.assoc? a).map (·.takesNew)).getD false

/-- The associations of a map (R174). -/
def PMap.assocs (m : PMap) : List Nat :=
  dedup (((m.dest ++ (if m.mode = 1 then [m.fixed] else [])).filter (fun w => !destLocal w)).map (· % 65536))

/-- The associations that a signature's sink feeds. -/
def State.sinkAssocs (s : State) (i : Nat) (b : Bytes) (g : SigInfo) : List Nat :=
  if g.sink = 1 then (sigMap b g).assocs else if g.sink = 2 then s.groupAssocs i (g.ko % 65536) else []

-- ---------------------------------------------------------------- signatures (R36, R37, R166, R173)

/-- The decision record that chose another alternative than signature `i`. -/
def Run.passedBy (r : Run) (i : Nat) : Option DecRec :=
  r.decs.find? (fun d => ((decInfo r.image d.dec).used).contains i && d.sig != i)

/-- Does a DEPENDS slot hold (R36)? `none`: the signature must be skipped; `some true`: satisfied. A JOIN slot whose
chosen alternative ends up SKIPPED is satisfied then (log 61). -/
def Run.needState (r : Run) (n : Nat × Bool) : Option Bool :=
  let x := r.sig n.1
  match x.state with
  | .finished => some true
  | .skipped =>
    if !n.2 then none
    else if !x.passed then some true
    else some ((r.passedBy n.1).all (fun d => (r.sig d.sig).state == .finished || (r.sig d.sig).state == .skipped))
  | _ => some false

/-- What becomes of a signature that has not started: `none` it is skipped, `some true` it may start (R36). -/
def Run.fate (r : Run) (i : Nat) : Option Bool :=
  let g := sigInfo r.image i
  let slots := g.needs.map r.needState
  let passed := match (if g.alternative then decisionOf r.image i else none) with
    | some d => (r.sig d.input).state == .skipped || (r.passedBy i).isSome
    | none => false
  if passed || slots.contains none then none
  else some ((g.initial || (r.sig i).enabled) && slots.all (· == some true))

/-- Merges in progress in a quire (R173). -/
def State.mergesIn (s : State) (q : Nat) : Nat :=
  (s.runs.map (fun p => (p.2.sigs.filter (fun x => x.state == .running && x.merger == some q)).length)).foldl (· + ·) 0

/-- The quire in service with the fewest merges, the lowest on ties (R173). -/
def State.pickMerger (s : State) : Nat :=
  let qs := (List.range 16).filter (fun q => !s.col.mapQuires.contains q)
  (qs.foldl (fun (b : Option (Nat × Nat)) q =>
    let n := s.mergesIn q
    match b with
    | none => some (q, n)
    | some (_, m) => if n < m then some (q, n) else b) none).elim 0 (·.1)

/-- Is an inbox of an instance consumed by a running signature (R300)? -/
def State.inboxBusy (s : State) (inst box : Nat) : Bool :=
  s.runs.any (fun p => p.2.inst == inst && (p.2.sigs.zipIdx).any (fun x =>
    x.1.state == .running && (let g := sigInfo p.2.image x.2; g.source == 4 && g.so % 65536 == box)))

/-- The steps of a THUMB_BUILD start, once its banks are awake and it is its turn: its banks are cleared and its template
is written (R159, R160, R166). -/
def State.buildStart (s : State) (k i : Nat) (waited : Bool) : State :=
  match s.run? k with
  | none => s
  | some r =>
    let g := sigInfo r.image i
    match s.beginWrites (List.range 16) r.inst g.ke waited with
    | .error s => s.updSig k i (fun x => { x with building := true })
    | .ok s =>
      let s := (s.thumbClear r.inst g.ke).updSig k i (fun x => { x with building := false })
      if g.ko % 65536 = 0xFFFF then s else s.thumbImage r.inst g.ke (section_ r.image (g.ko % 65536))

/-- The THUMB_BUILD starts of a run that have waited go on. -/
def State.buildStarts (s : State) (k : Nat) : State :=
  match s.run? k with
  | none => s
  | some r => ((List.range r.sigs.length).filter (fun i => (r.sig i).building && r.stop == 0 && !r.cancelled)).foldl
      (fun s i => s.buildStart k i true) s

/-- A signature starts: THUMB_BUILD prepares its banks, a merge gets its merger (R36, R166, R173). -/
def State.startSig (s : State) (k i : Nat) : State :=
  match s.run? k with
  | none => s
  | some r =>
    let g := sigInfo r.image i
    let s := if g.sink = 5 then s.buildStart k i false else s
    let q := s.pickMerger
    let s := s.updRun k (fun r => { r with
      results := if g.sink = 4 ∧ !Tab.has r.results g.ko then Tab.set r.results g.ko 0 else r.results })
    let n := s.coll.starts
    let s := { s with coll := { s.coll with starts := n + 1 } }
    s.updSig k i (fun x => { x with state := .running, started := n, merger := if g.source = 3 then some q else none })

/-- The directory, an entry for each of the 4,096 partition buffers, and the chunk headers of a local partition buffer
region (R178). -/
def regionBytes (m : PMap) (cs : List Chunk) : List (Nat × Bytes) :=
  let at_ := fun (n : Nat) => m.base + 65536 + n * m.chunk
  let of_ := fun (p : Nat) => (cs.zipIdx.filter (fun c => c.1.part == p)).map (·.2)
  let entry_ := fun (p : Nat) =>
    let l := of_ p
    leBytes 8 ((l.head?.map at_).getD 0) ++ leBytes 4 l.length
      ++ leBytes 4 ((l.map (fun n => ((cs[n]?).map (·.real)).getD 0)).foldl (· + ·) 0)
  (m.base, ((List.range 4096).map entry_).flatten) :: cs.zipIdx.map (fun c =>
    let next := ((of_ c.1.part).find? (fun n => decide (c.2 < n))).map at_
    (at_ c.2, leBytes 8 (next.getD 0) ++ leBytes 2 c.1.part ++ zeros 2 ++ leBytes 4 c.1.records ++ leBytes 4 c.1.real
      ++ leBytes 4 c.1.used ++ zeros 40))

/-- Writes a list of byte strings to an instance's memory; `none`: a page must be restored first. A string whose range
is gone is dropped. -/
def State.devWrites (s : State) (w : Waiter) (i : Nat) : List (Nat × Bytes) → Option State × State
  | [] => (some s, s)
  | (a, b) :: r =>
    match s.devWrite w i a b with
    | .wait s => (none, s)
    | .fail _ _ s => State.devWrites s w i r
    | .ok _ s => State.devWrites s w i r

/-- The decision points of a finished signature, in ascending order (R33, R37). -/
def State.decide_ (s : State) (k i : Nat) : List Nat → State
  | [] => s
  | d :: rest =>
    match s.run? k with
    | none => s
    | some r =>
      let e := decInfo r.image d
      if e.input ≠ i ∨ r.decided.contains d then State.decide_ s k i rest
      else
        let m := Tab.get (r.sig i).sketches e.stream {}
        let v := m.value e.kind e.param
        let c := ((e.thr.take (e.alts - 1)).filter (fun t => decide (t ≤ v))).length
        let alt := e.sigs.getD c 0
        let keys := m.hh.map (·.1)
        let load := e.hh = 1 ∧ (sigInfo r.image alt).sink = 1
        let s := s.updRun k (fun r => { r with
          decided := r.decided ++ [d]
          decs := r.decs ++ [{ dec := d, chosen := c, kind := e.kind, sig := alt,
                               hh := if load then keys.length else 0, value := v, time := s.timebase }] })
        let s := s.updSig k alt (fun x => { x with enabled := true, divert := if load then some keys else x.divert })
        State.decide_ s k i rest

/-- A signature finishes: its directory and its end-of-stream messages are written, then its decisions are taken unless
the run has stopped (R37, R178, R298). -/
def State.finishSig (s : State) (k i : Nat) (r : Run) : Option State × State :=
  let g := sigInfo r.image i
  let m := sigMap r.image g
  let writes := if g.sink = 1 ∧ m.base ≠ 0 then regionBytes m (r.sig i).chunks else []
  match s.devWrites (.cmd r.cmd) r.inst writes with
  | (none, s) => (none, s)
  | (some s, _) =>
    let s := ((s.sinkAssocs r.inst r.image g).filter s.takesNew).foldl (fun s a => s.assocSend a 16 (zeros 64) true) s
    let s := s.updSig k i (fun x => { x with state := .finished })
    let s := if r.stop = 0 ∧ !r.cancelled ∧ !s.paused then s.decide_ k i (List.range (foDecs r.image)) else s
    (some s, s)

/-- May a running signature finish (R37)? -/
def State.sigDone (s : State) (k i : Nat) (r : Run) : Bool :=
  let x := r.sig i
  x.state == .running && x.drained && !x.lost && !s.alive k i

/-- Does a decision of a finished signature wait for the end of the placement pause (R463)? -/
def Run.undecided (r : Run) : Bool :=
  (List.range (foDecs r.image)).any (fun d =>
    !r.decided.contains d && (r.sig (decInfo r.image d).input).state == .finished)

/-- Has the run ended: nothing runs and nothing can start, or it was stopped and no leaf is left (R37, R49)? -/
def State.runEnds (s : State) (k : Nat) (r : Run) : Bool :=
  if r.stop != 0 || r.cancelled then !s.leaves.any (fun p => p.2.run == k)
  else !r.sigs.any (fun x => x.state == .running) && !r.undecided
    && !(List.range r.sigs.length).any (fun i => (r.sig i).state == .notStarted
      && (r.fate i == none || r.fate i == some true))

/-- One change of a run's signatures, if one is due (R36, R37). -/
def State.settleOnce (s : State) (k : Nat) : Option State × State :=
  match s.run? k with
  | none => (none, s)
  | some r =>
    if r.finish.isSome then (none, s)
    else
      let is := List.range r.sigs.length
      match is.find? (fun i => s.sigDone k i r) with
      | some i => s.finishSig k i r
      | none =>
        let live := r.stop = 0 ∧ !r.cancelled
        let pending := is.filter (fun i => (r.sig i).state == .notStarted)
        match (if live then pending.find? (fun i => r.fate i == none) else none) with
        | some i =>
          let t := s.updSig k i (fun x => { x with state := .skipped, passed := (r.passedBy i).isSome })
          (some t, t)
        | none =>
          match (if live then pending.find? (fun i => r.fate i == some true
              && !((sigInfo r.image i).source == 4 && s.inboxBusy r.inst ((sigInfo r.image i).so % 65536))) else none) with
          | some i => let t := s.startSig k i; (some t, t)
          | none =>
            if s.runEnds k r then let t := s.updRun k (fun r => { r with finish := some s.timebase }); (some t, t)
            else (none, s)

/-- Runs the changes of a run until none is due. -/
def State.settleFuel (s : State) (k : Nat) : Nat → State
  | 0 => s
  | n + 1 =>
    match s.settleOnce k with
    | (some s, _) => State.settleFuel s k n
    | (none, s) => s

def State.settle (s : State) (k : Nat) : State :=
  match s.run? k with
  | none => s
  | some r => (s.settleFuel k (3 * r.sigs.length + 4)).buildStarts k

/-- The decisions that fell due during the placement pause are taken after it (R463). -/
def State.lateDecisions (s : State) : State :=
  s.runs.foldl (fun s p =>
    if p.2.stop = 0 ∧ !p.2.cancelled ∧ p.2.undecided then
      let is := (List.range p.2.sigs.length).filter (fun i => (p.2.sig i).state == .finished)
      (is.foldl (fun s i => s.decide_ p.1 i (List.range (foDecs p.2.image))) s).settle p.1
    else s) s

-- ---------------------------------------------------------------- the end of an attempt (R44, R48–R51, R121, R196)

/-- Closes the cursor contexts of an engine slot (R162); one that had closed after its last match stays known as such (R163). -/
def State.closeCursors (s : State) (e : Nat) : State :=
  s.updEng e (fun x => { x with cursors := x.cursors.map (fun c => { c with open_ := false }) })

/-- Takes a leaf off its Trimmer; its dictionaries may be replaced from now on (R69, R89). -/
def State.leaveTrim (s : State) (id : Nat) : State :=
  { s with trims := s.trims.map (fun (p : Nat × Trim) => (p.1, { p.2 with
      leaves := p.2.leaves.filter (· != id)
      dicts := p.2.dicts.map (fun (d : HeldDict) => { d with users := d.users.filter (· != id) }) })) }

/-- Removes leaves from their slots. -/
def State.dropLeaves (s : State) (ids : List Nat) : State :=
  { s with leaves := s.leaves.filter (fun p => !ids.contains p.1) }

/-- The skip record of reserved space: ROWS 0 and the reserved LENGTH (R121, R179). -/
def Reserved.skip (v : Reserved) : Bytes := padTo (zeros 4 ++ v.header.drop 4) 64

/-- Unpins the frames of staged writes and frees the staging frames (R43, R230). -/
def State.freeStage (s : State) (pins spill : List Nat) : State :=
  let s := pins.foldl (fun s f => s.unpin f) s
  spill.foldl (fun s f => s.releaseFrame f) s

/-- Marks the pages of a staged write as written and writes it (R42, R233). -/
def State.commitWrite (s : State) (i va : Nat) (b : Bytes) : State :=
  let ps := piecesOf va b.length
  (ps.foldl (fun s p => s.touchPage i p.1 true) s).writePieces i ps b

/-- Adds to the counts of a chunk: records, rows of committed records. -/
def State.chunkCount (s : State) (k sig : Nat) (v : Reserved) (real : Bool) : State :=
  match v.chunk with
  | none => s
  | some n => s.updSig k sig (fun x => { x with
      chunks := x.chunks.modify n (fun c => { c with records := c.records + 1, real := c.real + (if real then v.rows else 0) }) })

/-- Writes skip records over the space that a failed attempt had reserved. -/
def State.skipRecords (s : State) (k sig i : Nat) (vs : List Reserved) : State :=
  vs.foldl (fun s v => (s.commitWrite i v.va v.skip).chunkCount k sig v false) s

/-- The messages that a leaf consumed free when it ends for good (R300). -/
def State.freeMessages (s : State) (l : Leaf) : State :=
  match l.src with
  | .inbox a first n =>
    (s.updAssoc a (fun x => { x with
      msgs := x.msgs.filter (fun m => !(decide (first ≤ m.no) && decide (m.no < first + n))) })).freeSlabsOf a
  | _ => s

/-- Retires the physical engine of a number; a free spare takes the number over before its next leaf (R13, R472, R474).
Without a spare the number leaves service, and a shortfall of guaranteed engines is logged (R365). -/
def State.retireEngine (s : State) (e p count : Nat) : State :=
  let sp := spareFor e
  let use := s.spareFree sp
  let s : State := { s with col := { s.col with
    retiredEng := s.col.retiredEng ++ [p]
    spareOf := if use then Tab.set s.col.spareOf e sp else s.col.spareOf
    optimeSaved := s.col.optime } }
  let s := s.logFh { kind := 0x0102, outcome := 3, resType := 1, resIdx := p, count := count,
                     data := leBytes 4 (if use then sp else 0xFFFF) }
  let s := s.updEng e (fun x => { x with code := none, const := none, lastInst := none })
  if use then s else s.logShortfall

/-- A retirement takes effect at the end of the engine's current attempt (R127). -/
def State.retireDue (s : State) (e p count : Nat) : State :=
  if (s.engRun e).isSome then s.updEng e (fun x => { x with retire := some (p, count) }) else s.retireEngine e p count

/-- The end of an attempt: a retirement that waits for it takes effect. -/
def State.retireNow (s : State) (e : Nat) : State :=
  match (s.engOf e).retire with
  | some (p, n) => (s.updEng e (fun x => { x with retire := none })).retireEngine e p n
  | none => s

/-- What every attempt that does not commit leaves behind: its stage is discarded, its spawns removed, its reserved
space skipped, its source stops and its energy is trued up (R48, R121, R122, R196). -/
def State.voidAttempt (s : State) (l : Leaf) : State :=
  let e := l.engine
  match s.engRun e with
  | none => s
  | some r =>
    if r.leaf ≠ l.id then s
    else
      let s := ((s.updEng e (fun x => { x with run := none })).closeCursors e).retireNow e
      let s := (((s.forget (.engine e)).forget (.fetch e)).forget (.trimmer l.id)).leaveTrim l.id
      let s := s.skipRecords l.run l.sig l.inst r.resv
      let s := (s.freeStage (r.pins ++ (r.fetch.map (·.pins)).getD []) r.spill).dropLeaves r.spawned
      let s := { s with coll := { s.coll with spawns := s.coll.spawns.filter (· != e) } }.endSlotWait l.inst
      (s.updRun l.run (fun x => { x with steps := x.steps + r.steps })).trueUp l r.banks

/-- Stops a run: the Cutter stops, READY and HELD leaves are removed and counted as cancelled (R49–R51; log 81); what they
held up or had reserved ends (R200, R203). -/
def State.stopRun (s : State) (k status : Nat) : State :=
  let gone := s.leaves.filter (fun p => p.2.run == k && (p.2.state == .ready || p.2.state == .held))
  let s := s.updRun k (fun r => { r with stop := if r.stop = 0 then status else r.stop, removed := r.removed + gone.length })
  let s := gone.foldl (fun s p => (s.updSig k p.2.sig (fun x => { x with lost := true })).freeMessages p.2) s
  let s := { s with coll := { s.coll with cutters := s.coll.cutters.filter (fun c => runKey c.1 c.2.1 != k) } }
  let s := (s.dropLeaves (gone.map (·.1))).cleanResv
  s.slotWait.foldl State.endSlotWait s

/-- Records a failed leaf and lets the folio's policy act (R48–R50, R53). -/
def State.recordFail (s : State) (l : Leaf) (status detail : Nat) : State :=
  let k := l.run
  let f : FailRec := { leaf := l.id, status := status, engine := l.engine, attempts := l.attempts, detail := detail % 2 ^ 32 }
  let s := (s.dropLeaves [l.id]).freeMessages l
  let s := s.updRun k (fun r => { r with fails := insertBy (fun a b => decide (a.leaf ≤ b.leaf)) f r.fails, failed := r.failed + 1 })
  let s := s.updSig k l.sig (fun x => { x with failed := x.failed + 1, first := if x.first = 0 then status else x.first })
  let s : State := { s with dev := { s.dev with
    leavesFailed := Tab.set s.dev.leavesFailed l.inst (Tab.get s.dev.leavesFailed l.inst 0 + 1) } }
  match s.run? k with
  | none => s
  | some r =>
    let exceeds := foPolicy r.image = 1 ∧ foMaxFail r.image < r.failed
    let s := if exceeds ∧ r.stop = 0 ∧ !r.cancelled then s.updRun k (fun r => { r with limit := true }) else s
    let stops := foPolicy r.image = 0 ∨ exceeds
    let s := if stops ∧ r.stop = 0 ∧ !r.cancelled then s.stopRun k status else s
    if stops ∨ r.stop ≠ 0 ∨ r.cancelled then s.updSig k l.sig (fun x => { x with lost := true }) else s

/-- A leaf fails without retry (R48): the poisoned word it consumed is recorded (R485). -/
def State.failLeaf (s : State) (id status detail : Nat) : State :=
  match s.leaf? id with
  | none => s
  | some l =>
    if l.state ≠ .running then s
    else
      let s := s.voidAttempt l
      let s := s.trace 0x41 (some l) (some l.engine) (some (l.engine / 16)) (some l.group) (some l.inst)
      (s.recordFail l status detail).settle l.run

/-- Writes a POISON_CONSUMED record and answers its SEQ (R485). -/
def State.logConsumed (s : State) (l : Leaf) (memory addr : Nat) : Nat × State :=
  let s := s.logFh { kind := 0x0305, status := 0x3001, outcome := 2, mech := 5, inst := l.inst, resType := 2,
                     resIdx := l.engine / 16, addr := addr, leaf := l.id, data := leBytes 4 memory }
  (s.lastFh % 2 ^ 32, s)

/-- A leaf whose attempt ended in an engine fault returns to READY, once, ahead of later leaves (R48, R190). -/
def State.retryLeaf (s : State) (l : Leaf) : State :=
  let s := (s.voidAttempt l).trace 0x41 (some l) (some l.engine) (some (l.engine / 16)) (some l.group) (some l.inst)
  let s := s.trace 0x42 (some l) (some l.engine) (some (l.engine / 16)) (some l.group) (some l.inst)
  let s := s.updSig l.run l.sig (fun x => { x with retries := min 65535 (x.retries + 1) })
  s.updLeaf l.id (fun l => { l with
    state := .ready
    exclude := some l.engine
    unit_ := 0
    row := 0
    rowBase := 0
    fetched := 0
    sketches := []
    rowsIn := 0
    rowsOut := 0
    merge := l.mergeAt })

end Sys2Proof.Machine
end

