-- ==== Sys2Proof/Machine/EngMem.lean ====
section
/-! DEFINITION. The engine address space with its loads, staged stores and the growth of the stage (R42, R43, R95–R98,
R105–R108, R139). -/
namespace Sys2Proof.Machine

-- ---------------------------------------------------------------- the engine address space (R95, R96)

/-- The memories that an effective address can name. -/
inductive EngMem where
  | dev          -- device virtual address space
  | data         -- engine data memory
  | quire        -- quire memory and the input windows
  | nowhere
deriving DecidableEq, Repr

def dataBase : Nat := 0xFFFF800000000000
def quireBase : Nat := 0xFFFF800100000000

/-- The memory of an effective address. -/
def engMem (a : Nat) : EngMem :=
  if a < 2 ^ 48 then .dev
  else if dataBase ≤ a ∧ a < dataBase + 0x80000 then .data
  else if quireBase ≤ a ∧ a < quireBase + 0x800000 then .quire
  else .nowhere

/-- The window of an engine in its quire's memory (R96). -/
def winOff (e : Nat) : Nat := 0x600000 + 0x20000 * (e % 16)

/-- The kinds of access of R139: the bit of the region register that grants each. -/
inductive Kind where
  | load | store | atomic
deriving DecidableEq, Repr

def Kind.bit : Kind → Nat
  | .load => 54
  | .store => 53
  | .atomic => 52

/-- Does a valid region of the instance grant the kind over a 4 KiB unit (R138, R139)? -/
def State.unitGranted (s : State) (i unit : Nat) (k : Kind) : Bool :=
  (List.range 8).any (fun n =>
    let v := s.reg (offRset i n)
    bitAt v 63 && bitAt v k.bit && decide (bits v 10 0 ≤ unit) && decide (unit ≤ bits v 42 32))

/-- Is an access to quire memory below the windows allowed: every byte of it (R139)? -/
def State.regionOk (s : State) (i off n : Nat) (k : Kind) : Bool :=
  n == 0 || (List.range ((off + n - 1) / 4096 - off / 4096 + 1)).all (fun j => s.unitGranted i (off / 4096 + j) k)

/-- Why an access of an engine faults, if it does: 0x1006 under R95, R96 and R139, or what the Pager answers. -/
def State.accFault (s : State) (e i a n : Nat) (k : Kind) : Option Nat :=
  match engMem a with
  | .dev =>
    if 2 ^ 48 < a + n then some 0x1006
    else (piecesOf a n).findSome? (fun p => match s.xlate i p.1 (k != .load) with
      | .fault st => some st
      | _ => none)
  | .data =>
    let o := a - dataBase
    if k = .load then (if o + n ≤ 0x80000 then none else some 0x1006)
    else if 0x20000 ≤ o ∧ o + n ≤ 0x60000 then none else some 0x1006
  | .quire =>
    let o := a - quireBase
    let low := min n (0x600000 - o)
    if s.col.mapQuires.contains (e / 16) then some 0x4002
    else if !s.regionOk i o low k then some 0x1006
    else if low < n ∧ !(k == .load && decide (winOff e ≤ max o 0x600000) && decide (o + n ≤ winOff e + 0x20000)) then some 0x1006
    else none
  | .nowhere => some 0x1006

/-- Words of 8 bytes that an access touches. -/
def wordsOf (a n : Nat) : Nat := if n = 0 then 0 else (a + n - 1) / 8 - a / 8 + 1

/-- Counts word accesses of a master of a quire (R141). -/
def State.qmCount (s : State) (q m n : Nat) : State := s.count (0x800300 + 0x8000 * q + 8 * m) n

/-- A master's region registers take the region set of an instance (R138). -/
def State.loadRegion (s : State) (q m i : Nat) : State :=
  let set := (List.range 8).map (fun k => let v := s.reg (offRset i k); if v = 0 then 0 else v + i * 2 ^ 55)
  s.updQuire q (fun x => { x with region := Tab.set x.region m set })

/-- Word accesses of a Spine-side master, which has loaded the region set of the instance it serves (R138, R141). -/
def State.spineCount (s : State) (q m n i : Nat) : State := (s.loadRegion q m i).qmCount q m n

-- ---------------------------------------------------------------- the two ports at one instant (R134)

/-- The arrivals of this instant: earlier ones are forgotten. -/
def State.arrived (s : State) : List Arrival := s.arrivals.filter (fun a => a.time == s.timebase)

/-- Does an arrival cover a byte of a quire? -/
def Arrival.covers (a : Arrival) (q o : Nat) : Bool := a.quire == q && decide (a.off ≤ o) && decide (o < a.off + a.len)

/-- Does an arrival touch the word of a byte? -/
def Arrival.meets (a : Arrival) (q o : Nat) : Bool :=
  a.quire == q && decide (a.off / 8 ≤ o / 8) && decide (o < (a.off + a.len + 7) / 8 * 8)

/-- What a read through one port finds: a word that the other port writes at this instant reads as it stood before every
write of the instant (R134). -/
def State.portRead (s : State) (spine : Bool) (q off n : Nat) : Bytes :=
  let as := s.arrived.filter (fun a => !a.past)
  let raw := s.rd (.quire q) off n
  if as = [] then raw
  else raw.zipIdx.map (fun p =>
    let o := off + p.2
    if as.any (fun a => a.spine != spine && a.meets q o) then
      ((as.find? (fun a => a.covers q o)).map (fun a => a.orig.getD (o - a.off) 0)).getD p.1
    else p.1)

/-- A leaf or a copy descriptor starts: its reads come after the writes so far (log 63). -/
def State.pastArrivals (s : State) : State := { s with arrivals := s.arrivals.map (fun a => { a with past := true }) }

/-- An armed single-bit fault is injected at the next access to its quire: SECDED masks it (R129, R489). -/
def State.qmTouch (s : State) (q : Nat) : State := if s.armed 2 q then s.disarm else s

/-- The bytes of an engine's data memory as its leaf sees them: undefined working space shows free bytes (R41, R98),
and the stage area, which only the E256 writes, shows fresh ones. -/
def State.dataBytes (s : State) (e : Nat) (r : EngRun) (o n : Nat) : Bytes × State :=
  let raw := s.rd (.dmem e) o n
  let (fb, s') := s.freshBytes n
  let seen := (List.range n).map (fun j =>
    let b := raw.getD j 0
    if 0x60000 ≤ o + j then fb.getD j 0
    else if 0x20000 ≤ o + j then b ^^^ ((r.free.map (fun c => (Config.free (c + (o + j))).truncate 8)).getD 0)
    else b)
  (seen, if 0x60000 < o + n then s' else s)

/-- A store to the working space acts at once (R108). -/
def State.workWrite (s : State) (e : Nat) (r : EngRun) (o : Nat) (b : Bytes) : State :=
  s.wrEcc (.dmem e) o (b.zipIdx.map (fun p =>
    p.1 ^^^ ((r.free.map (fun c => (Config.free (c + (o + p.2))).truncate 8)).getD 0)))

/-- Reads `n` bytes at an effective address, waiting for pages (R105, R107); word accesses are counted apart. -/
def State.engRead (s : State) (e : Nat) (r : EngRun) (l : Leaf) (a n : Nat) : Acc Bytes :=
  match s.accFault e l.inst a n .load with
  | some st => .fail st a (if st = 0x5002 then s.logDenied l.inst a else s)
  | none =>
    match engMem a with
    | .dev => s.devRead (.engine e) l.inst a n
    | .data =>
      if s.poisoned (.dmem e) (a - dataBase) n then .fail 0x3001 a s
      else let (b, s) := s.dataBytes e r (a - dataBase) n; .ok b s
    | _ =>
      let o := a - quireBase
      let s := s.qmTouch (e / 16)
      if s.poisoned (.quire (e / 16)) o n then .fail 0x3001 a s
      else .ok (s.portRead false (e / 16) o n) s

/-- Loads `n` bytes at an effective address: in quire memory every word that it touches counts once (R141). -/
def State.engLoad (s : State) (e : Nat) (r : EngRun) (l : Leaf) (a n : Nat) : Acc Bytes :=
  if engMem a = .quire ∧ (s.accFault e l.inst a n .load).isNone then
    (s.qmCount (e / 16) (e % 16) (wordsOf a n)).engRead e r l a n
  else s.engRead e r l a n

/-- Reads elements one after the other, each `n` bytes. -/
def State.engLoads (s : State) (e : Nat) (r : EngRun) (l : Leaf) (n : Nat) : List Nat → List Nat → Acc (List Nat)
  | [], got => .ok got s
  | a :: rest, got =>
    match s.engRead e r l a n with
    | .ok b s => State.engLoads s e r l n rest (got ++ [ofLe b])
    | .wait s => .wait s
    | .fail st ad s => .fail st ad s

-- ---------------------------------------------------------------- the stage (R42, R43)

/-- The bytes of the stage that an item takes: its data and one 8-byte word that names its target. -/
def StageItem.size : StageItem → Nat
  | .quire _ b => b.length + 8
  | .dev _ b => b.length + 8
  | .aadd _ _ => 16
  | .aswp _ _ => 16
  | .accQuire _ _ => 536
  | .accDev _ _ => 536
  | .thumb _ _ => 48
  | .record _ b => b.length + 8
  | .send _ b => b.length + 8

/-- Takes staging frames until there are `want` (R43). -/
def State.takeSpill (s : State) (e i want : Nat) : Nat → List Nat → Option (List Nat × State)
  | 0, have_ => some (have_, s)
  | n + 1, have_ =>
    if want ≤ have_.length then some (have_, s)
    else match s.pickUnit none (some (e / 64)) with
      | none => none
      | some u =>
        match s.takeFrame i u 2 1 with
        | none => none
        | some (f, s) => State.takeSpill s e i want n (have_ ++ [f])

/-- Adds `n` bytes to the stage: over 64 MiB the leaf fails, over 128 KiB it takes staging frames, and without a free
one in the quota it waits for the sweep or fails with it (R43). -/
def State.grow (s : State) (e : Nat) (r : EngRun) (l : Leaf) (n : Nat) : Acc EngRun :=
  let total := r.staged + n
  let want := ceilDiv (total - 131072) mib2
  let w : Waiter := .engine e
  if 67108864 < total then .fail 0x2001 0 s
  else if want ≤ r.spill.length then .ok { r with staged := total } s
  else match s.pager.noRoom.find? (fun p => p.1 == w) with
    | some (_, st) => .fail st 0 (s.forget w)
    | none =>
      let lack := want - r.spill.length
      match (if s.mayTake w l.inst lack then s.takeSpill e l.inst want want r.spill else none) with
      | some (fs, s) => .ok { r with staged := total, spill := fs } (s.forget w)
      | none => .wait (s.wantFrames w l.inst lack)

/-- Checks a staged write to the device address space: its pages are brought in as by any access (R42, R234). -/
def State.stageReady (s : State) (w : Waiter) (i va n : Nat) : Acc Unit := s.devCheck w i va n false

/-- Pins the T0 frames of a staged write, each once for the leaf (R42, R230). -/
def State.stagePin (s : State) (i va n : Nat) (pins : List Nat) : List Nat × State :=
  (piecesOf va n).foldl (fun (x : List Nat × State) p =>
    match x.2.xlate i p.1 false with
    | .t0 _ f => if x.1.contains f then x else (x.1 ++ [f], x.2.pin f)
    | _ => x) (pins, s)

/-- Stages items: every device target (address, length) is made ready, the stage grows, the frames are pinned. The
targets have been checked for faults. -/
def State.stageItems (s : State) (e : Nat) (r : EngRun) (l : Leaf) (targets : List (Nat × Nat)) (items : List StageItem)
    (n : Nat) : Acc EngRun :=
  let rec ready (s : State) : List (Nat × Nat) → Acc Unit
    | [] => .ok () s
    | (va, k) :: rest =>
      match s.stageReady (.engine e) l.inst va k with
      | .ok _ s => ready s rest
      | .wait s => .wait s
      | .fail st a s => .fail st a s
  match ready s targets with
  | .wait s => .wait s
  | .fail st a s => .fail st a s
  | .ok _ s =>
    match s.grow e r l n with
    | .wait s => .wait s
    | .fail st a s => .fail st a s
    | .ok r s =>
      let (pins, s) := targets.foldl (fun (x : List Nat × State) t => x.2.stagePin l.inst t.1 t.2 x.1) (r.pins, s)
      .ok { r with stage := r.stage ++ items, pins := pins } s

def sizeOf_ (items : List StageItem) : Nat := (items.map StageItem.size).foldl (· + ·) 0

/-- Stores bytes at an effective address: at once in the working space, staged elsewhere (R108). -/
def State.engStore (s : State) (e : Nat) (r : EngRun) (l : Leaf) (a : Nat) (b : Bytes) : Acc EngRun :=
  match s.accFault e l.inst a b.length .store with
  | some st => .fail st a (if st = 0x5002 then s.logDenied l.inst a else s)
  | none =>
    match engMem a with
    | .data => .ok r (s.workWrite e r (a - dataBase) b)
    | .dev => s.stageItems e r l [(a, b.length)] [.dev a b] (StageItem.dev a b).size
    | _ => s.stageItems e r l [] [.quire (a - quireBase) b] (b.length + 8)

/-- Stores several byte strings; all are checked first, so that a fault in one leaves none staged (R106). -/
def State.engStores (s : State) (e : Nat) (r : EngRun) (l : Leaf) (ws : List (Nat × Bytes)) : Acc EngRun :=
  match ws.findSome? (fun p => (s.accFault e l.inst p.1 p.2.length .store).map (fun st => (st, p.1))) with
  | some (st, a) => .fail st a (if st = 0x5002 then s.logDenied l.inst a else s)
  | none =>
    let at_ := fun (m : EngMem) => ws.filter (fun p => engMem p.1 == m)
    let devs := at_ .dev
    let items := devs.map (fun p => StageItem.dev p.1 p.2) ++ (at_ .quire).map (fun p => StageItem.quire (p.1 - quireBase) p.2)
    match s.stageItems e r l (devs.map (fun p => (p.1, p.2.length))) items (sizeOf_ items) with
    | .ok r s => .ok r ((at_ .data).foldl (fun s p => s.workWrite e r (p.1 - dataBase) p.2) s)
    | .wait s => .wait s
    | .fail st a s => .fail st a s

end Sys2Proof.Machine
end

