-- ==== Sys2Proof/Machine/EngSink.lean ====
section
/-! DEFINITION. Row groups: their record, the partition of their rows, and the space reserved for them at EMITEND
(R121, R176–R179, R181, R298). -/
namespace Sys2Proof.Machine

/-- A column of a row group: number, EW code, values. -/
abbrev Column := Nat × Nat × List Nat

/-- The code of a column that was emitted at more than one EW (R121). -/
def mixedEw : Nat := 99

/-- The columns of the open row group, by number. -/
def EngRun.columns (r : EngRun) : List Column := r.cols.map (fun c => (c.1, c.2.1, c.2.2))

/-- Rows of the open group: every column has as many and one EW, or `none` (R121). -/
def EngRun.groupRows (r : EngRun) : Option Nat :=
  match r.columns with
  | [] => some 0
  | c :: _ => if r.columns.all (fun x => x.2.2.length == c.2.2.length && x.2.1 != mixedEw) then some c.2.2.length else none

/-- Zeros up to whole 64-byte blocks. -/
def pad64 (b : Bytes) : Bytes := padTo b (ceilDiv b.length 64 * 64)

/-- The values of a column at some rows, packed and padded. -/
def Column.pack (c : Column) (rows : List Nat) : Bytes :=
  pad64 ((rows.map (fun j => leBytes (2 ^ c.2.1) (c.2.2.getD j 0))).flatten)

/-- The record of some rows of a group: header and columns (R121). -/
def recordOf (leaf : Nat) (cols : List Column) (rows : List Nat) : Bytes :=
  let body := (cols.map (fun c => c.pack rows)).flatten
  let code := fun k => ((cols.find? (fun c => c.1 == k)).map (·.2.1)).getD 0
  leBytes 4 rows.length ++ leBytes 1 cols.length ++ zeros 3 ++ leBytes 4 (64 + body.length) ++ zeros 4 ++ leBytes 8 leaf
  ++ (List.range 16).map (fun k => BitVec.ofNat 8 (code k)) ++ zeros 24 ++ body

/-- The 64-byte header of a record. -/
def headerOf (b : Bytes) : Bytes := b.take 64

-- ---------------------------------------------------------------- partitioning (R176, R177)

/-- The partition of row `j`: the CRC-32C chain over its key columns, then the multiplicative hash (R176). -/
def PMap.partition (m : PMap) (cols : List Column) (j : Nat) : Nat :=
  let h := m.keys.foldl (fun h k =>
    match cols.find? (fun c => c.1 == k) with
    | some c => crcRaw h (leBytes (2 ^ c.2.1) (c.2.2.getD j 0)) ^^^ 0xFFFFFFFF
    | none => h) m.seed
  (h * 0x9E3779B97F4A7C15) % 2 ^ 64 / 2 ^ (64 - m.radix)

/-- Is row `j` diverted: does a list key equal its first key column (R177)? -/
def PMap.diverted (m : PMap) (list : List Nat) (cols : List Column) (j : Nat) : Bool :=
  m.mode != 0 && (match cols.find? (fun c => some c.1 == m.keys.head?) with
    | some c => list.any (fun k => k % 2 ^ (8 * 2 ^ c.2.1) == c.2.2.getD j 0)
    | none => false)

/-- The distinct destinations of a map, by destination word. -/
def PMap.distinct (m : PMap) : List Nat := sortBy (fun a b => decide (a ≤ b)) (dedup m.dest)

/-- The destinations of a row: `pos` is its position among the rows that its leaf has emitted (R176, R177). -/
def PMap.destsOf (m : PMap) (list : List Nat) (cols : List Column) (ord pos j : Nat) : List Nat :=
  if m.diverted list cols j then
    match m.mode with
    | 1 => [m.fixed]
    | 2 => m.distinct
    | _ => [m.distinct.getD ((ord * 1031 + pos) % m.distinct.length) 0]
  else [m.dest.getD (m.partition cols j) 0]

/-- The rows that go to each destination, destinations rising. -/
def byDest (ds : List (Nat × Nat)) : List (Nat × List Nat) :=
  (sortBy (fun a b => decide (a ≤ b)) (dedup (ds.map (·.1)))).map (fun d => (d, (ds.filter (fun p => p.1 == d)).map (·.2)))

/-- Reserves space for a record in the open chunk of a quire for a partition, or in a new one; `none`: the region has
no free chunk (R179). Answers the chunks, the chunk's number and the record's address. -/
def reserveLocal (m : PMap) (cs : List Chunk) (q part len rows : Nat) : Option (List Chunk × Nat × Nat) :=
  let at_ := fun (n used : Nat) => m.base + 65536 + n * m.chunk + used
  let fresh := fun (cs : List Chunk) =>
    if cs.length < (m.bytes - 65536) / m.chunk then
      some (cs ++ [{ part := part, quire := q, used := 64 + len, rows := rows }], cs.length, at_ cs.length 64)
    else none
  match findIdxFrom (fun (c : Chunk) => c.open_ && c.part == part && c.quire == q) cs 0 with
  | some (n, c) =>
    if c.used + len ≤ m.chunk ∧ c.rows + rows ≤ 65536 then
      some (cs.set n { c with used := c.used + len, rows := c.rows + rows }, n, at_ n c.used)
    else fresh (cs.set n { c with open_ := false })
  | none => fresh cs

/-- Reserves space for the local records of a group, one for each partition (R179). -/
def reserveAll (m : PMap) (leaf q : Nat) (cols : List Column) : List Chunk → List (Nat × List Nat) →
    Option (List Chunk × List (Reserved × Bytes))
  | cs, [] => some (cs, [])
  | cs, (d, rows) :: rest =>
    let b := recordOf leaf cols rows
    match reserveLocal m cs q (d % 65536) b.length rows.length with
    | none => none
    | some (cs, n, a) =>
      (reserveAll m leaf q cols cs rest).map (fun x =>
        (x.1, ({ va := a, len := b.length, header := headerOf b, chunk := some n, rows := rows.length }, b) :: x.2))

-- ---------------------------------------------------------------- EMITEND (R121)

/-- Checks and stages reserved records. -/
def State.stageRecords (s : State) (e : Nat) (r : EngRun) (l : Leaf) (vs : List (Reserved × Bytes)) (sends : List StageItem) :
    Acc EngRun :=
  match vs.findSome? (fun v => (s.accFault e l.inst v.1.va v.1.len .store).map (fun st => (st, v.1.va))) with
  | some (st, a) => .fail st a (if st = 0x5002 then s.logDenied l.inst a else s)
  | none =>
    let items := vs.map (fun v => StageItem.record v.1.va v.2) ++ sends
    match s.stageItems e r l (vs.map (fun v => (v.1.va, v.1.len))) items (72 * items.length) with
    | .ok r s => .ok { r with resv := r.resv ++ vs.map (·.1) } s
    | .wait s => .wait s
    | .fail st a s => .fail st a s

/-- A group under PARTITION or EXCHANGE_ALL: at most 1,024 rows, 114,688 bytes of values, every key column (R176). -/
def groupFits (keys : List Nat) (cols : List Column) (n : Nat) : Bool :=
  decide (n ≤ 1024) && decide ((cols.map (fun c => n * 2 ^ c.2.1)).foldl (· + ·) 0 ≤ 114688)
  && keys.all (fun k => cols.any (fun c => c.1 == k))

/-- Under ORDERED, rows reach the sink in the order of the leaves: a group waits while a leaf before its own has not
ended (R55; log 34). -/
def State.orderWait (s : State) (g : SigInfo) (l : Leaf) : Bool :=
  g.ordered && s.leaves.any (fun p => p.2.run == l.run && p.2.sig == l.sig && decide (p.2.ord < l.ord))

/-- Closes the open row group: EMITEND, or a commit with a group open (R121). A group without rows leaves no record. -/
def State.closeGroup (s : State) (e : Nat) (r : EngRun) (l : Leaf) : Acc EngRun :=
  match s.run? l.run, r.groupRows with
  | none, _ => .ok r s
  | some _, none => .fail 0x1002 0 s
  | some run, some n =>
    let g := sigInfo run.image l.sig
    let cols := r.columns
    let closed := { r with cols := [], rows := r.rows + n }
    let q := e / 16
    if cols = [] then .ok r s
    else if s.orderWait g l then .wait s
    else if g.sink = 4 then
      if n = 0 then .ok closed s
      else
        let b := recordOf l.id cols (List.range n)
        let off := Tab.get run.results g.ko 0
        if g.ke < off + b.length then .fail 0x2001 0 s
        else match s.stageRecords e closed l [({ va := g.ko + off, len := b.length, header := headerOf b }, b)] [] with
          | .ok r s => .ok r (s.updRun l.run (fun x => { x with results := Tab.set x.results g.ko (off + b.length) }))
          | .wait s => .wait s
          | .fail st a s => .fail st a s
    else if g.sink = 1 then
      let m := sigMap run.image g
      if !groupFits m.keys cols n then .fail 0x1002 0 s
      else
        let list := ((run.sig l.sig).divert).getD m.divert
        let ds := ((List.range n).map (fun j =>
          (m.destsOf list cols (l.ord % 2 ^ 30) (r.rows + j) j).map (fun d => (d, j)))).flatten
        let parts := byDest ds
        match reserveAll m l.id q cols (run.sig l.sig).chunks (parts.filter (fun p => destLocal p.1)) with
        | none => .fail 0x2001 0 s
        | some (cs, vs) =>
          let sends := (parts.filter (fun p => !destLocal p.1)).map (fun p =>
            StageItem.send (p.1 % 65536) (recordOf l.id cols p.2))
          match s.stageRecords e closed l vs sends with
          | .ok r s =>
            let s := s.updSig l.run l.sig (fun x => { x with chunks := cs })
            let c := 0x802000 + 0x8000 * q
            .ok r ((s.count (c + 0x10) n).count (c + 0x18)
              ((List.range n).filter (fun j => m.diverted list cols j)).length)
          | .wait s => .wait s
          | .fail st a s => .fail st a s
    else
      if !groupFits [] cols n then .fail 0x1002 0 s
      else if n = 0 then .ok closed s
      else
        let b := recordOf l.id cols (List.range n)
        s.stageRecords e closed l [] (((s.groupAssocs l.inst (g.ko % 65536)).filter s.takesNew).map (fun a => StageItem.send a b))

end Sys2Proof.Machine
end

