-- ==== Sys2Proof/Machine/EngineWord.lean ====
section
/-! DEFINITION. The 32-bit instruction words of the operator engines (R100, R109–R122): the decoder that an engine
applies to the word at its instruction address, and the encoder, both from the format and opcode tables of
chapter 04. Engine words lie in code sections of folios; the table of commands gives no row bits. -/
namespace Sys2Proof.Machine

-- ---------------------------------------------------------------- fields of the formats (R100)

def fMaj (w : BitVec 32) : BitVec 6 := w.extractLsb' 26 6
def fD (w : BitVec 32) : BitVec 5 := w.extractLsb' 21 5
def fA (w : BitVec 32) : BitVec 5 := w.extractLsb' 16 5
def fB (w : BitVec 32) : BitVec 5 := w.extractLsb' 11 5
def fM (w : BitVec 32) : BitVec 1 := w.extractLsb' 10 1
def fMk (w : BitVec 32) : BitVec 3 := w.extractLsb' 7 3
def fS (w : BitVec 32) : BitVec 1 := w.extractLsb' 6 1
def fFn (w : BitVec 32) : BitVec 6 := w.extractLsb' 0 6
def fImm (w : BitVec 32) : BitVec 16 := w.extractLsb' 0 16
def fJ (w : BitVec 32) : BitVec 26 := w.extractLsb' 0 26
/-- MS: SZ, SX, the zero bit and OFF12. -/
def fSz (w : BitVec 32) : BitVec 2 := w.extractLsb' 14 2
def fSx (w : BitVec 32) : BitVec 1 := w.extractLsb' 13 1
def fZ12 (w : BitVec 32) : BitVec 1 := w.extractLsb' 12 1
def fOff12 (w : BitVec 32) : BitVec 12 := w.extractLsb' 0 12
/-- MV: M, MK, FF and OFF11. -/
def fVm (w : BitVec 32) : BitVec 1 := w.extractLsb' 15 1
def fVmk (w : BitVec 32) : BitVec 3 := w.extractLsb' 12 3
def fFf (w : BitVec 32) : BitVec 1 := w.extractLsb' 11 1
def fOff11 (w : BitVec 32) : BitVec 11 := w.extractLsb' 0 11

/-- The word of each format. -/
def wRR (maj : BitVec 6) (d a b : BitVec 5) (m : BitVec 1) (mk : BitVec 3) (s : BitVec 1) (fn : BitVec 6) : BitVec 32 :=
  maj ++ d ++ a ++ b ++ m ++ mk ++ s ++ fn
def wRI (maj : BitVec 6) (d a : BitVec 5) (imm : BitVec 16) : BitVec 32 := maj ++ d ++ a ++ imm
def wMS (maj : BitVec 6) (t a : BitVec 5) (sz : BitVec 2) (sx z : BitVec 1) (off : BitVec 12) : BitVec 32 :=
  maj ++ t ++ a ++ sz ++ sx ++ z ++ off
def wMV (maj : BitVec 6) (t a : BitVec 5) (m : BitVec 1) (mk : BitVec 3) (ff : BitVec 1) (off : BitVec 11) : BitVec 32 :=
  maj ++ t ++ a ++ m ++ mk ++ ff ++ off
def wJ (maj : BitVec 6) (off : BitVec 26) : BitVec 32 := maj ++ off

/-- With M = 0 the field MK is not used, and must be zero (R100). -/
def maskOk (m : BitVec 1) (mk : BitVec 3) : Bool := m != 0 || mk == 0

/-- A mask register named in a 5-bit field: its bits [4:3] are zero (R100). -/
def maskField (f : BitVec 5) : Bool := f.extractLsb' 3 2 == 0
def lo3 (f : BitVec 5) : BitVec 3 := f.extractLsb' 0 3
def up3 (f : BitVec 3) : BitVec 5 := (0 : BitVec 2) ++ f
/-- An accumulator is named by the low 2 bits of its field (R100). -/
def lo2 (f : BitVec 5) : BitVec 2 := f.extractLsb' 0 2
def up2 (f : BitVec 2) : BitVec 5 := (0 : BitVec 3) ++ f

/-- The scalar functions (MAJOR 0x00). -/
def decodeAlu (e : Nat) (w : BitVec 32) : Option Instr :=
  match (fFn w).toNat with
  | 0x00 => if fM w == 0 && fMk w == 0 && fS w == 0 then some (.add e (fD w) (fA w) (fB w)) else none
  | 0x01 => if fM w == 0 && fMk w == 0 && fS w == 0 then some (.sub e (fD w) (fA w) (fB w)) else none
  | 0x02 => if fM w == 0 && fMk w == 0 && fS w == 0 then some (.and e (fD w) (fA w) (fB w)) else none
  | 0x03 => if fM w == 0 && fMk w == 0 && fS w == 0 then some (.or e (fD w) (fA w) (fB w)) else none
  | 0x04 => if fM w == 0 && fMk w == 0 && fS w == 0 then some (.xor e (fD w) (fA w) (fB w)) else none
  | 0x05 => if fM w == 0 && fMk w == 0 && fS w == 0 then some (.sll e (fD w) (fA w) (fB w)) else none
  | 0x06 => if fM w == 0 && fMk w == 0 && fS w == 0 then some (.srl e (fD w) (fA w) (fB w)) else none
  | 0x07 => if fM w == 0 && fMk w == 0 && fS w == 0 then some (.sra e (fD w) (fA w) (fB w)) else none
  | 0x08 => if fM w == 0 && fMk w == 0 && fS w == 0 then some (.mul e (fD w) (fA w) (fB w)) else none
  | 0x09 => if fM w == 0 && fMk w == 0 && fS w == 0 then some (.mulh e (fD w) (fA w) (fB w)) else none
  | 0x0A => if fM w == 0 && fMk w == 0 && fS w == 0 then some (.mulhu e (fD w) (fA w) (fB w)) else none
  | 0x0B => if fM w == 0 && fMk w == 0 && fS w == 0 then some (.div e (fD w) (fA w) (fB w)) else none
  | 0x0C => if fM w == 0 && fMk w == 0 && fS w == 0 then some (.divu e (fD w) (fA w) (fB w)) else none
  | 0x0D => if fM w == 0 && fMk w == 0 && fS w == 0 then some (.rem e (fD w) (fA w) (fB w)) else none
  | 0x0E => if fM w == 0 && fMk w == 0 && fS w == 0 then some (.remu e (fD w) (fA w) (fB w)) else none
  | 0x0F => if fM w == 0 && fMk w == 0 && fS w == 0 then some (.slt e (fD w) (fA w) (fB w)) else none
  | 0x10 => if fM w == 0 && fMk w == 0 && fS w == 0 then some (.sltu e (fD w) (fA w) (fB w)) else none
  | 0x11 => if fM w == 0 && fMk w == 0 && fS w == 0 then some (.min e (fD w) (fA w) (fB w)) else none
  | 0x12 => if fM w == 0 && fMk w == 0 && fS w == 0 then some (.max e (fD w) (fA w) (fB w)) else none
  | 0x13 => if fM w == 0 && fMk w == 0 && fS w == 0 then some (.minu e (fD w) (fA w) (fB w)) else none
  | 0x14 => if fM w == 0 && fMk w == 0 && fS w == 0 then some (.maxu e (fD w) (fA w) (fB w)) else none
  | 0x15 => if fB w == 0 && fM w == 0 && fMk w == 0 && fS w == 0 then some (.clz e (fD w) (fA w)) else none
  | 0x16 => if fB w == 0 && fM w == 0 && fMk w == 0 && fS w == 0 then some (.ctz e (fD w) (fA w)) else none
  | 0x17 => if fB w == 0 && fM w == 0 && fMk w == 0 && fS w == 0 then some (.popc e (fD w) (fA w)) else none
  | _ => none

/-- The memory-side functions (MAJOR 0x14). -/
def decodeMemx (e : Nat) (w : BitVec 32) : Option Instr :=
  match (fFn w).toNat with
  | 0x00 => if fD w == 0 && fM w == 0 && fMk w == 0 && fS w == 0 then some (.aadd e (fA w) (fB w)) else none
  | 0x01 => if fD w == 0 && fM w == 0 && fMk w == 0 && fS w == 0 then some (.aswp e (fA w) (fB w)) else none
  | 0x02 => if fS w == 0 && maskOk (fM w) (fMk w) then some (.fetch e (fD w) (fA w) (fB w) (fM w) (fMk w)) else none
  | 0x03 => if fM w == 0 && fMk w == 0 && fS w == 0 then some (.ths e (fD w) (fA w) (fB w)) else none
  | 0x04 => if fB w == 0 && fM w == 0 && fMk w == 0 && fS w == 0 then some (.thn e (fD w) (fA w)) else none
  | 0x05 => if fD w == 0 && fM w == 0 && fMk w == 0 && fS w == 0 then some (.thw e (fA w) (fB w)) else none
  | 0x06 => if fB w == 0 && fM w == 0 && fMk w == 0 && fS w == 0 && maskField (fD w) then some (.mld e (fD w) (fA w)) else none
  | 0x07 => if fD w == 0 && fM w == 0 && fMk w == 0 && fS w == 0 && maskField (fB w) then some (.mst e (fA w) (fB w)) else none
  | _ => none

/-- The JALR (MAJOR 0x20). -/
def decodeJalr (e : Nat) (w : BitVec 32) : Option Instr :=
  match (fFn w).toNat with
  | 0x00 => if fB w == 0 && fM w == 0 && fMk w == 0 && fS w == 0 then some (.jalr e (fD w) (fA w)) else none
  | _ => none

/-- The vector integer functions (MAJOR 0x28). -/
def decodeVint (e : Nat) (w : BitVec 32) : Option Instr :=
  match (fFn w).toNat with
  | 0x00 => if maskOk (fM w) (fMk w) then some (.vadd e (fD w) (fA w) (fB w) (fM w) (fMk w) (fS w)) else none
  | 0x01 => if maskOk (fM w) (fMk w) then some (.vsub e (fD w) (fA w) (fB w) (fM w) (fMk w) (fS w)) else none
  | 0x02 => if maskOk (fM w) (fMk w) then some (.vmul e (fD w) (fA w) (fB w) (fM w) (fMk w) (fS w)) else none
  | 0x03 => if maskOk (fM w) (fMk w) then some (.vand e (fD w) (fA w) (fB w) (fM w) (fMk w) (fS w)) else none
  | 0x04 => if maskOk (fM w) (fMk w) then some (.vor e (fD w) (fA w) (fB w) (fM w) (fMk w) (fS w)) else none
  | 0x05 => if maskOk (fM w) (fMk w) then some (.vxor e (fD w) (fA w) (fB w) (fM w) (fMk w) (fS w)) else none
  | 0x06 => if maskOk (fM w) (fMk w) then some (.vsll e (fD w) (fA w) (fB w) (fM w) (fMk w) (fS w)) else none
  | 0x07 => if maskOk (fM w) (fMk w) then some (.vsrl e (fD w) (fA w) (fB w) (fM w) (fMk w) (fS w)) else none
  | 0x08 => if maskOk (fM w) (fMk w) then some (.vsra e (fD w) (fA w) (fB w) (fM w) (fMk w) (fS w)) else none
  | 0x09 => if maskOk (fM w) (fMk w) then some (.vmin e (fD w) (fA w) (fB w) (fM w) (fMk w) (fS w)) else none
  | 0x0A => if maskOk (fM w) (fMk w) then some (.vmax e (fD w) (fA w) (fB w) (fM w) (fMk w) (fS w)) else none
  | 0x0B => if maskOk (fM w) (fMk w) then some (.vminu e (fD w) (fA w) (fB w) (fM w) (fMk w) (fS w)) else none
  | 0x0C => if maskOk (fM w) (fMk w) then some (.vmaxu e (fD w) (fA w) (fB w) (fM w) (fMk w) (fS w)) else none
  | 0x10 => if maskOk (fM w) (fMk w) then some (.vaddcS e (fD w) (fA w) (fB w) (fM w) (fMk w) (fS w)) else none
  | 0x11 => if maskOk (fM w) (fMk w) then some (.vaddcU e (fD w) (fA w) (fB w) (fM w) (fMk w) (fS w)) else none
  | 0x12 => if maskOk (fM w) (fMk w) then some (.vsubcS e (fD w) (fA w) (fB w) (fM w) (fMk w) (fS w)) else none
  | 0x13 => if maskOk (fM w) (fMk w) then some (.vsubcU e (fD w) (fA w) (fB w) (fM w) (fMk w) (fS w)) else none
  | 0x14 => if maskOk (fM w) (fMk w) then some (.vmulcS e (fD w) (fA w) (fB w) (fM w) (fMk w) (fS w)) else none
  | 0x18 => if fB w == 0 && fS w == 0 && maskOk (fM w) (fMk w) then some (.vmv e (fD w) (fA w) (fM w) (fMk w)) else none
  | 0x19 => if fA w == 0 && fS w == 1 && maskOk (fM w) (fMk w) then some (.vbcast e (fD w) (fB w) (fM w) (fMk w)) else none
  | _ => none

/-- The vector float functions (MAJOR 0x29). -/
def decodeVfp (e : Nat) (w : BitVec 32) : Option Instr :=
  match (fFn w).toNat with
  | 0x00 => if maskOk (fM w) (fMk w) then some (.vfadd e (fD w) (fA w) (fB w) (fM w) (fMk w) (fS w)) else none
  | 0x01 => if maskOk (fM w) (fMk w) then some (.vfsub e (fD w) (fA w) (fB w) (fM w) (fMk w) (fS w)) else none
  | 0x02 => if maskOk (fM w) (fMk w) then some (.vfmul e (fD w) (fA w) (fB w) (fM w) (fMk w) (fS w)) else none
  | 0x03 => if maskOk (fM w) (fMk w) then some (.vfdiv e (fD w) (fA w) (fB w) (fM w) (fMk w) (fS w)) else none
  | 0x04 => if maskOk (fM w) (fMk w) then some (.vfmin e (fD w) (fA w) (fB w) (fM w) (fMk w) (fS w)) else none
  | 0x05 => if maskOk (fM w) (fMk w) then some (.vfmax e (fD w) (fA w) (fB w) (fM w) (fMk w) (fS w)) else none
  | 0x06 => if fB w == 0 && fS w == 0 && maskOk (fM w) (fMk w) then some (.vfabs e (fD w) (fA w) (fM w) (fMk w)) else none
  | 0x07 => if fB w == 0 && fS w == 0 && maskOk (fM w) (fMk w) then some (.vfneg e (fD w) (fA w) (fM w) (fMk w)) else none
  | _ => none

/-- The mask functions (MAJOR 0x2B). -/
def decodeVmsk (e : Nat) (w : BitVec 32) : Option Instr :=
  match (fFn w).toNat with
  | 0x00 => if maskField (fD w) && maskField (fA w) && maskField (fB w) && fM w == 0 && fMk w == 0 && fS w == 0 then some (.mand e (lo3 (fD w)) (lo3 (fA w)) (lo3 (fB w))) else none
  | 0x01 => if maskField (fD w) && maskField (fA w) && maskField (fB w) && fM w == 0 && fMk w == 0 && fS w == 0 then some (.mor e (lo3 (fD w)) (lo3 (fA w)) (lo3 (fB w))) else none
  | 0x02 => if maskField (fD w) && maskField (fA w) && maskField (fB w) && fM w == 0 && fMk w == 0 && fS w == 0 then some (.mxor e (lo3 (fD w)) (lo3 (fA w)) (lo3 (fB w))) else none
  | 0x03 => if maskField (fD w) && maskField (fA w) && maskField (fB w) && fM w == 0 && fMk w == 0 && fS w == 0 then some (.mandn e (lo3 (fD w)) (lo3 (fA w)) (lo3 (fB w))) else none
  | 0x04 => if maskField (fD w) && maskField (fA w) && fB w == 0 && fM w == 0 && fMk w == 0 && fS w == 0 then some (.mnot e (lo3 (fD w)) (lo3 (fA w))) else none
  | 0x05 => if maskField (fD w) && fA w == 0 && fB w == 0 && fM w == 0 && fMk w == 0 && fS w == 0 then some (.mset e (lo3 (fD w))) else none
  | 0x06 => if maskField (fA w) && fB w == 0 && fM w == 0 && fMk w == 0 && fS w == 0 then some (.mpop e (fD w) (lo3 (fA w))) else none
  | 0x07 => if maskField (fA w) && fB w == 0 && fM w == 0 && fMk w == 0 && fS w == 0 then some (.mffs e (fD w) (lo3 (fA w))) else none
  | 0x08 => if maskField (fD w) && fB w == 0 && fM w == 0 && fMk w == 0 && fS w == 0 then some (.mfromg e (lo3 (fD w)) (fA w)) else none
  | 0x09 => if maskField (fA w) && fB w == 0 && fM w == 0 && fMk w == 0 && fS w == 0 then some (.mtog e (fD w) (lo3 (fA w))) else none
  | _ => none

/-- The rearrangement and conversion functions (MAJOR 0x2C). -/
def decodeVperm (e : Nat) (w : BitVec 32) : Option Instr :=
  match (fFn w).toNat with
  | 0x00 => if fB w == 0 && fS w == 0 && maskOk (fM w) (fMk w) && fM w == 1 then some (.vcmprs e (fD w) (fA w) (fM w) (fMk w)) else none
  | 0x01 => if fB w == 0 && fS w == 0 && maskOk (fM w) (fMk w) && fM w == 1 then some (.vexpnd e (fD w) (fA w) (fM w) (fMk w)) else none
  | 0x02 => if fB w == 0 && fS w == 0 && maskOk (fM w) (fMk w) then some (.vscan e (fD w) (fA w) (fM w) (fMk w)) else none
  | 0x03 => if fB w == 0 && fS w == 0 && maskOk (fM w) (fMk w) && fM w == 0 then some (.vsort e (fD w) (fA w) (fM w) (fMk w)) else none
  | 0x04 => if fB w == 0 && fS w == 0 && maskOk (fM w) (fMk w) && fM w == 0 then some (.vsortp e (fD w) (fA w) (fM w) (fMk w)) else none
  | 0x05 => if maskOk (fM w) (fMk w) && fS w == 1 then some (.vunpk e (fD w) (fA w) (fB w) (fM w) (fMk w) (fS w)) else none
  | 0x06 => if fM w == 0 && fMk w == 0 && fS w == 0 then some (.vext e (fD w) (fA w) (fB w)) else none
  | 0x07 => if fM w == 0 && fMk w == 0 && fS w == 0 then some (.vins e (fD w) (fA w) (fB w)) else none
  | 0x08 => if fB w == 0 && fS w == 0 && maskOk (fM w) (fMk w) then some (.vwidenS e (fD w) (fA w) (fM w) (fMk w)) else none
  | 0x09 => if fB w == 0 && fS w == 0 && maskOk (fM w) (fMk w) then some (.vwidenU e (fD w) (fA w) (fM w) (fMk w)) else none
  | 0x0A => if fB w == 0 && fS w == 0 && maskOk (fM w) (fMk w) then some (.vnarrow e (fD w) (fA w) (fM w) (fMk w)) else none
  | 0x0B => if fB w == 0 && fS w == 0 && maskOk (fM w) (fMk w) then some (.vcvtIf e (fD w) (fA w) (fM w) (fMk w)) else none
  | 0x0C => if fB w == 0 && fS w == 0 && maskOk (fM w) (fMk w) then some (.vcvtFi e (fD w) (fA w) (fM w) (fMk w)) else none
  | 0x0D => if fB w == 0 && fS w == 0 && maskOk (fM w) (fMk w) then some (.vcvtSd e (fD w) (fA w) (fM w) (fMk w)) else none
  | 0x0E => if fB w == 0 && fS w == 0 && maskOk (fM w) (fMk w) then some (.vcvtDs e (fD w) (fA w) (fM w) (fMk w)) else none
  | _ => none

/-- The hashing (MAJOR 0x2D). -/
def decodeVhash (e : Nat) (w : BitVec 32) : Option Instr :=
  match (fFn w).toNat with
  | 0x00 => if maskOk (fM w) (fMk w) then some (.hashc e (fD w) (fA w) (fB w) (fM w) (fMk w) (fS w)) else none
  | 0x01 => if maskOk (fM w) (fMk w) then some (.hashm e (fD w) (fA w) (fB w) (fM w) (fMk w) (fS w)) else none
  | _ => none

/-- The exact accumulators (MAJOR 0x2E). -/
def decodeXacc (e : Nat) (w : BitVec 32) : Option Instr :=
  match (fFn w).toNat with
  | 0x00 => if fA w == 0 && fB w == 0 && fM w == 0 && fMk w == 0 && fS w == 0 then some (.xclr e (lo2 (fD w))) else none
  | 0x01 => if fB w == 0 && fS w == 0 && maskOk (fM w) (fMk w) then some (.xaddf e (lo2 (fD w)) (fA w) (fM w) (fMk w)) else none
  | 0x02 => if fB w == 0 && fS w == 0 && maskOk (fM w) (fMk w) then some (.xaddi e (lo2 (fD w)) (fA w) (fM w) (fMk w)) else none
  | 0x03 => if maskOk (fM w) (fMk w) then some (.xmacf e (lo2 (fD w)) (fA w) (fB w) (fM w) (fMk w) (fS w)) else none
  | 0x04 => if fB w == 0 && fM w == 0 && fMk w == 0 && fS w == 0 then some (.xmrg e (lo2 (fD w)) (lo2 (fA w))) else none
  | 0x05 => if fB w == 0 && fM w == 0 && fMk w == 0 && fS w == 0 then some (.xrnd e (fD w) (lo2 (fA w))) else none
  | 0x06 => if fB w == 0 && fM w == 0 && fMk w == 0 && fS w == 0 then some (.xrnds e (fD w) (lo2 (fA w))) else none
  | 0x07 => if fM w == 0 && fMk w == 0 && fS w == 0 then some (.xrdw e (fD w) (lo2 (fA w)) (fB w)) else none
  | 0x08 => if fD w == 0 && fM w == 0 && fMk w == 0 && fS w == 0 then some (.xpost e (lo2 (fA w)) (fB w)) else none
  | 0x09 => if fB w == 0 && fM w == 0 && fMk w == 0 && fS w == 0 then some (.xld e (lo2 (fD w)) (fA w)) else none
  | 0x0A => if fD w == 0 && fM w == 0 && fMk w == 0 && fS w == 0 then some (.xst e (lo2 (fA w)) (fB w)) else none
  | _ => none

/-- The leaf functions (MAJOR 0x30). -/
def decodeLeaf (e : Nat) (w : BitVec 32) : Option Instr :=
  match (fFn w).toNat with
  | 0x00 => if fA w == 0 && fB w == 0 && fM w == 0 && fMk w == 0 && fS w == 0 then some (.bnext e (fD w)) else none
  | 0x01 => if fD w == 0 && fS w == 0 && maskOk (fM w) (fMk w) then some (.emit e (fA w) (fB w) (fM w) (fMk w)) else none
  | 0x02 => if fD w == 0 && fA w == 0 && fB w == 0 && fM w == 0 && fMk w == 0 && fS w == 0 then some (.emitend e) else none
  | 0x03 => if fD w == 0 && fM w == 0 && fMk w == 0 && fS w == 0 then some (.spawn e (fA w) (fB w)) else none
  | 0x04 => if fD w == 0 && fA w == 0 && fB w == 0 && fM w == 0 && fMk w == 0 && fS w == 0 then some (.commit e) else none
  | _ => none

/-- Compare to mask (MAJOR 0x2A, R110): D names a mask, FN[2:0] the condition, FN[3] is zero, FN[5:4] the kind. -/
def decodeVcmp (e : Nat) (w : BitVec 32) : Option Instr :=
  let cond : BitVec 3 := (fFn w).extractLsb' 0 3
  let kind : BitVec 2 := (fFn w).extractLsb' 4 2
  if maskField (fD w) && maskOk (fM w) (fMk w) && (fFn w).extractLsb' 3 1 == 0 && decide (cond.toNat < 6) then
    some (.vcmp e (fD w) (fA w) (fB w) (fM w) (fMk w) (fS w) kind cond)
  else none

/-- SHI: IMM[15:8] is zero and IMM[7:6] below 3. LI: A is zero. SETVL: IMM[15:5] is zero. MFC: A is zero. MTC: D is
zero (R100, R101, R109). -/
def shiOk (imm : BitVec 16) : Bool := imm.extractLsb' 8 8 == 0 && decide ((imm.extractLsb' 6 2).toNat < 3)
def setvlOk (imm : BitVec 16) : Bool := imm.extractLsb' 5 11 == 0

/-- The instruction that a word encodes for engine `e`, or none for a word that R100 fails with 0x1001. -/
def decodeEngine (e : Nat) (w : BitVec 32) : Option Instr :=
  match (fMaj w).toNat with
  | 0x00 => decodeAlu e w
  | 0x01 => some (.addi e (fD w) (fA w) (fImm w))
  | 0x02 => some (.andi e (fD w) (fA w) (fImm w))
  | 0x03 => some (.ori e (fD w) (fA w) (fImm w))
  | 0x04 => some (.xori e (fD w) (fA w) (fImm w))
  | 0x05 => some (.slti e (fD w) (fA w) (fImm w))
  | 0x06 => some (.sltiu e (fD w) (fA w) (fImm w))
  | 0x07 => if shiOk (fImm w) then some (.shi e (fD w) (fA w) (fImm w)) else none
  | 0x08 => if fA w == 0 then some (.li e (fD w) (fImm w)) else none
  | 0x09 => some (.lsh e (fD w) (fA w) (fImm w))
  | 0x0A => if setvlOk (fImm w) then some (.setvl e (fD w) (fA w) (fImm w)) else none
  | 0x0B => if fA w == 0 then some (.mfc e (fD w) (fImm w)) else none
  | 0x0C => if fD w == 0 then some (.mtc e (fA w) (fImm w)) else none
  | 0x10 => if fZ12 w == 0 then some (.lds e (fD w) (fA w) (fSz w) (fSx w) (fOff12 w)) else none
  | 0x11 => if fZ12 w == 0 && fSx w == 0 then some (.sts e (fD w) (fA w) (fSz w) (fOff12 w)) else none
  | 0x12 => if maskOk (fVm w) (fVmk w) then some (.vld e (fD w) (fA w) (fVm w) (fVmk w) (fFf w) (fOff11 w)) else none
  | 0x13 => if maskOk (fVm w) (fVmk w) then some (.vst e (fD w) (fA w) (fVm w) (fVmk w) (fFf w) (fOff11 w)) else none
  | 0x14 => decodeMemx e w
  | 0x18 => some (.beq e (fD w) (fA w) (fImm w))
  | 0x19 => some (.bne e (fD w) (fA w) (fImm w))
  | 0x1A => some (.blt e (fD w) (fA w) (fImm w))
  | 0x1B => some (.bge e (fD w) (fA w) (fImm w))
  | 0x1C => some (.bltu e (fD w) (fA w) (fImm w))
  | 0x1D => some (.bgeu e (fD w) (fA w) (fImm w))
  | 0x1E => some (.j e (fJ w))
  | 0x1F => some (.jal e (fJ w))
  | 0x20 => decodeJalr e w
  | 0x28 => decodeVint e w
  | 0x29 => decodeVfp e w
  | 0x2A => decodeVcmp e w
  | 0x2B => decodeVmsk e w
  | 0x2C => decodeVperm e w
  | 0x2D => decodeVhash e w
  | 0x2E => decodeXacc e w
  | 0x30 => decodeLeaf e w
  | _ => none

/-- The word of an engine instruction; none for a command that is no engine instruction. -/
def encodeEngine (i : Instr) : Option (BitVec 32) :=
  match i with
  | .add _ d a b => some (wRR 0x00 d a b 0 0 0 0x00)
  | .sub _ d a b => some (wRR 0x00 d a b 0 0 0 0x01)
  | .and _ d a b => some (wRR 0x00 d a b 0 0 0 0x02)
  | .or _ d a b => some (wRR 0x00 d a b 0 0 0 0x03)
  | .xor _ d a b => some (wRR 0x00 d a b 0 0 0 0x04)
  | .sll _ d a b => some (wRR 0x00 d a b 0 0 0 0x05)
  | .srl _ d a b => some (wRR 0x00 d a b 0 0 0 0x06)
  | .sra _ d a b => some (wRR 0x00 d a b 0 0 0 0x07)
  | .mul _ d a b => some (wRR 0x00 d a b 0 0 0 0x08)
  | .mulh _ d a b => some (wRR 0x00 d a b 0 0 0 0x09)
  | .mulhu _ d a b => some (wRR 0x00 d a b 0 0 0 0x0A)
  | .div _ d a b => some (wRR 0x00 d a b 0 0 0 0x0B)
  | .divu _ d a b => some (wRR 0x00 d a b 0 0 0 0x0C)
  | .rem _ d a b => some (wRR 0x00 d a b 0 0 0 0x0D)
  | .remu _ d a b => some (wRR 0x00 d a b 0 0 0 0x0E)
  | .slt _ d a b => some (wRR 0x00 d a b 0 0 0 0x0F)
  | .sltu _ d a b => some (wRR 0x00 d a b 0 0 0 0x10)
  | .min _ d a b => some (wRR 0x00 d a b 0 0 0 0x11)
  | .max _ d a b => some (wRR 0x00 d a b 0 0 0 0x12)
  | .minu _ d a b => some (wRR 0x00 d a b 0 0 0 0x13)
  | .maxu _ d a b => some (wRR 0x00 d a b 0 0 0 0x14)
  | .clz _ d a => some (wRR 0x00 d a 0 0 0 0 0x15)
  | .ctz _ d a => some (wRR 0x00 d a 0 0 0 0 0x16)
  | .popc _ d a => some (wRR 0x00 d a 0 0 0 0 0x17)
  | .aadd _ a b => some (wRR 0x14 0 a b 0 0 0 0x00)
  | .aswp _ a b => some (wRR 0x14 0 a b 0 0 0 0x01)
  | .fetch _ d a b m mk => some (wRR 0x14 d a b m mk 0 0x02)
  | .ths _ d a b => some (wRR 0x14 d a b 0 0 0 0x03)
  | .thn _ d a => some (wRR 0x14 d a 0 0 0 0 0x04)
  | .thw _ a b => some (wRR 0x14 0 a b 0 0 0 0x05)
  | .mld _ d a => some (wRR 0x14 d a 0 0 0 0 0x06)
  | .mst _ a b => some (wRR 0x14 0 a b 0 0 0 0x07)
  | .jalr _ d a => some (wRR 0x20 d a 0 0 0 0 0x00)
  | .vadd _ d a b m mk s => some (wRR 0x28 d a b m mk s 0x00)
  | .vsub _ d a b m mk s => some (wRR 0x28 d a b m mk s 0x01)
  | .vmul _ d a b m mk s => some (wRR 0x28 d a b m mk s 0x02)
  | .vand _ d a b m mk s => some (wRR 0x28 d a b m mk s 0x03)
  | .vor _ d a b m mk s => some (wRR 0x28 d a b m mk s 0x04)
  | .vxor _ d a b m mk s => some (wRR 0x28 d a b m mk s 0x05)
  | .vsll _ d a b m mk s => some (wRR 0x28 d a b m mk s 0x06)
  | .vsrl _ d a b m mk s => some (wRR 0x28 d a b m mk s 0x07)
  | .vsra _ d a b m mk s => some (wRR 0x28 d a b m mk s 0x08)
  | .vmin _ d a b m mk s => some (wRR 0x28 d a b m mk s 0x09)
  | .vmax _ d a b m mk s => some (wRR 0x28 d a b m mk s 0x0A)
  | .vminu _ d a b m mk s => some (wRR 0x28 d a b m mk s 0x0B)
  | .vmaxu _ d a b m mk s => some (wRR 0x28 d a b m mk s 0x0C)
  | .vaddcS _ d a b m mk s => some (wRR 0x28 d a b m mk s 0x10)
  | .vaddcU _ d a b m mk s => some (wRR 0x28 d a b m mk s 0x11)
  | .vsubcS _ d a b m mk s => some (wRR 0x28 d a b m mk s 0x12)
  | .vsubcU _ d a b m mk s => some (wRR 0x28 d a b m mk s 0x13)
  | .vmulcS _ d a b m mk s => some (wRR 0x28 d a b m mk s 0x14)
  | .vmv _ d a m mk => some (wRR 0x28 d a 0 m mk 0 0x18)
  | .vbcast _ d b m mk => some (wRR 0x28 d 0 b m mk 1 0x19)
  | .vfadd _ d a b m mk s => some (wRR 0x29 d a b m mk s 0x00)
  | .vfsub _ d a b m mk s => some (wRR 0x29 d a b m mk s 0x01)
  | .vfmul _ d a b m mk s => some (wRR 0x29 d a b m mk s 0x02)
  | .vfdiv _ d a b m mk s => some (wRR 0x29 d a b m mk s 0x03)
  | .vfmin _ d a b m mk s => some (wRR 0x29 d a b m mk s 0x04)
  | .vfmax _ d a b m mk s => some (wRR 0x29 d a b m mk s 0x05)
  | .vfabs _ d a m mk => some (wRR 0x29 d a 0 m mk 0 0x06)
  | .vfneg _ d a m mk => some (wRR 0x29 d a 0 m mk 0 0x07)
  | .mand _ d a b => some (wRR 0x2B (up3 d) (up3 a) (up3 b) 0 0 0 0x00)
  | .mor _ d a b => some (wRR 0x2B (up3 d) (up3 a) (up3 b) 0 0 0 0x01)
  | .mxor _ d a b => some (wRR 0x2B (up3 d) (up3 a) (up3 b) 0 0 0 0x02)
  | .mandn _ d a b => some (wRR 0x2B (up3 d) (up3 a) (up3 b) 0 0 0 0x03)
  | .mnot _ d a => some (wRR 0x2B (up3 d) (up3 a) 0 0 0 0 0x04)
  | .mset _ d => some (wRR 0x2B (up3 d) 0 0 0 0 0 0x05)
  | .mpop _ d a => some (wRR 0x2B d (up3 a) 0 0 0 0 0x06)
  | .mffs _ d a => some (wRR 0x2B d (up3 a) 0 0 0 0 0x07)
  | .mfromg _ d a => some (wRR 0x2B (up3 d) a 0 0 0 0 0x08)
  | .mtog _ d a => some (wRR 0x2B d (up3 a) 0 0 0 0 0x09)
  | .vcmprs _ d a m mk => some (wRR 0x2C d a 0 m mk 0 0x00)
  | .vexpnd _ d a m mk => some (wRR 0x2C d a 0 m mk 0 0x01)
  | .vscan _ d a m mk => some (wRR 0x2C d a 0 m mk 0 0x02)
  | .vsort _ d a m mk => some (wRR 0x2C d a 0 m mk 0 0x03)
  | .vsortp _ d a m mk => some (wRR 0x2C d a 0 m mk 0 0x04)
  | .vunpk _ d a b m mk s => some (wRR 0x2C d a b m mk s 0x05)
  | .vext _ d a b => some (wRR 0x2C d a b 0 0 0 0x06)
  | .vins _ d a b => some (wRR 0x2C d a b 0 0 0 0x07)
  | .vwidenS _ d a m mk => some (wRR 0x2C d a 0 m mk 0 0x08)
  | .vwidenU _ d a m mk => some (wRR 0x2C d a 0 m mk 0 0x09)
  | .vnarrow _ d a m mk => some (wRR 0x2C d a 0 m mk 0 0x0A)
  | .vcvtIf _ d a m mk => some (wRR 0x2C d a 0 m mk 0 0x0B)
  | .vcvtFi _ d a m mk => some (wRR 0x2C d a 0 m mk 0 0x0C)
  | .vcvtSd _ d a m mk => some (wRR 0x2C d a 0 m mk 0 0x0D)
  | .vcvtDs _ d a m mk => some (wRR 0x2C d a 0 m mk 0 0x0E)
  | .hashc _ d a b m mk s => some (wRR 0x2D d a b m mk s 0x00)
  | .hashm _ d a b m mk s => some (wRR 0x2D d a b m mk s 0x01)
  | .xclr _ d => some (wRR 0x2E (up2 d) 0 0 0 0 0 0x00)
  | .xaddf _ d a m mk => some (wRR 0x2E (up2 d) a 0 m mk 0 0x01)
  | .xaddi _ d a m mk => some (wRR 0x2E (up2 d) a 0 m mk 0 0x02)
  | .xmacf _ d a b m mk s => some (wRR 0x2E (up2 d) a b m mk s 0x03)
  | .xmrg _ d a => some (wRR 0x2E (up2 d) (up2 a) 0 0 0 0 0x04)
  | .xrnd _ d a => some (wRR 0x2E d (up2 a) 0 0 0 0 0x05)
  | .xrnds _ d a => some (wRR 0x2E d (up2 a) 0 0 0 0 0x06)
  | .xrdw _ d a b => some (wRR 0x2E d (up2 a) b 0 0 0 0x07)
  | .xpost _ a b => some (wRR 0x2E 0 (up2 a) b 0 0 0 0x08)
  | .xld _ d a => some (wRR 0x2E (up2 d) a 0 0 0 0 0x09)
  | .xst _ a b => some (wRR 0x2E 0 (up2 a) b 0 0 0 0x0A)
  | .bnext _ d => some (wRR 0x30 d 0 0 0 0 0 0x00)
  | .emit _ a b m mk => some (wRR 0x30 0 a b m mk 0 0x01)
  | .emitend _ => some (wRR 0x30 0 0 0 0 0 0 0x02)
  | .spawn _ a b => some (wRR 0x30 0 a b 0 0 0 0x03)
  | .commit _ => some (wRR 0x30 0 0 0 0 0 0 0x04)
  | .vcmp _ d a b m mk s kind cond => some (wRR 0x2A d a b m mk s (kind ++ (0 : BitVec 1) ++ cond))
  | .addi _ d a imm => some (wRI 0x01 d a imm)
  | .andi _ d a imm => some (wRI 0x02 d a imm)
  | .ori _ d a imm => some (wRI 0x03 d a imm)
  | .xori _ d a imm => some (wRI 0x04 d a imm)
  | .slti _ d a imm => some (wRI 0x05 d a imm)
  | .sltiu _ d a imm => some (wRI 0x06 d a imm)
  | .shi _ d a imm => some (wRI 0x07 d a imm)
  | .li _ d imm => some (wRI 0x08 d 0 imm)
  | .lsh _ d a imm => some (wRI 0x09 d a imm)
  | .setvl _ d a imm => some (wRI 0x0A d a imm)
  | .mfc _ d imm => some (wRI 0x0B d 0 imm)
  | .mtc _ a imm => some (wRI 0x0C 0 a imm)
  | .lds _ t a sz sx off => some (wMS 0x10 t a sz sx 0 off)
  | .sts _ t a sz off => some (wMS 0x11 t a sz 0 0 off)
  | .vld _ t a m mk ff off => some (wMV 0x12 t a m mk ff off)
  | .vst _ t a m mk ff off => some (wMV 0x13 t a m mk ff off)
  | .beq _ a b off => some (wRI 0x18 a b off)
  | .bne _ a b off => some (wRI 0x19 a b off)
  | .blt _ a b off => some (wRI 0x1A a b off)
  | .bge _ a b off => some (wRI 0x1B a b off)
  | .bltu _ a b off => some (wRI 0x1C a b off)
  | .bgeu _ a b off => some (wRI 0x1D a b off)
  | .j _ off => some (wJ 0x1E off)
  | .jal _ off => some (wJ 0x1F off)
  | _ => none

/-- Is an engine instruction one whose fields keep R100: no unused field, mask or immediate out of form? -/
def engineWf (i : Instr) : Bool :=
  match i with
  | .vadd _ _ _ _ m mk _ => maskOk m mk
  | .vsub _ _ _ _ m mk _ => maskOk m mk
  | .vmul _ _ _ _ m mk _ => maskOk m mk
  | .vand _ _ _ _ m mk _ => maskOk m mk
  | .vor _ _ _ _ m mk _ => maskOk m mk
  | .vxor _ _ _ _ m mk _ => maskOk m mk
  | .vsll _ _ _ _ m mk _ => maskOk m mk
  | .vsrl _ _ _ _ m mk _ => maskOk m mk
  | .vsra _ _ _ _ m mk _ => maskOk m mk
  | .vmin _ _ _ _ m mk _ => maskOk m mk
  | .vmax _ _ _ _ m mk _ => maskOk m mk
  | .vminu _ _ _ _ m mk _ => maskOk m mk
  | .vmaxu _ _ _ _ m mk _ => maskOk m mk
  | .vaddcS _ _ _ _ m mk _ => maskOk m mk
  | .vaddcU _ _ _ _ m mk _ => maskOk m mk
  | .vsubcS _ _ _ _ m mk _ => maskOk m mk
  | .vsubcU _ _ _ _ m mk _ => maskOk m mk
  | .vmulcS _ _ _ _ m mk _ => maskOk m mk
  | .vmv _ _ _ m mk => maskOk m mk
  | .vbcast _ _ _ m mk => maskOk m mk
  | .vfadd _ _ _ _ m mk _ => maskOk m mk
  | .vfsub _ _ _ _ m mk _ => maskOk m mk
  | .vfmul _ _ _ _ m mk _ => maskOk m mk
  | .vfdiv _ _ _ _ m mk _ => maskOk m mk
  | .vfmin _ _ _ _ m mk _ => maskOk m mk
  | .vfmax _ _ _ _ m mk _ => maskOk m mk
  | .vfabs _ _ _ m mk => maskOk m mk
  | .vfneg _ _ _ m mk => maskOk m mk
  | .vcmprs _ _ _ m mk => maskOk m mk && m == 1
  | .vexpnd _ _ _ m mk => maskOk m mk && m == 1
  | .vscan _ _ _ m mk => maskOk m mk
  | .vsort _ _ _ m mk => maskOk m mk && m == 0
  | .vsortp _ _ _ m mk => maskOk m mk && m == 0
  | .vunpk _ _ _ _ m mk s => maskOk m mk && s == 1
  | .vwidenS _ _ _ m mk => maskOk m mk
  | .vwidenU _ _ _ m mk => maskOk m mk
  | .vnarrow _ _ _ m mk => maskOk m mk
  | .vcvtIf _ _ _ m mk => maskOk m mk
  | .vcvtFi _ _ _ m mk => maskOk m mk
  | .vcvtSd _ _ _ m mk => maskOk m mk
  | .vcvtDs _ _ _ m mk => maskOk m mk
  | .hashc _ _ _ _ m mk _ => maskOk m mk
  | .hashm _ _ _ _ m mk _ => maskOk m mk
  | .xaddf _ _ _ m mk => maskOk m mk
  | .xaddi _ _ _ m mk => maskOk m mk
  | .xmacf _ _ _ _ m mk _ => maskOk m mk
  | .fetch _ _ _ _ m mk => maskOk m mk
  | .mld _ d _ => maskField d
  | .mst _ _ b => maskField b
  | .emit _ _ _ m mk => maskOk m mk
  | .vcmp _ d _ _ m mk _ _ cond => maskField d && maskOk m mk && decide (cond.toNat < 6)
  | .shi _ _ _ imm => shiOk imm
  | .setvl _ _ _ imm => setvlOk imm
  | .vld _ _ _ m mk _ _ => maskOk m mk
  | .vst _ _ _ m mk _ _ => maskOk m mk
  | _ => true

/-- The engine that a command is an instruction step of; none for a command that is no engine instruction. -/
def engineNo (i : Instr) : Option Nat :=
  match i with
  | .invalidInstruction e => some e
  | .add e _ _ _ => some e
  | .sub e _ _ _ => some e
  | .and e _ _ _ => some e
  | .or e _ _ _ => some e
  | .xor e _ _ _ => some e
  | .sll e _ _ _ => some e
  | .srl e _ _ _ => some e
  | .sra e _ _ _ => some e
  | .mul e _ _ _ => some e
  | .mulh e _ _ _ => some e
  | .mulhu e _ _ _ => some e
  | .div e _ _ _ => some e
  | .divu e _ _ _ => some e
  | .rem e _ _ _ => some e
  | .remu e _ _ _ => some e
  | .slt e _ _ _ => some e
  | .sltu e _ _ _ => some e
  | .min e _ _ _ => some e
  | .max e _ _ _ => some e
  | .minu e _ _ _ => some e
  | .maxu e _ _ _ => some e
  | .clz e _ _ => some e
  | .ctz e _ _ => some e
  | .popc e _ _ => some e
  | .aadd e _ _ => some e
  | .aswp e _ _ => some e
  | .fetch e _ _ _ _ _ => some e
  | .ths e _ _ _ => some e
  | .thn e _ _ => some e
  | .thw e _ _ => some e
  | .mld e _ _ => some e
  | .mst e _ _ => some e
  | .jalr e _ _ => some e
  | .vadd e _ _ _ _ _ _ => some e
  | .vsub e _ _ _ _ _ _ => some e
  | .vmul e _ _ _ _ _ _ => some e
  | .vand e _ _ _ _ _ _ => some e
  | .vor e _ _ _ _ _ _ => some e
  | .vxor e _ _ _ _ _ _ => some e
  | .vsll e _ _ _ _ _ _ => some e
  | .vsrl e _ _ _ _ _ _ => some e
  | .vsra e _ _ _ _ _ _ => some e
  | .vmin e _ _ _ _ _ _ => some e
  | .vmax e _ _ _ _ _ _ => some e
  | .vminu e _ _ _ _ _ _ => some e
  | .vmaxu e _ _ _ _ _ _ => some e
  | .vaddcS e _ _ _ _ _ _ => some e
  | .vaddcU e _ _ _ _ _ _ => some e
  | .vsubcS e _ _ _ _ _ _ => some e
  | .vsubcU e _ _ _ _ _ _ => some e
  | .vmulcS e _ _ _ _ _ _ => some e
  | .vmv e _ _ _ _ => some e
  | .vbcast e _ _ _ _ => some e
  | .vfadd e _ _ _ _ _ _ => some e
  | .vfsub e _ _ _ _ _ _ => some e
  | .vfmul e _ _ _ _ _ _ => some e
  | .vfdiv e _ _ _ _ _ _ => some e
  | .vfmin e _ _ _ _ _ _ => some e
  | .vfmax e _ _ _ _ _ _ => some e
  | .vfabs e _ _ _ _ => some e
  | .vfneg e _ _ _ _ => some e
  | .mand e _ _ _ => some e
  | .mor e _ _ _ => some e
  | .mxor e _ _ _ => some e
  | .mandn e _ _ _ => some e
  | .mnot e _ _ => some e
  | .mset e _ => some e
  | .mpop e _ _ => some e
  | .mffs e _ _ => some e
  | .mfromg e _ _ => some e
  | .mtog e _ _ => some e
  | .vcmprs e _ _ _ _ => some e
  | .vexpnd e _ _ _ _ => some e
  | .vscan e _ _ _ _ => some e
  | .vsort e _ _ _ _ => some e
  | .vsortp e _ _ _ _ => some e
  | .vunpk e _ _ _ _ _ _ => some e
  | .vext e _ _ _ => some e
  | .vins e _ _ _ => some e
  | .vwidenS e _ _ _ _ => some e
  | .vwidenU e _ _ _ _ => some e
  | .vnarrow e _ _ _ _ => some e
  | .vcvtIf e _ _ _ _ => some e
  | .vcvtFi e _ _ _ _ => some e
  | .vcvtSd e _ _ _ _ => some e
  | .vcvtDs e _ _ _ _ => some e
  | .hashc e _ _ _ _ _ _ => some e
  | .hashm e _ _ _ _ _ _ => some e
  | .xclr e _ => some e
  | .xaddf e _ _ _ _ => some e
  | .xaddi e _ _ _ _ => some e
  | .xmacf e _ _ _ _ _ _ => some e
  | .xmrg e _ _ => some e
  | .xrnd e _ _ => some e
  | .xrnds e _ _ => some e
  | .xrdw e _ _ _ => some e
  | .xpost e _ _ => some e
  | .xld e _ _ => some e
  | .xst e _ _ => some e
  | .bnext e _ => some e
  | .emit e _ _ _ _ => some e
  | .emitend e => some e
  | .spawn e _ _ => some e
  | .commit e => some e
  | .vcmp e _ _ _ _ _ _ _ _ => some e
  | .addi e _ _ _ => some e
  | .andi e _ _ _ => some e
  | .ori e _ _ _ => some e
  | .xori e _ _ _ => some e
  | .slti e _ _ _ => some e
  | .sltiu e _ _ _ => some e
  | .shi e _ _ _ => some e
  | .li e _ _ => some e
  | .lsh e _ _ _ => some e
  | .setvl e _ _ _ => some e
  | .mfc e _ _ => some e
  | .mtc e _ _ => some e
  | .lds e _ _ _ _ _ => some e
  | .sts e _ _ _ _ => some e
  | .vld e _ _ _ _ _ _ => some e
  | .vst e _ _ _ _ _ _ => some e
  | .beq e _ _ _ => some e
  | .bne e _ _ _ => some e
  | .blt e _ _ _ => some e
  | .bge e _ _ _ => some e
  | .bltu e _ _ _ => some e
  | .bgeu e _ _ _ => some e
  | .j e _ => some e
  | .jal e _ => some e
  | _ => none

end Sys2Proof.Machine
end

