-- ==== Sys2Proof/Machine/Engine.lean ====
section
/-! DEFINITION. What every engine instruction shares: which one an engine issues, its steps, and how it ends (R47, R93,
R97, R100, R124–R126). -/
namespace Sys2Proof.Machine

/-- How an instruction ends. A failure carries its status and the address that its DETAIL names. -/
inductive EngOut where
  | acc (a : Acc EngRun)                              -- completes, waits or fails
  | jump (r : EngRun) (target : Word) (s : State)
  | commit (r : EngRun) (s : State)                   -- hands its stage to the commit path

/-- The instruction completes with these registers. -/
def EngOut.next (r : EngRun) (s : State) : EngOut := .acc (.ok r s)
/-- The leaf fails with a status that names no address. -/
def EngOut.fail (st : Nat) (s : State) : EngOut := .acc (.fail st 0 s)

-- ---------------------------------------------------------------- steps (R93)

/-- `n1` up to 256 bits of VL × EW, `n2` above, one with VL 0 (R93). -/
def byWidth (n1 n2 : Nat) (r : EngRun) : Nat := if r.vl = 0 then 1 else if r.width ≤ 256 then n1 else n2

/-- Active elements ÷ 2, rounded up, at least 1. -/
def byActive (m : BitVec 1) (mk : BitVec 3) (r : EngRun) : Nat := max 1 (((r.actives m mk).length + 1) / 2)

/-- The steps of an instruction (R93). -/
def engCost (i : Instr) (r : EngRun) : Nat :=
  match i with
  | .div _ _ _ _ => 4
  | .divu _ _ _ _ => 4
  | .rem _ _ _ _ => 4
  | .remu _ _ _ _ => 4
  | .vld _ _ _ _ _ _ _ => byWidth 1 2 r
  | .vst _ _ _ _ _ _ _ => byWidth 1 2 r
  | .vadd _ _ _ _ _ _ _ => byWidth 1 2 r
  | .vsub _ _ _ _ _ _ _ => byWidth 1 2 r
  | .vmul _ _ _ _ _ _ _ => byWidth 1 2 r
  | .vand _ _ _ _ _ _ _ => byWidth 1 2 r
  | .vor _ _ _ _ _ _ _ => byWidth 1 2 r
  | .vxor _ _ _ _ _ _ _ => byWidth 1 2 r
  | .vsll _ _ _ _ _ _ _ => byWidth 1 2 r
  | .vsrl _ _ _ _ _ _ _ => byWidth 1 2 r
  | .vsra _ _ _ _ _ _ _ => byWidth 1 2 r
  | .vmin _ _ _ _ _ _ _ => byWidth 1 2 r
  | .vmax _ _ _ _ _ _ _ => byWidth 1 2 r
  | .vminu _ _ _ _ _ _ _ => byWidth 1 2 r
  | .vmaxu _ _ _ _ _ _ _ => byWidth 1 2 r
  | .vaddcS _ _ _ _ _ _ _ => byWidth 1 2 r
  | .vaddcU _ _ _ _ _ _ _ => byWidth 1 2 r
  | .vsubcS _ _ _ _ _ _ _ => byWidth 1 2 r
  | .vsubcU _ _ _ _ _ _ _ => byWidth 1 2 r
  | .vmulcS _ _ _ _ _ _ _ => byWidth 1 2 r
  | .vmv _ _ _ _ _ => byWidth 1 2 r
  | .vbcast _ _ _ _ _ => byWidth 1 2 r
  | .vfadd _ _ _ _ _ _ _ => byWidth 1 2 r
  | .vfsub _ _ _ _ _ _ _ => byWidth 1 2 r
  | .vfmul _ _ _ _ _ _ _ => byWidth 1 2 r
  | .vfdiv _ _ _ _ _ _ _ => byWidth 4 8 r
  | .vfmin _ _ _ _ _ _ _ => byWidth 1 2 r
  | .vfmax _ _ _ _ _ _ _ => byWidth 1 2 r
  | .vfabs _ _ _ _ _ => byWidth 1 2 r
  | .vfneg _ _ _ _ _ => byWidth 1 2 r
  | .vcmp _ _ _ _ _ _ _ _ _ => byWidth 1 2 r
  | .vcmprs _ _ _ _ _ => byWidth 1 2 r
  | .vexpnd _ _ _ _ _ => byWidth 1 2 r
  | .vscan _ _ _ _ _ => byWidth 2 4 r
  | .vsort _ _ _ _ _ => byWidth 4 8 r
  | .vsortp _ _ _ _ _ => byWidth 4 8 r
  | .vunpk _ _ _ _ _ _ _ => byWidth 2 2 r
  | .vext _ _ _ _ => byWidth 1 2 r
  | .vins _ _ _ _ => byWidth 1 2 r
  | .vwidenS _ _ _ _ _ => byWidth 1 2 r
  | .vwidenU _ _ _ _ _ => byWidth 1 2 r
  | .vnarrow _ _ _ _ _ => byWidth 1 2 r
  | .vcvtIf _ _ _ _ _ => byWidth 1 2 r
  | .vcvtFi _ _ _ _ _ => byWidth 1 2 r
  | .vcvtSd _ _ _ _ _ => byWidth 1 2 r
  | .vcvtDs _ _ _ _ _ => byWidth 1 2 r
  | .hashc _ _ _ _ _ _ _ => byWidth 1 2 r
  | .hashm _ _ _ _ _ _ _ => byWidth 1 2 r
  | .xaddf _ _ _ m mk => byActive m mk r
  | .xaddi _ _ _ m mk => byActive m mk r
  | .xmacf _ _ _ _ m mk _ => byActive m mk r
  | .xmrg _ _ _ => 4
  | .xrnd _ _ _ => 2
  | .xrnds _ _ _ => 2
  | .xpost _ _ _ => 9
  | .xld _ _ _ => 9
  | .xst _ _ _ => 9
  | _ => 1

-- ---------------------------------------------------------------- issue

/-- The leaf that engine `e` runs, when it is not waiting in FETCH. -/
def State.running_ (s : State) (e : Nat) : Option (EngRun × Leaf) :=
  if s.running then
    match s.engRun e with
    | some r =>
      match s.leaf? r.leaf with
      | some l => if l.state == .running && l.engine == e && r.fetch.isNone then some (r, l) else none
      | none => none
    | none => none
  else none

/-- The instruction word under the program counter of an engine. -/
def State.engWord (s : State) (e : Nat) (r : EngRun) : BitVec 32 := BitVec.ofNat 32 (s.rdN (.imem e) r.pc 4)

/-- The engine, its leaf and its registers when engine `e` stands at instruction `i`: the word at its program counter
decodes to it, inside the code section (R97, R100). -/
def State.standsAt (s : State) (e : Nat) (i : Instr) : Option (EngRun × Leaf) :=
  match s.running_ e with
  | some (r, l) =>
    if r.pc < (s.engOf e).codeLen ∧ decodeEngine e (s.engWord e r) = some i then some (r, l) else none
  | none => none

/-- As `standsAt`, when the step limit also admits the instruction (R47). -/
def State.issues (s : State) (e : Nat) (i : Instr) : Option (EngRun × Leaf) :=
  match s.standsAt e i with
  | some (r, l) => if r.steps + engCost i r ≤ r.limit then some (r, l) else none
  | none => none

-- ---------------------------------------------------------------- failures (R125, R485)

/-- The memory and the address that a POISON_CONSUMED record names. -/
def State.poisonedAt (s : State) (i addr : Nat) : Nat × Nat :=
  if addr < 2 ^ 48 then
    match s.xlate i addr false with
    | .t0 dpa _ => (2, dpa)
    | .low 1 _ _ => (3, addr)
    | .low _ _ _ => (4, addr)
    | .direct a => (4, a)
    | _ => (2, addr)
  else if addr < 0xFFFF800100000000 then (0, addr - 0xFFFF800000000000)
  else (1, addr - 0xFFFF800100000000)

/-- Fails a leaf with the DETAIL that its status asks for (R53, R125, R485). -/
def State.failAt (s : State) (l : Leaf) (st addr : Nat) : State :=
  if st = 0x3001 then
    let (m, a) := s.poisonedAt l.inst addr
    let (seq, s) := s.logConsumed l m a
    s.failLeaf l.id st seq
  else s.failLeaf l.id st (if st = 0x1006 then addr / 2 ^ 16 else 0)

-- ---------------------------------------------------------------- engine faults (R48, R126, R476)

/-- The operation is detected faulty: the attempt ends, the fault waits to be counted, and the leaf is retried once or
fails with 0x4001 (R48, R126, R445). -/
def State.engineFault (s : State) (e mech : Nat) (injected : Bool) : State :=
  match s.running_ e with
  | none =>
    match (s.engRun e).bind (fun r => s.leaf? r.leaf) with
    | none => s
    | some l => go s l
  | some (_, l) => go s l
where
  /-- The end of the attempt of leaf `l`. -/
  go (s : State) (l : Leaf) : State :=
    if l.state ≠ .running then s
    else
      let f : EngFault := { mech := mech, phys := (s.phys e).getD e, leaf := l.id, last := decide (2 ≤ l.attempts),
                            injected := injected, sag := bitAt (s.reg (offDie (e / 64))) 32 }
      let s := s.updEng e (fun x => { x with faults := x.faults ++ [f] })
      if l.attempts ≤ 1 then (s.retryLeaf l).settle l.run
      else s.failLeaf l.id 0x4001 0xFFFFFFFF

-- ---------------------------------------------------------------- the shared run of an instruction

/-- The end of a leaf's engine part: its stage goes to the commit path and the engine is free (R44, R124). -/
def State.handOver (s : State) (e : Nat) (r : EngRun) (l : Leaf) : State :=
  let s := ((s.updEng e (fun x => { x with run := none })).closeCursors e).retireNow e
  let s := (((s.forget (.engine e)).forget (.fetch e)).forget (.trimmer l.id)).leaveTrim l.id
  let s := s.updLeaf l.id (fun x => { x with
    state := .committing, commitAt := s.timebase, stage := r.stage, spill := r.spill, pins := r.pins, resv := r.resv, spawned := r.spawned
    steps := r.steps, rowsOut := x.rowsOut + r.rows })
  let s := (s.updRun l.run (fun x => { x with steps := x.steps + r.steps })).trueUp l r.banks
  s.trace 0x40 (some l) (some e) (some (e / 16)) (some l.group) (some l.inst)

/-- Does the partitioner's hold, which has no room for a stage, keep a leaf's COMMIT waiting (R181)? An empty hold takes
any stage (log 86). -/
def State.holdKeeps (s : State) (e : Nat) (l : Leaf) (st : List StageItem) : Bool :=
  let sink := ((s.sigOfLeaf l).map (·.sink)).getD 0
  let held := s.partHeld (e / 16)
  (sink == 1 || sink == 2) && (held != 0 && decide (4194304 < held + sendBytes st) || decide (4194304 ≤ held))

/-- Does a leaf that stands at its commit wait for the partitioner's hold? -/
def State.commitHeld (s : State) (e : Nat) (r : EngRun) (l : Leaf) : Bool :=
  match s.closeGroup e r l with
  | .ok r s => s.holdKeeps e l r.stage
  | _ => false

/-- Is a staged item a record for an association that accepts none (R293)? -/
def State.sendClosed (s : State) : StageItem → Bool
  | .send a _ => !s.takesNew a
  | _ => false

/-- A leaf commits: a row group that is open is closed, and under PARTITION and EXCHANGE_ALL the engine waits while the
partitioner's hold is full (R44, R121, R181). A destination that is no longer open fails a PARTITION leaf as at Submit Folio
(R175, R293), and gets no copy under EXCHANGE_ALL (log 91). -/
def State.commitLeaf (s : State) (e : Nat) (r : EngRun) (l : Leaf) : State :=
  match s.closeGroup e r l with
  | .ok r' s' =>
    if s'.holdKeeps e l r'.stage then s
    else if ((s'.sigOfLeaf l).map (·.sink)).getD 0 = 1 ∧ r'.stage.any s'.sendClosed then s'.failAt l 0x1002 0
    else s'.handOver e { r' with stage := r'.stage.filter (fun t => !s'.sendClosed t) } l
  | .wait s => s
  | .fail st addr s => s.failAt l st addr

/-- Ends an instruction: the next one, a jump inside the code section or to the exit address, a commit, a wait, a
failure (R97, R124, R125). -/
def State.endInstr (e : Nat) (l : Leaf) (o : EngOut) : State :=
  match o with
  | .acc (.ok r s) => s.setRun e { r with pc := r.pc + 4 }
  | .acc (.wait s) => s
  | .acc (.fail st addr s) => s.failAt l st addr
  | .commit r s => s.commitLeaf e r l
  | .jump r t s =>
    if t.toNat = exitAddr then s.commitLeaf e r l
    else if t.toNat % 4 = 0 ∧ t.toNat < (s.engOf e).codeLen then s.setRun e { r with pc := t.toNat }
    else s.failAt l 0x1006 t.toNat

/-- Runs instruction `i` on engine `e` with effect `f`: nothing unless the engine stands at it and its steps are
within the limit. The registers that `f` gets count its steps. An armed residue fault strikes first (R489). -/
def runEng (e : Nat) (i : Instr) (f : EngRun → Leaf → State → EngOut) (s : State) : State :=
  match s.issues e i with
  | none => s
  | some (r, l) =>
    if s.armed 1 e then s.disarm.engineFault e 2 true
    else if s.poisoned (.imem e) r.pc 4 then
      let (seq, s) := s.logConsumed l 0 r.pc
      s.failLeaf l.id 0x3001 seq
    else State.endInstr e l (f { r with steps := r.steps + engCost i r } l s)

/-- An instruction that only changes registers. -/
def runPure (e : Nat) (i : Instr) (f : EngRun → EngRun) (s : State) : State :=
  runEng e i (fun r _ s => .next (f r) s) s

/-- An instruction whose element width must be one of `ews` (R103). -/
def runWidth (e : Nat) (i : Instr) (ews : List Nat) (f : EngRun → EngRun) (s : State) : State :=
  runEng e i (fun r _ s => if ews.contains r.w then .next (f r) s else .fail 0x1001 s) s

end Sys2Proof.Machine
end

