-- ==== Sys2Proof/Machine/EngThumb.lean ====
section
/-! DEFINITION. The Thumb index as engines search it: matches, order, cursors, retention (R154–R164). -/
namespace Sys2Proof.Machine

/-- Does an entry match a key (R155)? -/
def ThumbEntry.hits (t : ThumbEntry) (k : Word128) : Bool := t.valid && ((k ^^^ t.key) &&& t.care) == 0

/-- The order of matches: descending PRIORITY, then ascending index (R155). -/
def before (a b : Nat × ThumbEntry) : Bool :=
  decide (b.2.priority.toNat < a.2.priority.toNat) || (a.2.priority == b.2.priority && decide (a.1 ≤ b.1))

/-- The matches of a key in the banks of a mask of an array, in order. -/
def State.thumbMatches (s : State) (q : Nat) (k : Word128) (mask : Nat) : List (Nat × ThumbEntry) :=
  sortBy before ((s.thumb.filter (fun p => decide (p.1 / 65536 = q) && bitAt mask (p.1 % 65536 / 1024) && p.2.hits k)).map
    (fun p => (p.1 % 65536, p.2)))

/-- The banks of a mask in an array that an instance does not own. -/
def State.thumbDenied (s : State) (i q mask : Nat) : Bool :=
  (maskBanks mask).any (fun b => match Tab.find s.banks (q * 64 + b) with
    | some k => k.owner != i
    | none => true)

/-- The 128-bit result record of THS and THN (R114). -/
def thumbRecord (cursor : Nat) (multi hit : Bool) (count entry prio payload : Nat) : Nat :=
  payload % 2 ^ 32 + prio % 2 ^ 16 * 2 ^ 32 + entry % 2 ^ 16 * 2 ^ 48 + count % 2 ^ 8 * 2 ^ 64 + b2n hit * 2 ^ 72
    + b2n multi * 2 ^ 73 + cursor % 2 ^ 32 * 2 ^ 96

/-- Puts a record into bits [127:0] of a vector register (R114). -/
def putRecord (v : BitVec 512) (rec_ : Nat) : BitVec 512 := BitVec.ofNat 512 (v.toNat / 2 ^ 128 * 2 ^ 128 + rec_ % 2 ^ 128)

/-- The CURSOR of a context (R162). -/
def cursorWord (e ctx gen idx : Nat) : Nat := e % 16 * 2 ^ 28 + ctx * 2 ^ 26 + gen * 2 ^ 16 + idx

def noCursor : Nat := 0xFFFFFFFF

/-- The context that a fifth open would replace, or a free one (R162). -/
def pickContext (cs : List Cursor) : Nat :=
  match (List.range 4).find? (fun k => !((cs.getD k {}).open_)) with
  | some k => k
  | none => (List.range 4).foldl (fun b k => if (cs.getD k {}).order < (cs.getD b {}).order then k else b) 0

/-- Opens a cursor context at a match; answers its CURSOR (R162). -/
def State.openCursor (s : State) (e : Nat) (key : Word128) (mask : Nat) (m : Nat × ThumbEntry) : Nat × State :=
  let cs := (s.engOf e).cursors
  let k := pickContext cs
  let gen := ((cs.getD k {}).gen + 1) % 512
  let ord := (cs.map (·.order)).foldl max 0 + 1
  let c : Cursor := { open_ := true, used := false, key := key, mask := mask, prio := m.2.priority.toNat, idx := m.1,
                      gen := gen, order := ord }
  (cursorWord e k gen m.1, s.updEng e (fun x => { x with cursors := cs.set k c }))

/-- An array operation of an engine on the banks of a mask, counted at `reg`: `.error` while it waits for a wake or its turn,
the wake begun and counted once (R159, R160). -/
def State.thumbOp (s : State) (e : Nat) (r : EngRun) (mask reg : Nat) : Except State (EngRun × State) :=
  let q := e / 16
  let hold := fun (s : State) => Except.error (s.setRun e { r with waking := mask, steps := r.steps - 1 })
  match s.thumbWake q mask with
  | some s' => hold (if r.waking = 0 then s'.countWakes q 1 else s')
  | none =>
    if !s.thumbTurn q (.search (e % 16)) then hold s
    else .ok ({ r with waking := 0, banks := r.banks + (maskBanks mask).length },
      (s.thumbTook q (.search (e % 16))).count (0x900000 + 0x1000 * q + reg) 1)

end Sys2Proof.Machine
end

