-- ==== Sys2Proof/Machine/Aperture.lean ====
section
/-! DEFINITION. The lookup aperture and the HBM window (R313, R346–R358). -/
namespace Sys2Proof.Machine

/-- The counter at `off` of a window's block (R358). -/
def winReg_ (w off : Nat) : Nat := 0xE00000 + 0x40 * w + off

-- ---------------------------------------------------------------- TDISP's guard (R390)

/-- A binding refused because the instance's TDI is locked: logged (R390). -/
def State.bindDenied (s : State) (i : Nat) : State :=
  s.logFh { kind := 0x0601, status := 0x5002, outcome := 6, mech := 11, inst := i, resType := 9, resIdx := 0, data := leBytes 8 i }

-- ---------------------------------------------------------------- binding (R346, R347)

/-- Enabled windows of an instance. -/
def State.windowsOf (s : State) (i : Nat) : Nat :=
  ((List.range 16).filter (fun w => bitAt (s.reg (offWinCfg w)) 63 && bits (s.reg (offWinCfg w)) 46 40 == i)).length

/-- May a window be enabled with the configuration `v` (R347)? -/
def State.windowOk (s : State) (w v : Nat) : Bool :=
  let i := bits v 46 40
  let mask := s.reg (offWinMask w)
  let kb := bits v 5 0
  match s.inst? i with
  | none => false
  | some x =>
    decide (s.windowsOf i < x.alloc.aperture) && mask != 0 && !s.thumbDenied i (bits v 35 32) mask
    && decide (19 ≤ kb) && decide (kb ≤ 34)
    && (match Tab.find s.hdm w with
        | some h => h.committed && h.size == 2 ^ (kb + 9)
        | none => false)

/-- A write of APR_WIN_CFG[w]: while ENABLE is 1 only a write that clears it acts; one that sets it must pass the checks,
and one that binds an instance whose TDI is locked is ignored and logged (R347, R390). -/
def State.winCfgWrite (s : State) (w v : Nat) : State :=
  let old := s.reg (offWinCfg w)
  let put := fun (s : State) (v st : Nat) =>
    s.setReg (offWinCfg w) ((v &&& 0xC0007F0F0000003F) + st * 2 ^ 60)
  let i := bits v 46 40
  if bitAt old 63 then (if bitAt v 63 then s else put s (old - 2 ^ 63) 1)
  else if s.tdiLocked i then s.bindDenied i
  else if bitAt v 63 then (if s.windowOk w v then put s v 2 else s)
  else put s v (if (s.inst? i).isSome then 1 else 0)

def execApertureWindowConfigWrite (w : Nat) (v : Word) (s : State) : Host.Outcome State Fault Refusal :=
  if s.serving && decide (w < 16) then ok (s.winCfgWrite w v.toNat) else ok s

-- ---------------------------------------------------------------- lines (R349–R352)

/-- An NA or ERR line: FLAGS and RANK_PAGE, all else zero. -/
def flagLine (flags page : Nat) : Bytes := padTo (leBytes 1 flags ++ zeros 1 ++ leBytes 1 page) 64

/-- The line of an answered search. -/
def answerLine (ms : List (Nat × ThumbEntry)) (page epoch : Nat) : Bytes :=
  let recs := (ms.drop (7 * page)).take 7
  padTo (leBytes 1 (b2n (ms != []) + 2 * b2n (decide (2 ≤ ms.length))) ++ leBytes 1 (min 255 ms.length) ++ leBytes 1 page
    ++ leBytes 1 recs.length ++ leBytes 4 epoch
    ++ (recs.map (fun m => leBytes 4 m.2.payload.toNat ++ leBytes 2 m.2.priority.toNat ++ leBytes 2 m.1)).flatten) 64

/-- The key of a request at offset `off` (R349). -/
def apertureKey (hi lo kb off : Nat) : Nat := hi * 2 ^ 64 + lo / 2 ^ kb * 2 ^ kb + off / 512 % 2 ^ kb

/-- APERTURE_READ: a read of a window that is not enabled, is LOST, or whose array's quire is mapped out is answered ERR;
any other starts a search, and wakes retained banks, while the port holds fewer than 512 (R352–R355). -/
def execApertureRead (w off : Nat) (s : State) : Host.Outcome State Fault Refusal :=
  if !s.powerGood ∨ s.stopped ∨ 16 ≤ w then ok s
  else
    let c := s.reg (offWinCfg w)
    let q := bits c 35 32
    let page := off / 64 % 8
    if !s.serving ∨ !bitAt c 63 ∨ s.col.mapQuires.contains q then ok (s.emit (.line w (flagLine 8 page)))
    else if 512 ≤ (s.apr.reads.filter (fun p => !p.2.expired)).length then ok s
    else
      let mask := s.reg (offWinMask w)
      let (waked, s) : Bool × State := match s.thumbWake q mask with
        | some s => (true, s.countWakes q 1)
        | none => (false, s)
      let r : ApRead := { win := w, array := q, mask := mask, page := page, waked := waked
                          key := BitVec.ofNat 128 (apertureKey (s.reg (offWinKeyHi w)) (s.reg (offWinKeyLo w)) (bits c 5 0) off) }
      ok { s with apr := { s.apr with reads := Tab.set s.apr.reads s.apr.no r, no := s.apr.no + 1 } }

def State.dropRead (s : State) (n : Nat) : State := { s with apr := { s.apr with reads := Tab.del s.apr.reads n } }

/-- APERTURE_ANSWER: the search of a read is done, once its banks are awake and it is its turn in the array (R160): its line
leaves, ERR where a fault was detected during the search, or after the deadline the result is discarded and counted (R351,
R352, R354, R355). -/
def execApertureAnswer (a : ApAnswer) (s : State) : Host.Outcome State Fault Refusal :=
  match Tab.find s.apr.reads a.read with
  | none => ok s
  | some r =>
    if !s.serving then ok s
    else match s.thumbWake r.array r.mask with
      | some s' =>
        let s' := if r.waked then s' else s'.countWakes r.array 1
        ok { s' with apr := { s'.apr with reads := Tab.set s'.apr.reads a.read { r with waked := true } } }
      | none =>
        if !s.thumbTurn r.array .aperture then
          ok { s with apr := { s.apr with reads := Tab.set s.apr.reads a.read { r with waked := true } } }
        else
        let s := ((s.thumbTook r.array .aperture).dropRead a.read).count (0x900020 + 0x1000 * r.array) 1
        if r.expired then ok (s.count (winReg_ r.win 0x30) 1)
        else if a.faulty ∨ s.col.mapQuires.contains r.array then ok (s.emit (.line r.win (flagLine 8 r.page)))
        else
          let epoch := ((maskBanks r.mask).map (fun b => ((Tab.find s.banks (r.array * 64 + b)).map (·.epoch)).getD 0)).foldl (· + ·) 0
          ok ((s.count (winReg_ r.win 0x20) 1).emit
            (.line r.win (answerLine (s.thumbMatches r.array r.key r.mask) r.page epoch)))

/-- Read `n` is answered NA; its search goes on in the array (R354, R355). -/
def State.apertureLate (s : State) (n : Nat) : State :=
  match Tab.find s.apr.reads n with
  | none => s
  | some r =>
    if r.expired ∨ !s.serving then s
    else
      let s := { s with apr := { s.apr with reads := Tab.set s.apr.reads n { r with expired := true } } }
      (s.count (winReg_ r.win 0x28) 1).emit (.line r.win (flagLine 4 r.page))

/-- APERTURE_DEADLINE: read `n` is answered NA unless its search answers within the same tick (R16, R354, R355). -/
def execApertureDeadline (n : Nat) (s : State) : Host.Outcome State Fault Refusal :=
  match Tab.find s.apr.reads n with
  | none => ok s
  | some r => if r.expired ∨ !s.serving then ok s else ok (s.expire (.aperture n))

/-- APERTURE_WRITE: completes, is discarded and counted; at most one error record for each window in a millisecond
(R353). -/
def execApertureWrite (w off : Nat) (s : State) : Host.Outcome State Fault Refusal :=
  if !s.serving ∨ 16 ≤ w then ok s
  else
    let s := s.count (winReg_ w 0x38) 1
    let now : Bool := match Tab.find s.apr.logged w with
      | some t => decide (t + 1000000 ≤ s.timebase)
      | none => true
    if !now then ok s
    else
      let s := { s with apr := { s.apr with logged := Tab.set s.apr.logged w s.timebase } }
      ok (s.logErr 5 0 (bits (s.reg (offWinCfg w)) 46 40) 0 0xFFFF 0 w off 0 0)

/-- APERTURE_SPECULATIVE_READ: accepted and ignored (R353). -/
def execApertureSpeculativeRead (_w _off : Nat) (s : State) : Host.Outcome State Fault Refusal := ok s

-- ---------------------------------------------------------------- the HBM window (R313)

/-- A write of APR_HBMW_CFG; binding an instance whose TDI is locked is ignored and logged (R313, R390). -/
def State.hbmwWrite (s : State) (v : Nat) : State :=
  if s.tdiLocked (bits v 62 56) then s.bindDenied (bits v 62 56) else s.setReg offHbmw (v &&& 0xFF00FFFFFFE00000)

/-- HBM_WINDOW_ACCESS: a load or store at an offset of the window acts on the bound range under the instance's attribute;
the window must be enabled, its decoder committed, the range PAGED with HOME T0 (R313, R453). -/
def execHbmWindowAccess (off size : Nat) (store : Option Bytes) (s : State) : Host.Outcome State Fault Refusal :=
  if !s.powerGood ∨ s.stopped then ok s
  else
    let v := s.reg offHbmw
    let i := bits v 62 56
    let va := bits v 47 21 * mib2 + off
    let n := match store with
      | some b => b.length
      | none => size
    let open_ : Bool := s.serving && bitAt v 63 && (match Tab.find s.hdm 16, s.range? i va with
      | some h, some r => h.committed && decide (off + n ≤ h.size) && !r.direct && r.home == 0
      | _, _ => false)
    if !open_ then ok (s.emit .hbmwErr)
    else match store with
      | some b =>
        match s.devWrite .window i va b with
        | .ok _ s => ok (s.forget .window)
        | .wait s => ok s
        | .fail _ _ s => ok (s.emit .hbmwErr)
      | none =>
        match s.devRead .window i va n with
        | .ok b s => ok (s.emit (.hbmw b))
        | .wait s => ok s
        | .fail _ _ s => ok (s.emit .hbmwErr)

end Sys2Proof.Machine
end

