-- ==== Sys2Proof/Machine/Delivery.lean ====
section
/-! DEFINITION. Batches in input windows: their header, their place, their delivery (R77, R96, R119), and the batches of
partition buffers and inboxes, which BNEXT brings in (R180, R300; log 39). -/
namespace Sys2Proof.Machine

/-- The header of a batch (R77). -/
def batchHeader (rowBase rows selected flags group len sel recheck : Nat) (streams : List Nat) : Bytes :=
  leBytes 4 rowBase ++ leBytes 2 rows ++ leBytes 2 selected ++ leBytes 2 flags ++ leBytes 2 group ++ leBytes 4 len
  ++ leBytes 4 sel ++ leBytes 4 recheck ++ padTo (streams.map (leBytes 4)).flatten 16 ++ zeros 24

/-- A batch of one section, as every source but TRIMMER_SCAN delivers it (R119). -/
def plainBatch (rowBase rows : Nat) (last : Bool) (sec : Bytes) : Bytes :=
  let body := padTo sec (ceilDiv sec.length 64 * 64)
  batchHeader rowBase rows rows (b2n last) 0 (64 + body.length) 0 0 [64] ++ body

/-- The window offset at which a batch of `len` bytes is placed: after the newest one, or at 0 where it would not fit
before the end; `none` while an unreleased batch lies there (R77, R119). -/
def EngRun.place (r : EngRun) (len : Nat) : Option Nat :=
  let off := if r.tail + len ≤ 0x20000 then r.tail else 0
  if 0x20000 < len ∨ r.batches.any (fun b => decide (off < b.off + b.len) && decide (b.off < off + len)) then none
  else some off

/-- Master `m` (source delivery or the merger) writes a batch into the window of engine `e`; `none`: the window has no room,
and the batch is held (R77, R130). -/
def State.deliver (s : State) (m e : Nat) (r : EngRun) (b : Bytes) (last : Bool) : Option (EngRun × State) :=
  (r.place b.length).map (fun off =>
    ({ r with batches := r.batches ++ [{ off := off, len := b.length, last := last }], tail := off + b.length },
     (s.wrEcc (.quire (e / 16)) (winOff e + off) b).spineCount (e / 16) m (wordsOf off b.length) ((s.engInst e).getD 0)))

-- ---------------------------------------------------------------- partition buffers (R178, R180)

/-- A record found in a leaf's chunks: its address, rows, length, and the position after it. -/
structure Found where
  va   : Nat
  rows : Nat
  len  : Nat
  unit_ : Nat
  row  : Nat

/-- The next record of a leaf's chunks from chunk `u`, byte 64 + `k`, skipping skip records. -/
def State.nextRecord (s : State) (e i : Nat) (addrs : List Nat) : Nat → Nat → Nat → Acc (Option Found)
  | 0, _, _ => .ok none s
  | n + 1, u, k =>
    match addrs[u]? with
    | none => .ok none s
    | some a =>
      match s.devRead (.engine e) i a 64 with
      | .wait s => .wait s
      | .fail st ad s => .fail st ad s
      | .ok h s =>
        if fld h 0x14 4 < 64 + k + 64 then State.nextRecord s e i addrs n (u + 1) 0
        else match s.devRead (.engine e) i (a + 64 + k) 64 with
          | .wait s => .wait s
          | .fail st ad s => .fail st ad s
          | .ok b s =>
            let len := fld b 8 4
            if len = 0 then State.nextRecord s e i addrs n (u + 1) 0
            else if fld b 0 4 = 0 then State.nextRecord s e i addrs n u (k + len)
            else .ok (some { va := a + 64 + k, rows := fld b 0 4, len := len, unit_ := u, row := k + len }) s

/-- The next batch of a partition buffer: one record (R180); `none`: the chunks hold no further record. -/
def State.chunkBatch (s : State) (e : Nat) (l : Leaf) (addrs : List Nat) : Acc (Option (Bytes × Bool × Leaf)) :=
  let fuel := 2 ^ 20 * addrs.length + 1
  match s.nextRecord e l.inst addrs fuel l.unit_ l.row with
  | .wait s => .wait s
  | .fail st a s => .fail st a s
  | .ok none s => .ok none s
  | .ok (some f) s =>
    match s.nextRecord e l.inst addrs fuel f.unit_ f.row with
    | .wait s => .wait s
    | .fail st a s => .fail st a s
    | .ok more s =>
      match s.devRead (.engine e) l.inst f.va f.len with
      | .wait s => .wait s
      | .fail st a s => .fail st a s
      | .ok b s =>
        let last := more.isNone
        .ok (some (plainBatch l.rowBase f.rows last b, last,
          { l with unit_ := f.unit_, row := f.row, rowBase := l.rowBase + f.rows, rowsIn := l.rowsIn + f.rows })) s

-- ---------------------------------------------------------------- inboxes (R299, R300)

/-- Reads `n` bytes of an association's stream from offset `off`: slab by slab. -/
def State.streamRead (s : State) (e : Nat) (x : Assoc) : Nat → Nat → Nat → Bytes → Acc Bytes
  | 0, _, _, acc => .ok acc s
  | fuel + 1, off, n, acc =>
    if n = 0 then .ok acc s
    else
      let k := min n (65536 - off % 65536)
      match s.devRead (.engine e) x.inst (s.boxAddr x off) k with
      | .ok b s => State.streamRead s e x fuel (off + k) (n - k) (acc ++ b)
      | .wait s => .wait s
      | .fail st a s => .fail st a s

/-- The next batch of an inbox: one message behind its sub-header (R300). -/
def State.inboxBatch (s : State) (e : Nat) (l : Leaf) (a first count : Nat) : Acc (Option (Bytes × Bool × Leaf)) :=
  match s.assoc? a with
  | none => .ok none s
  | some x =>
    match x.msgs.find? (fun m => m.no == first + l.unit_) with
    | none => .ok none s
    | some m =>
      if count ≤ l.unit_ then .ok none s
      else match s.streamRead e x (m.len / 65536 + 2) m.off m.len [] with
        | .wait s => .wait s
        | .fail st ad s => .fail st ad s
        | .ok b s =>
          let last := l.unit_ + 1 == count
          .ok (some (plainBatch l.rowBase m.rows last (leBytes 2 a ++ zeros 62 ++ b), last,
            { l with unit_ := l.unit_ + 1, rowBase := l.rowBase + m.rows, rowsIn := l.rowsIn + m.rows })) s

/-- The batch that BNEXT brings in for a leaf whose source is a partition buffer or an inbox. -/
def State.pullBatch (s : State) (e : Nat) (l : Leaf) : Acc (Option (Bytes × Bool × Leaf)) :=
  match l.src with
  | .chunks addrs => s.chunkBatch e l addrs
  | .inbox a first count => s.inboxBatch e l a first count
  | _ => .ok none s

/-- Does a leaf's source deliver on its own: a Trimmer or a merger? -/
def LeafSrc.pushed : LeafSrc → Bool
  | .scan _ _ _ => true
  | .merge _ _ => true
  | _ => false

end Sys2Proof.Machine
end

