-- ==== Sys2Proof/Machine/EngVec.lean ====
section
/-! DEFINITION. The vector and mask instructions of the engines (R101–R104, R109–R112, R115–R118). -/
namespace Sys2Proof.Machine

/-- The result of an element-wise operation of two operands: elements `f x y` where active (R100, R102). -/
def EngRun.vec2 (r : EngRun) (d a b : BitVec 5) (m : BitVec 1) (mk : BitVec 3) (s : BitVec 1) (f : Nat → Nat → Nat) : EngRun :=
  r.wv d (r.mapV m mk (r.rv d) (fun i => f (elem (r.rv a) r.w i) (r.bElem s b i)))

/-- The result of an element-wise operation of one operand. -/
def EngRun.vec1 (r : EngRun) (d a : BitVec 5) (m : BitVec 1) (mk : BitVec 3) (f : Nat → Nat) : EngRun :=
  r.wv d (r.mapV m mk (r.rv d) (fun i => f (elem (r.rv a) r.w i)))

-- ---------------------------------------------------------------- vector integer (MAJOR 0x28)

/-- Sum, low EW bits (R109). -/
def veltVadd (_w x y : Nat) : Nat := x + y
def execVadd (e : Nat) (d a b : BitVec 5) (m : BitVec 1) (mk : BitVec 3) (s : BitVec 1) (st : State) : Host.Outcome State Fault Refusal :=
  ok (runPure e (.vadd e d a b m mk s) (fun r => r.vec2 d a b m mk s (veltVadd r.w)) st)

/-- Difference, low EW bits (R109). -/
def veltVsub (w x y : Nat) : Nat := x + (2 ^ w - y)
def execVsub (e : Nat) (d a b : BitVec 5) (m : BitVec 1) (mk : BitVec 3) (s : BitVec 1) (st : State) : Host.Outcome State Fault Refusal :=
  ok (runPure e (.vsub e d a b m mk s) (fun r => r.vec2 d a b m mk s (veltVsub r.w)) st)

/-- Product, low EW bits (R109). -/
def veltVmul (_w x y : Nat) : Nat := x * y
def execVmul (e : Nat) (d a b : BitVec 5) (m : BitVec 1) (mk : BitVec 3) (s : BitVec 1) (st : State) : Host.Outcome State Fault Refusal :=
  ok (runPure e (.vmul e d a b m mk s) (fun r => r.vec2 d a b m mk s (veltVmul r.w)) st)

/-- Bitwise AND (R109). -/
def veltVand (_w x y : Nat) : Nat := x &&& y
def execVand (e : Nat) (d a b : BitVec 5) (m : BitVec 1) (mk : BitVec 3) (s : BitVec 1) (st : State) : Host.Outcome State Fault Refusal :=
  ok (runPure e (.vand e d a b m mk s) (fun r => r.vec2 d a b m mk s (veltVand r.w)) st)

/-- Bitwise OR (R109). -/
def veltVor (_w x y : Nat) : Nat := x ||| y
def execVor (e : Nat) (d a b : BitVec 5) (m : BitVec 1) (mk : BitVec 3) (s : BitVec 1) (st : State) : Host.Outcome State Fault Refusal :=
  ok (runPure e (.vor e d a b m mk s) (fun r => r.vec2 d a b m mk s (veltVor r.w)) st)

/-- Bitwise XOR (R109). -/
def veltVxor (_w x y : Nat) : Nat := x ^^^ y
def execVxor (e : Nat) (d a b : BitVec 5) (m : BitVec 1) (mk : BitVec 3) (s : BitVec 1) (st : State) : Host.Outcome State Fault Refusal :=
  ok (runPure e (.vxor e d a b m mk s) (fun r => r.vec2 d a b m mk s (veltVxor r.w)) st)

/-- Shift left by B mod EW (R109). -/
def veltVsll (w x y : Nat) : Nat := x <<< (y % w)
def execVsll (e : Nat) (d a b : BitVec 5) (m : BitVec 1) (mk : BitVec 3) (s : BitVec 1) (st : State) : Host.Outcome State Fault Refusal :=
  ok (runPure e (.vsll e d a b m mk s) (fun r => r.vec2 d a b m mk s (veltVsll r.w)) st)

/-- Logical shift right by B mod EW (R109). -/
def veltVsrl (w x y : Nat) : Nat := x >>> (y % w)
def execVsrl (e : Nat) (d a b : BitVec 5) (m : BitVec 1) (mk : BitVec 3) (s : BitVec 1) (st : State) : Host.Outcome State Fault Refusal :=
  ok (runPure e (.vsrl e d a b m mk s) (fun r => r.vec2 d a b m mk s (veltVsrl r.w)) st)

/-- Arithmetic shift right by B mod EW (R109). -/
def veltVsra (w x y : Nat) : Nat := unsigned (signed x w / 2 ^ (y % w)) w
def execVsra (e : Nat) (d a b : BitVec 5) (m : BitVec 1) (mk : BitVec 3) (s : BitVec 1) (st : State) : Host.Outcome State Fault Refusal :=
  ok (runPure e (.vsra e d a b m mk s) (fun r => r.vec2 d a b m mk s (veltVsra r.w)) st)

/-- Signed minimum (R109). -/
def veltVmin (w x y : Nat) : Nat := if signed x w ≤ signed y w then x else y
def execVmin (e : Nat) (d a b : BitVec 5) (m : BitVec 1) (mk : BitVec 3) (s : BitVec 1) (st : State) : Host.Outcome State Fault Refusal :=
  ok (runPure e (.vmin e d a b m mk s) (fun r => r.vec2 d a b m mk s (veltVmin r.w)) st)

/-- Signed maximum (R109). -/
def veltVmax (w x y : Nat) : Nat := if signed x w ≤ signed y w then y else x
def execVmax (e : Nat) (d a b : BitVec 5) (m : BitVec 1) (mk : BitVec 3) (s : BitVec 1) (st : State) : Host.Outcome State Fault Refusal :=
  ok (runPure e (.vmax e d a b m mk s) (fun r => r.vec2 d a b m mk s (veltVmax r.w)) st)

/-- Unsigned minimum (R109). -/
def veltVminu (_w x y : Nat) : Nat := min x y
def execVminu (e : Nat) (d a b : BitVec 5) (m : BitVec 1) (mk : BitVec 3) (s : BitVec 1) (st : State) : Host.Outcome State Fault Refusal :=
  ok (runPure e (.vminu e d a b m mk s) (fun r => r.vec2 d a b m mk s (veltVminu r.w)) st)

/-- Unsigned maximum (R109). -/
def veltVmaxu (_w x y : Nat) : Nat := max x y
def execVmaxu (e : Nat) (d a b : BitVec 5) (m : BitVec 1) (mk : BitVec 3) (s : BitVec 1) (st : State) : Host.Outcome State Fault Refusal :=
  ok (runPure e (.vmaxu e d a b m mk s) (fun r => r.vec2 d a b m mk s (veltVmaxu r.w)) st)

/-- OVF is set when an active result does not fit (R99, R109). -/
def EngRun.check2 (r : EngRun) (a b : BitVec 5) (m : BitVec 1) (mk : BitVec 3) (s : BitVec 1) (exceeds : Nat → Nat → Bool) : EngRun :=
  r.setOvf (r.actives m mk) (fun i => exceeds (elem (r.rv a) r.w i) (r.bElem s b i))

/-- VADDC.S: as VADD, and sets OVF when a result does not fit in EW (R109). -/
def execVaddcS (e : Nat) (d a b : BitVec 5) (m : BitVec 1) (mk : BitVec 3) (s : BitVec 1) (st : State) : Host.Outcome State Fault Refusal :=
  ok (runPure e (.vaddcS e d a b m mk s) (fun r =>
    (r.check2 a b m mk s (fun x y => ovfSigned r.w (signed x r.w + signed y r.w))).vec2 d a b m mk s (veltVadd r.w)) st)

/-- VADDC.U: as VADD, and sets OVF when a result does not fit in EW (R109). -/
def execVaddcU (e : Nat) (d a b : BitVec 5) (m : BitVec 1) (mk : BitVec 3) (s : BitVec 1) (st : State) : Host.Outcome State Fault Refusal :=
  ok (runPure e (.vaddcU e d a b m mk s) (fun r =>
    (r.check2 a b m mk s (fun x y => ovfUnsigned r.w ((x : Int) + y))).vec2 d a b m mk s (veltVadd r.w)) st)

/-- VSUBC.S: as VSUB, and sets OVF when a result does not fit in EW (R109). -/
def execVsubcS (e : Nat) (d a b : BitVec 5) (m : BitVec 1) (mk : BitVec 3) (s : BitVec 1) (st : State) : Host.Outcome State Fault Refusal :=
  ok (runPure e (.vsubcS e d a b m mk s) (fun r =>
    (r.check2 a b m mk s (fun x y => ovfSigned r.w (signed x r.w - signed y r.w))).vec2 d a b m mk s (veltVsub r.w)) st)

/-- VSUBC.U: as VSUB, and sets OVF when a result does not fit in EW (R109). -/
def execVsubcU (e : Nat) (d a b : BitVec 5) (m : BitVec 1) (mk : BitVec 3) (s : BitVec 1) (st : State) : Host.Outcome State Fault Refusal :=
  ok (runPure e (.vsubcU e d a b m mk s) (fun r =>
    (r.check2 a b m mk s (fun x y => ovfUnsigned r.w ((x : Int) - y))).vec2 d a b m mk s (veltVsub r.w)) st)

/-- VMULC.S: as VMUL, and sets OVF when a result does not fit in EW (R109). -/
def execVmulcS (e : Nat) (d a b : BitVec 5) (m : BitVec 1) (mk : BitVec 3) (s : BitVec 1) (st : State) : Host.Outcome State Fault Refusal :=
  ok (runPure e (.vmulcS e d a b m mk s) (fun r =>
    (r.check2 a b m mk s (fun x y => ovfSigned r.w (signed x r.w * signed y r.w))).vec2 d a b m mk s (veltVmul r.w)) st)

/-- VMV: v[D] := v[A] (R109). -/
def execVmv (e : Nat) (d a : BitVec 5) (m : BitVec 1) (mk : BitVec 3) (st : State) : Host.Outcome State Fault Refusal :=
  ok (runPure e (.vmv e d a m mk) (fun r => r.vec1 d a m mk (fun x => x)) st)

/-- VBCAST: v[D] := the low EW bits of g[B] (R109). -/
def execVbcast (e : Nat) (d b : BitVec 5) (m : BitVec 1) (mk : BitVec 3) (st : State) : Host.Outcome State Fault Refusal :=
  ok (runPure e (.vbcast e d b m mk) (fun r => r.wv d (r.mapV m mk (r.rv d) (r.bElem 1 b))) st)

-- ---------------------------------------------------------------- vector float (MAJOR 0x29), EW 32 or 64

/-- IEEE 754 addition (R104, R109). -/
def execVfadd (e : Nat) (d a b : BitVec 5) (m : BitVec 1) (mk : BitVec 3) (s : BitVec 1) (st : State) : Host.Outcome State Fault Refusal :=
  ok (runWidth e (.vfadd e d a b m mk s) [32, 64] (fun r => r.vec2 d a b m mk s (fmtOf r.w).add) st)

/-- IEEE 754 subtraction (R104, R109). -/
def execVfsub (e : Nat) (d a b : BitVec 5) (m : BitVec 1) (mk : BitVec 3) (s : BitVec 1) (st : State) : Host.Outcome State Fault Refusal :=
  ok (runWidth e (.vfsub e d a b m mk s) [32, 64] (fun r => r.vec2 d a b m mk s (fmtOf r.w).sub) st)

/-- IEEE 754 multiplication (R104, R109). -/
def execVfmul (e : Nat) (d a b : BitVec 5) (m : BitVec 1) (mk : BitVec 3) (s : BitVec 1) (st : State) : Host.Outcome State Fault Refusal :=
  ok (runWidth e (.vfmul e d a b m mk s) [32, 64] (fun r => r.vec2 d a b m mk s (fmtOf r.w).mul) st)

/-- IEEE 754 division (R104, R109). -/
def execVfdiv (e : Nat) (d a b : BitVec 5) (m : BitVec 1) (mk : BitVec 3) (s : BitVec 1) (st : State) : Host.Outcome State Fault Refusal :=
  ok (runWidth e (.vfdiv e d a b m mk s) [32, 64] (fun r => r.vec2 d a b m mk s (fmtOf r.w).div) st)

/-- Minimum, −0 below +0, a NaN operand gives the canonical NaN (R104, R109). -/
def execVfmin (e : Nat) (d a b : BitVec 5) (m : BitVec 1) (mk : BitVec 3) (s : BitVec 1) (st : State) : Host.Outcome State Fault Refusal :=
  ok (runWidth e (.vfmin e d a b m mk s) [32, 64] (fun r => r.vec2 d a b m mk s (fmtOf r.w).fmin) st)

/-- Maximum, −0 below +0, a NaN operand gives the canonical NaN (R104, R109). -/
def execVfmax (e : Nat) (d a b : BitVec 5) (m : BitVec 1) (mk : BitVec 3) (s : BitVec 1) (st : State) : Host.Outcome State Fault Refusal :=
  ok (runWidth e (.vfmax e d a b m mk s) [32, 64] (fun r => r.vec2 d a b m mk s (fmtOf r.w).fmax) st)

/-- Clears the sign bit (R104, R109). -/
def execVfabs (e : Nat) (d a : BitVec 5) (m : BitVec 1) (mk : BitVec 3) (st : State) : Host.Outcome State Fault Refusal :=
  ok (runWidth e (.vfabs e d a m mk) [32, 64] (fun r => r.vec1 d a m mk (fmtOf r.w).fabs) st)

/-- Inverts the sign bit (R104, R109). -/
def execVfneg (e : Nat) (d a : BitVec 5) (m : BitVec 1) (mk : BitVec 3) (st : State) : Host.Outcome State Fault Refusal :=
  ok (runWidth e (.vfneg e d a m mk) [32, 64] (fun r => r.vec1 d a m mk (fmtOf r.w).negate) st)

-- ---------------------------------------------------------------- compare to mask (MAJOR 0x2A, R110)

/-- A condition of VCMP over integers: 0 EQ, 1 NE, 2 LT, 3 LE, 4 GT, 5 GE. -/
def intCond (cond : Nat) (x y : Int) : Bool :=
  match cond with
  | 0 => decide (x = y)
  | 1 => decide (x ≠ y)
  | 2 => decide (x < y)
  | 3 => decide (x ≤ y)
  | 4 => decide (y < x)
  | _ => decide (y ≤ x)

/-- One comparison of VCMP: signed, unsigned, float, string prefix with byte 0 most significant (R110). -/
def cmpElem (kind cond w x y : Nat) : Bool :=
  match kind with
  | 0 => intCond cond (signed x w) (signed y w)
  | 1 => intCond cond x y
  | 2 => (fmtOf w).compare cond x y
  | _ => intCond cond (ofBe (leBytes 16 x)) (ofBe (leBytes 16 y))

/-- The widths a comparison admits: float 32 or 64, string prefix 128 (R110). -/
def cmpWidths (kind : Nat) : List Nat :=
  match kind with
  | 2 => [32, 64]
  | 3 => [128]
  | _ => [8, 16, 32, 64, 128]

/-- VCMP: m[D] has a bit set where an element is active and the condition holds, and every other bit clear (R102). -/
def execVcmp (e : Nat) (d a b : BitVec 5) (m : BitVec 1) (mk : BitVec 3) (s : BitVec 1) (kind : BitVec 2) (cond : BitVec 3)
    (st : State) : Host.Outcome State Fault Refusal :=
  ok (runWidth e (.vcmp e d a b m mk s kind cond) (cmpWidths kind.toNat) (fun r =>
    r.wm (lo3 d) (maskOf (fun i => r.active m mk i
      && cmpElem kind.toNat cond.toNat r.w (elem (r.rv a) r.w i) (r.bElem s b i)))) st)

-- ---------------------------------------------------------------- mask functions (MAJOR 0x2B)

/-- MAND: m[D] := m[A] AND m[B], over all 64 bits. -/
def execMand (e : Nat) (d a b : BitVec 3) (st : State) : Host.Outcome State Fault Refusal :=
  ok (runPure e (.mand e d a b) (fun r => r.wm d (r.rm a &&& r.rm b)) st)

/-- MOR: m[D] := m[A] OR m[B], over all 64 bits. -/
def execMor (e : Nat) (d a b : BitVec 3) (st : State) : Host.Outcome State Fault Refusal :=
  ok (runPure e (.mor e d a b) (fun r => r.wm d (r.rm a ||| r.rm b)) st)

/-- MXOR: m[D] := m[A] XOR m[B], over all 64 bits. -/
def execMxor (e : Nat) (d a b : BitVec 3) (st : State) : Host.Outcome State Fault Refusal :=
  ok (runPure e (.mxor e d a b) (fun r => r.wm d (r.rm a ^^^ r.rm b)) st)

/-- MANDN: m[D] := m[A] AND NOT m[B], over all 64 bits. -/
def execMandn (e : Nat) (d a b : BitVec 3) (st : State) : Host.Outcome State Fault Refusal :=
  ok (runPure e (.mandn e d a b) (fun r => r.wm d (r.rm a &&& ~~~(r.rm b))) st)

/-- MNOT: m[D] := NOT m[A], bits at or beyond VL clear. -/
def execMnot (e : Nat) (d a : BitVec 3) (st : State) : Host.Outcome State Fault Refusal :=
  ok (runPure e (.mnot e d a) (fun r => r.wm d (r.below (~~~(r.rm a)))) st)

/-- MSET: bits 0 to VL − 1 of m[D] set, the rest clear. -/
def execMset (e : Nat) (d : BitVec 3) (st : State) : Host.Outcome State Fault Refusal :=
  ok (runPure e (.mset e d) (fun r => r.wm d (maskLow r.vl)) st)

/-- MPOP: g[D] := the number of set bits of m[A] below VL. -/
def execMpop (e : Nat) (d : BitVec 5) (a : BitVec 3) (st : State) : Host.Outcome State Fault Refusal :=
  ok (runPure e (.mpop e d a) (fun r => r.wg d (ofN (popc64 (r.below (r.rm a))))) st)

/-- MFFS: g[D] := the index of the lowest set bit of m[A] below VL, or VL. -/
def execMffs (e : Nat) (d : BitVec 5) (a : BitVec 3) (st : State) : Host.Outcome State Fault Refusal :=
  ok (runPure e (.mffs e d a) (fun r => r.wg d (ofN (min (ctz64 (r.rm a)) r.vl))) st)

/-- MFROMG: m[D] := g[A]. -/
def execMfromg (e : Nat) (d : BitVec 3) (a : BitVec 5) (st : State) : Host.Outcome State Fault Refusal :=
  ok (runPure e (.mfromg e d a) (fun r => r.wm d (r.rg a)) st)

/-- MTOG: g[D] := m[A]. -/
def execMtog (e : Nat) (d : BitVec 5) (a : BitVec 3) (st : State) : Host.Outcome State Fault Refusal :=
  ok (runPure e (.mtog e d a) (fun r => r.wg d (r.rm a)) st)

-- ---------------------------------------------------------------- rearrangement and conversion (MAJOR 0x2C)

/-- The register `old` with elements set at positions (index, value) of width `w`. -/
def setElems (w : Nat) (old : BitVec 512) (ps : List (Nat × Nat)) : BitVec 512 :=
  ofElems w ((elems old w).zipIdx.map (fun p => ((ps.find? (fun q => q.1 == p.2)).map (·.2)).getD p.1))

/-- VCMPRS: the active elements of v[A] go to elements 0, 1, … of v[D]. -/
def EngRun.compress (r : EngRun) (d a : BitVec 5) (m : BitVec 1) (mk : BitVec 3) : EngRun :=
  r.wv d (setElems r.w (r.rv d) ((r.actives m mk).zipIdx.map (fun p => (p.2, elem (r.rv a) r.w p.1))))
def execVcmprs (e : Nat) (d a : BitVec 5) (m : BitVec 1) (mk : BitVec 3) (st : State) : Host.Outcome State Fault Refusal :=
  ok (runPure e (.vcmprs e d a m mk) (fun r => r.compress d a m mk) st)

/-- VEXPND: each active element of v[D] takes the next element of v[A]. -/
def EngRun.expand (r : EngRun) (d a : BitVec 5) (m : BitVec 1) (mk : BitVec 3) : EngRun :=
  r.wv d (setElems r.w (r.rv d) ((r.actives m mk).zipIdx.map (fun p => (p.1, elem (r.rv a) r.w p.2))))
def execVexpnd (e : Nat) (d a : BitVec 5) (m : BitVec 1) (mk : BitVec 3) (st : State) : Host.Outcome State Fault Refusal :=
  ok (runPure e (.vexpnd e d a m mk) (fun r => r.expand d a m mk) st)

/-- VSCAN: an active element becomes the sum of the active elements up to it, modulo 2^EW. -/
def EngRun.scan (r : EngRun) (d a : BitVec 5) (m : BitVec 1) (mk : BitVec 3) : EngRun :=
  r.wv d (r.mapV m mk (r.rv d) (fun i =>
    (((r.actives m mk).filter (fun j => decide (j ≤ i))).map (elem (r.rv a) r.w)).foldl (· + ·) 0))
def execVscan (e : Nat) (d a : BitVec 5) (m : BitVec 1) (mk : BitVec 3) (st : State) : Host.Outcome State Fault Refusal :=
  ok (runPure e (.vscan e d a m mk) (fun r => r.scan d a m mk) st)

/-- Element numbers 0 to VL − 1 in ascending order of the keys of v[A]; equal keys keep their order. -/
def EngRun.order (r : EngRun) (a : BitVec 5) : List Nat :=
  sortBy (fun i j => decide (elem (r.rv a) r.w i ≤ elem (r.rv a) r.w j)) (List.range r.vl)

/-- The register `v` with its first VL elements permuted. -/
def EngRun.permute (r : EngRun) (old v : BitVec 512) (p : List Nat) : BitVec 512 :=
  setElems r.w old (p.zipIdx.map (fun x => (x.2, elem v r.w x.1)))

/-- VSORT: elements 0 to VL − 1 of v[A] go to v[D] in ascending unsigned order. -/
def execVsort (e : Nat) (d a : BitVec 5) (m : BitVec 1) (mk : BitVec 3) (st : State) : Host.Outcome State Fault Refusal :=
  ok (runPure e (.vsort e d a m mk) (fun r => r.wv d (r.permute (r.rv d) (r.rv a) (r.order a))) st)

/-- VSORTP: sorts v[A] in place and applies the same permutation to v[D]. -/
def execVsortp (e : Nat) (d a : BitVec 5) (m : BitVec 1) (mk : BitVec 3) (st : State) : Host.Outcome State Fault Refusal :=
  ok (runPure e (.vsortp e d a m mk) (fun r =>
    (r.wv a (r.permute (r.rv a) (r.rv a) (r.order a))).wv d (r.permute (r.rv d) (r.rv d) (r.order a))) st)

/-- VUNPK: element i of v[D] := bits [i·b + b − 1 : i·b] of v[A], b := g[B][6:0]; a b outside its range fails the leaf
with 0x1002 (R111). -/
def execVunpk (e : Nat) (d a b : BitVec 5) (m : BitVec 1) (mk : BitVec 3) (s : BitVec 1) (st : State) :
    Host.Outcome State Fault Refusal :=
  ok (runEng e (.vunpk e d a b m mk s) (fun r _ st =>
    let n := (r.rg b).toNat % 128
    if n = 0 ∨ 64 < n ∨ r.w < n ∨ 512 < r.vl * n then .fail 0x1002 st
    else .next (r.wv d (r.mapV m mk (r.rv d) (fun i => (r.rv a).toNat >>> (i * n) % 2 ^ n))) st) st)

/-- VEXT: g[D] := element g[B] of v[A], zero-extended or its low 64 bits; an element at or beyond VLEN ÷ EW fails the
leaf with 0x1002. -/
def execVext (e : Nat) (d a b : BitVec 5) (st : State) : Host.Outcome State Fault Refusal :=
  ok (runEng e (.vext e d a b) (fun r _ st =>
    if r.vlen / r.w ≤ (r.rg b).toNat then .fail 0x1002 st
    else .next (r.wg d (ofN (elem (r.rv a) r.w (r.rg b).toNat))) st) st)

/-- VINS: element g[B] of v[D] := g[A], zero-extended. -/
def execVins (e : Nat) (d a b : BitVec 5) (st : State) : Host.Outcome State Fault Refusal :=
  ok (runEng e (.vins e d a b) (fun r _ st =>
    if r.vlen / r.w ≤ (r.rg b).toNat then .fail 0x1002 st
    else .next (r.wv d (setElems r.w (r.rv d) [((r.rg b).toNat, (r.rg a).toNat)])) st) st)

/-- VWIDEN.S: element i of v[A] at half the width, sign-extended; EW of at least 16. -/
def execVwidenS (e : Nat) (d a : BitVec 5) (m : BitVec 1) (mk : BitVec 3) (st : State) : Host.Outcome State Fault Refusal :=
  ok (runWidth e (.vwidenS e d a m mk) [16, 32, 64, 128] (fun r => r.wv d (r.mapV m mk (r.rv d) (fun i =>
    unsigned (signed (elem (r.rv a) (r.w / 2) i) (r.w / 2)) r.w))) st)

/-- VWIDEN.U: element i of v[A] at half the width, zero-extended; EW of at least 16. -/
def execVwidenU (e : Nat) (d a : BitVec 5) (m : BitVec 1) (mk : BitVec 3) (st : State) : Host.Outcome State Fault Refusal :=
  ok (runWidth e (.vwidenU e d a m mk) [16, 32, 64, 128] (fun r => r.wv d (r.mapV m mk (r.rv d) (fun i =>
    elem (r.rv a) (r.w / 2) i))) st)

/-- Element i of the pair v[A], v[A + 1] at twice the width. -/
def EngRun.pairElem (r : EngRun) (a : BitVec 5) (i : Nat) : Nat :=
  let n := 512 / (2 * r.w)
  if i < n then elem (r.rv a) (2 * r.w) i else elem (r.rv (a + 1)) (2 * r.w) (i - n)

/-- VNARROW: the low EW bits of element i of the pair; EW of at most 64; a pair register v[32] fails the leaf with
0x1001. -/
def execVnarrow (e : Nat) (d a : BitVec 5) (m : BitVec 1) (mk : BitVec 3) (st : State) : Host.Outcome State Fault Refusal :=
  ok (runEng e (.vnarrow e d a m mk) (fun r _ st =>
    if a = 31 ∨ r.w = 128 then .fail 0x1001 st
    else .next (r.wv d (r.mapV m mk (r.rv d) (r.pairElem a))) st) st)

/-- VCVT.IF: signed integer to float of the same width, rounded. -/
def execVcvtIf (e : Nat) (d a : BitVec 5) (m : BitVec 1) (mk : BitVec 3) (st : State) : Host.Outcome State Fault Refusal :=
  ok (runWidth e (.vcvtIf e d a m mk) [32, 64] (fun r => r.vec1 d a m mk (fun x => (fmtOf r.w).ofInt (signed x r.w))) st)

/-- VCVT.FI: float to signed integer, toward zero, saturating; NaN gives 0. -/
def execVcvtFi (e : Nat) (d a : BitVec 5) (m : BitVec 1) (mk : BitVec 3) (st : State) : Host.Outcome State Fault Refusal :=
  ok (runWidth e (.vcvtFi e d a m mk) [32, 64] (fun r => r.vec1 d a m mk (fun x => unsigned ((fmtOf r.w).toInt x) r.w)) st)

/-- VCVT.SD (EW 64): binary32 element i of v[A] to binary64. -/
def execVcvtSd (e : Nat) (d a : BitVec 5) (m : BitVec 1) (mk : BitVec 3) (st : State) : Host.Outcome State Fault Refusal :=
  ok (runWidth e (.vcvtSd e d a m mk) [64] (fun r => r.wv d (r.mapV m mk (r.rv d) (fun i =>
    f32.convert f64 (elem (r.rv a) 32 i)))) st)

/-- VCVT.DS (EW 32): binary64 element i of the pair v[A], v[A + 1] to binary32. -/
def execVcvtDs (e : Nat) (d a : BitVec 5) (m : BitVec 1) (mk : BitVec 3) (st : State) : Host.Outcome State Fault Refusal :=
  ok (runEng e (.vcvtDs e d a m mk) (fun r _ st =>
    if a = 31 ∨ r.w ≠ 32 then .fail 0x1001 st
    else .next (r.wv d (r.mapV m mk (r.rv d) (fun i => f64.convert f32 (r.pairElem a i)))) st) st)

-- ---------------------------------------------------------------- hashing (MAJOR 0x2D, R112)

/-- The seed of element i: g[B] or element i of v[B]. -/
def EngRun.seed (r : EngRun) (s : BitVec 1) (b : BitVec 5) (i : Nat) : Nat :=
  if s = 1 then (r.rg b).toNat else elem (r.rv b) r.w i

/-- HASHC: CRC-32C of the element's bytes from the low 32 bits of its seed, inverted (R112); EW 32, 64 or 128. -/
def hashC (w x seed : Nat) : Nat := crcRaw (seed % 2 ^ 32) (leBytes (w / 8) x) ^^^ 0xFFFFFFFF
def execHashc (e : Nat) (d a b : BitVec 5) (m : BitVec 1) (mk : BitVec 3) (s : BitVec 1) (st : State) :
    Host.Outcome State Fault Refusal :=
  ok (runWidth e (.hashc e d a b m mk s) [32, 64, 128] (fun r => r.wv d (r.mapV m mk (r.rv d) (fun i =>
    hashC r.w (elem (r.rv a) r.w i) (r.seed s b i)))) st)

/-- HASHM: p := x · s mod 2^64; p at EW 64, its high half at EW 32 (R112). -/
def hashM (w x seed : Nat) : Nat :=
  let p := x * seed % 2 ^ 64
  if w = 64 then p else p / 2 ^ 32
def execHashm (e : Nat) (d a b : BitVec 5) (m : BitVec 1) (mk : BitVec 3) (s : BitVec 1) (st : State) :
    Host.Outcome State Fault Refusal :=
  ok (runWidth e (.hashm e d a b m mk s) [32, 64] (fun r => r.wv d (r.mapV m mk (r.rv d) (fun i =>
    hashM r.w (elem (r.rv a) r.w i) (r.seed s b i)))) st)

-- ---------------------------------------------------------------- exact accumulators in registers (MAJOR 0x2E)

/-- XCLR: a[D] := 0 (R118). -/
def execXclr (e : Nat) (d : BitVec 2) (st : State) : Host.Outcome State Fault Refusal :=
  ok (runPure e (.xclr e d) (fun r => r.wa d {}) st)

/-- Adds the active elements to a[D]; COUNT grows by their number (R116). -/
def EngRun.accumulate (r : EngRun) (d : BitVec 2) (m : BitVec 1) (mk : BitVec 3) (f : ExactAcc → Nat → ExactAcc) : EngRun :=
  let acts := r.actives m mk
  let x := acts.foldl f (r.ra d)
  r.wa d { x with count := satCount x.count acts.length }

/-- XADDF: adds binary32 or binary64 elements exactly (R116). -/
def execXaddf (e : Nat) (d : BitVec 2) (a : BitVec 5) (m : BitVec 1) (mk : BitVec 3) (st : State) :
    Host.Outcome State Fault Refusal :=
  ok (runWidth e (.xaddf e d a m mk) [32, 64] (fun r =>
    r.accumulate d m mk (fun x i => ExactAcc.addFloat (fmtOf r.w) x (elem (r.rv a) r.w i))) st)

/-- XADDI: adds signed integer elements at weight 2^0 (R116). -/
def execXaddi (e : Nat) (d : BitVec 2) (a : BitVec 5) (m : BitVec 1) (mk : BitVec 3) (st : State) :
    Host.Outcome State Fault Refusal :=
  ok (runPure e (.xaddi e d a m mk) (fun r =>
    r.accumulate d m mk (fun x i => x.addInt (signed (elem (r.rv a) r.w i) r.w))) st)

/-- XMACF (EW 32): adds the exact products of pairs of binary32 elements (R116). -/
def execXmacf (e : Nat) (d : BitVec 2) (a b : BitVec 5) (m : BitVec 1) (mk : BitVec 3) (s : BitVec 1) (st : State) :
    Host.Outcome State Fault Refusal :=
  ok (runWidth e (.xmacf e d a b m mk s) [32] (fun r =>
    r.accumulate d m mk (fun x i => x.addProd (elem (r.rv a) r.w i) (r.bElem s b i))) st)

/-- XMRG: adds VALUE and COUNT of a[A] into a[D] and ORs its FLAGS (R116). -/
def execXmrg (e : Nat) (d a : BitVec 2) (st : State) : Host.Outcome State Fault Refusal :=
  ok (runPure e (.xmrg e d a) (fun r => r.wa d ((r.ra d).merge (r.ra a))) st)

/-- XRND: g[D] := the binary64 value of a[A] (R117). -/
def execXrnd (e : Nat) (d : BitVec 5) (a : BitVec 2) (st : State) : Host.Outcome State Fault Refusal :=
  ok (runPure e (.xrnd e d a) (fun r => r.wg d (ofN (ExactAcc.round f64 (r.ra a)))) st)

/-- XRNDS: g[D] := the binary32 value of a[A], zero-extended (R117). -/
def execXrnds (e : Nat) (d : BitVec 5) (a : BitVec 2) (st : State) : Host.Outcome State Fault Refusal :=
  ok (runPure e (.xrnds e d a) (fun r => r.wg d (ofN (ExactAcc.round f32 (r.ra a)))) st)

/-- XRDW: g[D] := word g[B] of a[A]; a word above 65 fails the leaf with 0x1002 (R118). -/
def execXrdw (e : Nat) (d : BitVec 5) (a : BitVec 2) (b : BitVec 5) (st : State) : Host.Outcome State Fault Refusal :=
  ok (runEng e (.xrdw e d a b) (fun r _ st =>
    if 65 < (r.rg b).toNat then .fail 0x1002 st
    else .next (r.wg d ((r.ra a).word (r.rg b).toNat)) st) st)

end Sys2Proof.Machine
end

