-- ==== Sys2Proof/Machine/EngMemRows.lean ====
section
/-! DEFINITION. The engine instructions that reach memory, the fetch unit and the Thumb index (R105–R108, R113, R114,
R118, R161–R165, R183, R184). -/
namespace Sys2Proof.Machine

/-- A base register plus a displacement, modulo 2^64 (R95). -/
def effAddr (base : Word) (disp : Int) : Nat := (base + BitVec.ofInt 64 disp).toNat

-- ---------------------------------------------------------------- scalar loads and stores (R105)

/-- LDS: g[T] := SZ bytes, zero- or sign-extended. -/
def execLds (e : Nat) (t a : BitVec 5) (sz : BitVec 2) (sx : BitVec 1) (off : BitVec 12) (s : State) :
    Host.Outcome State Fault Refusal :=
  ok (runEng e (.lds e t a sz sx off) (fun r l s =>
    let n := 2 ^ sz.toNat
    .acc (match s.engLoad e r l (effAddr (r.rg a) off.toInt) n with
      | .ok b s => .ok (r.wg t (if sx = 1 then BitVec.ofInt 64 (signed (ofLe b) (8 * n)) else ofN (ofLe b))) s
      | .wait s => .wait s
      | .fail st ad s => .fail st ad s)) s)

/-- STS: the low SZ bytes of g[T]. -/
def execSts (e : Nat) (t a : BitVec 5) (sz : BitVec 2) (off : BitVec 12) (s : State) : Host.Outcome State Fault Refusal :=
  ok (runEng e (.sts e t a sz off) (fun r l s =>
    .acc (s.engStore e r l (effAddr (r.rg a) off.toInt) (leBytes (2 ^ sz.toNat) (r.rg t).toNat))) s)

/-- MLD: m[D] := 8 bytes at g[A]. -/
def execMld (e : Nat) (d a : BitVec 5) (s : State) : Host.Outcome State Fault Refusal :=
  ok (runEng e (.mld e d a) (fun r l s =>
    .acc (match s.engLoad e r l (r.rg a).toNat 8 with
      | .ok b s => .ok (r.wm (lo3 d) (ofN (ofLe b))) s
      | .wait s => .wait s
      | .fail st ad s => .fail st ad s)) s)

/-- MST: 8 bytes at g[A] := m[B]. -/
def execMst (e : Nat) (a b : BitVec 5) (s : State) : Host.Outcome State Fault Refusal :=
  ok (runEng e (.mst e a b) (fun r l s => .acc (s.engStore e r l (r.rg a).toNat (leBytes 8 (r.rm (lo3 b)).toNat))) s)

-- ---------------------------------------------------------------- vector loads and stores (R105, R106)

/-- The address of element i: unit stride (R105). -/
def EngRun.elemAddr (r : EngRun) (a : BitVec 5) (off : BitVec 11) (i : Nat) : Nat :=
  effAddr (r.rg a) (off.toInt * 64 + (i * (r.w / 8) : Nat))

/-- Why an element faults: at or above SB, or as R95 (R106). -/
def State.elemFault (s : State) (e : Nat) (r : EngRun) (i a n : Nat) (k : Kind) : Option Nat :=
  if r.sb.toNat < a + n then some 0x1006 else s.accFault e i a n k

/-- Waits for the pages of a run of elements that ends at `last`, and counts the quire words it touches (R131, R141). -/
def State.loadReady (s : State) (e : Nat) (l : Leaf) (first last : Nat) (addrs : List Nat) (n : Nat) : Acc Unit :=
  match engMem first with
  | .dev => s.devCheck (.engine e) l.inst first (last + n - first) false
  | .quire =>
    let words := dedup ((addrs.map (fun a => (List.range (wordsOf a n)).map (fun k => a / 8 + k))).flatten)
    .ok () (s.qmCount (e / 16) (e % 16) words.length)
  | _ => .ok () s

/-- The elements of a vector load put into v[T]. -/
def EngRun.putLoaded (r : EngRun) (t : BitVec 5) (is vals : List Nat) : EngRun :=
  r.wv t (setElems r.w (r.rv t) (is.zip vals))

/-- VLD: reads every active element; with FF it stops at the first that faults (R106). -/
def State.vload (s : State) (e : Nat) (r : EngRun) (l : Leaf) (t a : BitVec 5) (m : BitVec 1) (mk : BitVec 3)
    (ff : BitVec 1) (off : BitVec 11) : Acc EngRun :=
  let n := r.w / 8
  let acts := r.actives m mk
  let fault := fun i => s.elemFault e r l.inst (r.elemAddr a off i) n .load
  let go := fun (good : List Nat) (r' : EngRun) =>
    let addrs := good.map (r.elemAddr a off)
    match addrs, addrs.getLast? with
    | f :: _, some z =>
      match s.loadReady e l f z addrs n with
      | .ok _ s =>
        match s.engLoads e r l n addrs [] with
        | .ok vs s => .ok ({ r' with v := (r.putLoaded t good vs).v }) s
        | .wait s => .wait s
        | .fail st ad s => .fail st ad s
      | .wait s => .wait s
      | .fail st ad s => .fail st ad s
    | _, _ => .ok r' s
  match acts.find? (fun i => (fault i).isSome) with
  | none => go acts (if ff = 1 then { r with ffi := r.vl } else r)
  | some k =>
    let st := (fault k).getD 0x1006
    if ff = 0 ∨ st ≠ 0x1006 ∨ acts.head? = some k then
      .fail st (r.elemAddr a off k) (if st = 0x5002 then s.logDenied l.inst (r.elemAddr a off k) else s)
    else go (acts.filter (fun i => decide (i < k))) { r with vl := k, ffi := k }
def execVld (e : Nat) (t a : BitVec 5) (m : BitVec 1) (mk : BitVec 3) (ff : BitVec 1) (off : BitVec 11) (s : State) :
    Host.Outcome State Fault Refusal :=
  ok (runEng e (.vld e t a m mk ff off) (fun r l s => .acc (s.vload e r l t a m mk ff off)) s)

/-- Neighbouring stores of one vector store as one (R131). -/
def mergeStores : List (Nat × Bytes) → List (Nat × Bytes)
  | [] => []
  | (a, b) :: r =>
    match mergeStores r with
    | (a2, b2) :: r2 => if a + b.length = a2 ∧ engMem a = engMem a2 then (a, b ++ b2) :: r2 else (a, b) :: (a2, b2) :: r2
    | [] => [(a, b)]

/-- VST: stores every active element; FF fails the leaf with 0x1001 (R106). -/
def State.vstore (s : State) (e : Nat) (r : EngRun) (l : Leaf) (t a : BitVec 5) (m : BitVec 1) (mk : BitVec 3)
    (off : BitVec 11) : Acc EngRun :=
  let n := r.w / 8
  let acts := r.actives m mk
  match acts.findSome? (fun i => (s.elemFault e r l.inst (r.elemAddr a off i) n .store).map (fun st => (st, r.elemAddr a off i))) with
  | some (st, ad) => .fail st ad (if st = 0x5002 then s.logDenied l.inst ad else s)
  | none => s.engStores e r l (mergeStores (acts.map (fun i => (r.elemAddr a off i, leBytes n (elem (r.rv t) r.w i)))))
def execVst (e : Nat) (t a : BitVec 5) (m : BitVec 1) (mk : BitVec 3) (ff : BitVec 1) (off : BitVec 11) (s : State) :
    Host.Outcome State Fault Refusal :=
  ok (runEng e (.vst e t a m mk ff off) (fun r l s =>
    if ff = 1 then .fail 0x1001 s else .acc (s.vstore e r l t a m mk off)) s)

-- ---------------------------------------------------------------- staged atomics (R109, R133)

/-- An atomic on the 8-aligned word at an address of quire memory. -/
def State.stageAtomic (s : State) (e : Nat) (r : EngRun) (l : Leaf) (a : Nat) (k : Kind) (it : StageItem) : Acc EngRun :=
  if a % 8 ≠ 0 ∨ engMem a ≠ .quire then .fail 0x1006 a s
  else match s.accFault e l.inst a 8 k with
    | some st => .fail st a s
    | none => s.stageItems e r l [] [it] it.size

/-- AADD: stages a 64-bit add of g[B] to the word at g[A] in quire memory. -/
def execAadd (e : Nat) (a b : BitVec 5) (s : State) : Host.Outcome State Fault Refusal :=
  ok (runEng e (.aadd e a b) (fun r l s =>
    .acc (s.stageAtomic e r l (r.rg a).toNat .atomic (.aadd ((r.rg a).toNat - quireBase) (r.rg b)))) s)

/-- ASWP: stages an atomic write of g[B] to the word at g[A] in quire memory. -/
def execAswp (e : Nat) (a b : BitVec 5) (s : State) : Host.Outcome State Fault Refusal :=
  ok (runEng e (.aswp e a b) (fun r l s =>
    .acc (s.stageAtomic e r l (r.rg a).toNat .store (.aswp ((r.rg a).toNat - quireBase) (r.rg b)))) s)

-- ---------------------------------------------------------------- accumulator images (R118)

/-- XLD: a[D] := the image at g[A]; an image that is not 8-aligned is an address fault. -/
def execXld (e : Nat) (d : BitVec 2) (a : BitVec 5) (s : State) : Host.Outcome State Fault Refusal :=
  ok (runEng e (.xld e d a) (fun r l s =>
    let ad := (r.rg a).toNat
    .acc (if ad % 8 ≠ 0 then .fail 0x1006 ad s
      else match s.engLoad e r l ad 528 with
        | .ok b s => .ok (r.wa d (ExactAcc.ofImage b)) s
        | .wait s => .wait s
        | .fail st x s => .fail st x s)) s)

/-- XST: the image of a[A] goes to g[B]. -/
def execXst (e : Nat) (a : BitVec 2) (b : BitVec 5) (s : State) : Host.Outcome State Fault Refusal :=
  ok (runEng e (.xst e a b) (fun r l s =>
    let ad := (r.rg b).toNat
    .acc (if ad % 8 ≠ 0 then .fail 0x1006 ad s else s.engStore e r l ad (r.ra a).image)) s)

/-- XPOST: stages the merge of a[A] into the image at g[B]; in the working space it acts at once (R108, R118). -/
def State.xpost (s : State) (e : Nat) (r : EngRun) (l : Leaf) (acc : ExactAcc) (ad : Nat) : Acc EngRun :=
  if ad % 8 ≠ 0 then .fail 0x1006 ad s
  else match s.accFault e l.inst ad 528 (if engMem ad = .quire then .atomic else .store) with
    | some st => .fail st ad (if st = 0x5002 then s.logDenied l.inst ad else s)
    | none =>
      match engMem ad with
      | .dev => s.stageItems e r l [(ad, 528)] [.accDev ad acc] 536
      | .data =>
        if s.poisoned (.dmem e) (ad - dataBase) 528 then .fail 0x3001 ad s
        else
          let (b, s) := s.dataBytes e r (ad - dataBase) 528
          .ok r (s.workWrite e r (ad - dataBase) ((ExactAcc.ofImage b).merge acc).image)
      | _ => s.stageItems e r l [] [.accQuire (ad - quireBase) acc] 536
def execXpost (e : Nat) (a : BitVec 2) (b : BitVec 5) (s : State) : Host.Outcome State Fault Refusal :=
  ok (runEng e (.xpost e a b) (fun r l s => .acc (s.xpost e r l (r.ra a) (r.rg b).toNat)) s)

/-- Are the units of an engine's quire mapped out, so that a leaf which needs them fails with 0x4002 (R127, R151)? -/
def State.quireLost (s : State) (e : Nat) : Bool := s.col.mapQuires.contains (e / 16)

-- ---------------------------------------------------------------- the fetch unit (R113, R183, R184)

/-- Registers that 16 results fill. -/
def fetchRegs (ew : Nat) : Nat := if ew ≤ 2 then 1 else if ew = 3 then 2 else 4

/-- FETCH: 16 row positions from v[A] go to the fetch unit; the leaf waits for FETCH_DELIVER. -/
def execFetch (e : Nat) (d a b : BitVec 5) (m : BitVec 1) (mk : BitVec 3) (s : State) : Host.Outcome State Fault Refusal :=
  ok (runEng e (.fetch e d a b m mk) (fun r _ s =>
    if 32 < d.toNat + fetchRegs r.ew then .fail 0x1001 s
    else
      let q : FetchReq :=
        { d := d.toNat, pos := (List.range 16).map (fun i => effAddr (r.rg b) (elem (r.rv a) 32 i * (r.w / 8) : Nat))
          on := (List.range 16).map (fun i => m == 0 || (r.rm mk).getLsbD i)
          mask := if m = 1 then some mk.toNat else none }
      .acc (.wait (s.setRun e { r with steps := r.steps - 1, fetch := some q }))) s)

/-- Does element i of a request fault: no device address, at or above SB, unmapped or outside the leaf's rights? -/
def State.fetchFault (s : State) (e : Nat) (r : EngRun) (i a : Nat) : Option Nat :=
  if engMem a ≠ .dev then some 0x1006 else s.elemFault e r i a (r.w / 8) .load

/-- Makes the pages of elements ready, those in place pinned until the request is delivered (R184). -/
def State.fetchReady (s : State) (e i n : Nat) : List Nat → List Nat → Bool → Acc (List Nat × Bool)
  | [], pins, wait_ => .ok (pins, wait_) s
  | a :: rest, pins, wait_ =>
    match s.devCheck (.fetch e) i a n false with
    | .ok _ s => let (pins, s) := s.stagePin i a n pins; State.fetchReady s e i n rest pins wait_
    | .wait s => State.fetchReady s e i n rest pins true
    | .fail st ad s => .fail st ad s

/-- The accesses that read some elements of `n` bytes: one for the elements of each 64-byte burst (R183), as the span from
its first to its last element. -/
def fetchSpans (n : Nat) (as : List Nat) : List (Nat × Nat) :=
  (dedup (as.map (· / 64))).map (fun k =>
    let mine := as.filter (fun a => a / 64 == k)
    let lo := mine.foldl min (64 * k + 63)
    (lo, mine.foldl max 0 + n - lo))

/-- Reads the bursts of elements that are ready: addresses and bytes. -/
def State.fetchRead (s : State) (i : Nat) : List (Nat × Nat) → List (Nat × Bytes) → Acc (List (Nat × Bytes))
  | [], got => .ok got s
  | (a, n) :: rest, got =>
    match s.readPieces i (piecesOf a n) [] with
    | .ok b s => State.fetchRead s i rest (got ++ [(a, b)])
    | .wait s => .wait s
    | .fail st ad s => .fail st ad s

/-- The element at an address, from the bursts read. -/
def fetchElem (n a : Nat) (got : List (Nat × Bytes)) : Nat :=
  match got.find? (fun p => decide (p.1 ≤ a) && decide (a + n ≤ p.1 + p.2.length)) with
  | some p => ofLe ((p.2.drop (a - p.1)).take n)
  | none => 0

/-- Puts the delivered elements into the registers, sets FFI and clears the mask beyond it (R113). -/
def EngRun.fetched (r : EngRun) (q : FetchReq) (k : Nat) (vals : List (Nat × Nat)) : EngRun :=
  let per := 512 / r.w
  let r := (List.range (fetchRegs r.ew)).foldl (fun (r : EngRun) j =>
    let d := BitVec.ofNat 5 (q.d + j)
    r.wv d (setElems r.w (r.rv d) ((vals.filter (fun p => p.1 / per == j)).map (fun p => (p.1 % per, p.2))))) r
  let r := match q.mask with
    | some x => if k < 16 then
        let d := BitVec.ofNat 3 x
        r.wm d (r.rm d &&& ~~~(maskLow 16 &&& ~~~(maskLow k)))
      else r
    | none => r
  { r with ffi := k, fetch := none, steps := r.steps + 1, pc := r.pc + 4 }

/-- FETCH_DELIVER: elements below the first faulting one are delivered together once their pages are in place (R184). -/
def execFetchDeliver (e : Nat) (s : State) : Host.Outcome State Fault Refusal :=
  if !s.running then ok s
  else match s.engRun e with
    | none => ok s
    | some r =>
      match r.fetch, s.leaf? r.leaf with
      | some q, some l =>
        if l.state ≠ .running then ok s
        else if s.quireLost e then ok (s.failAt l 0x4002 0)
        else
          let n := r.w / 8
          let acts := (List.range 16).filter (fun i => q.on.getD i false)
          let fault := fun i => s.fetchFault e r l.inst (q.pos.getD i 0)
          let k := (acts.find? (fun i => (fault i).isSome)).getD 16
          let st := (fault k).getD 0x1006
          let good := acts.filter (fun i => decide (i < k))
          if k < 16 ∧ (st ≠ 0x1006 ∨ good = []) then
            ok ((if st = 0x5002 then s.logDenied l.inst (q.pos.getD k 0) else s).failAt l st (q.pos.getD k 0))
          else match s.fetchReady e l.inst n (good.map (fun i => q.pos.getD i 0)) q.pins false with
            | .fail st ad s => ok (s.failAt l st ad)
            | .wait s => ok s
            | .ok (pins, wait_) s =>
              let held := { r with fetch := some { q with pins := pins } }
              if wait_ then ok (s.setRun e held)
              else match s.fetchRead l.inst (fetchSpans n (good.map (fun i => q.pos.getD i 0))) [] with
                | .ok got s =>
                  let vs := good.map (fun i => fetchElem n (q.pos.getD i 0) got)
                  let s := pins.foldl (fun s f => s.unpin f) s
                  ok ((s.setRun e (r.fetched q k (good.zip vs))).count (0x802028 + 0x8000 * (e / 16)) 1)
                | .wait s => ok s
                | .fail st ad s => ok ((s.setRun e held).failAt l st ad)
      | _, _ => ok s

-- ---------------------------------------------------------------- the Thumb index (R114, R161–R165)

/-- THS: searches the banks of g[B] for the key in v[A]; a bank outside the instance's allocation fails the leaf with
0x5002; two or more matches open a cursor (R161, R162). -/
def State.ths (s : State) (e : Nat) (r : EngRun) (l : Leaf) (d a b : BitVec 5) : Acc EngRun :=
  let mask := (r.rg b).toNat
  let key : Word128 := (r.rv a).setWidth 128
  let put := fun (r : EngRun) (x : Nat) => r.wv d (putRecord (r.rv d) x)
  if mask = 0 then .ok (put r (thumbRecord noCursor false false 0 0 0 0)) s
  else if s.thumbDenied l.inst (e / 16) mask then .fail 0x5002 0 s
  else if s.quireLost e then .fail 0x4002 0 s
  else match s.thumbOp e r mask 8 with
    | .error s => .wait s
    | .ok (r, s) =>
      match s.thumbMatches (e / 16) key mask with
      | [] => .ok (put r (thumbRecord noCursor false false 0 0 0 0)) s
      | [t] => .ok (put r (thumbRecord noCursor false true 1 t.1 t.2.priority.toNat t.2.payload.toNat)) s
      | t :: rest =>
        let (c, s) := s.openCursor e key mask t
        .ok (put r (thumbRecord c true true (min 255 (rest.length + 1)) t.1 t.2.priority.toNat t.2.payload.toNat)) s
def execThs (e : Nat) (d a b : BitVec 5) (s : State) : Host.Outcome State Fault Refusal :=
  ok (runEng e (.ths e d a b) (fun r l s => .acc (s.ths e r l d a b)) s)

/-- THN: the next match after the context's last one, or the end record; a CURSOR that names no context of this engine
fails the leaf with 0x1002 (R163). -/
def State.thn (s : State) (e : Nat) (r : EngRun) (d a : BitVec 5) : Acc EngRun :=
  let x := (r.rv a).toNat
  let cur := x / 2 ^ 96 % 2 ^ 32
  let multi := bitAt x 73
  let count := x / 2 ^ 64 % 256
  let put := fun (r : EngRun) (y : Nat) => r.wv d (putRecord (r.rv d) y)
  let last := put r (thumbRecord noCursor multi false count 0 0 0)
  if cur = noCursor then .ok last s
  else if bitAt cur 25 ∨ cur / 2 ^ 28 ≠ e % 16 then .fail 0x1002 0 s
  else
    let k := bits cur 27 26
    let c := (s.engOf e).cursors.getD k {}
    if c.gen ≠ bits cur 24 16 then .fail 0x1002 0 s
    else if c.used then .ok last s
    else if !c.open_ then .fail 0x1002 0 s
    else if s.quireLost e then .fail 0x4002 0 s
    else match s.thumbOp e r c.mask 0x10 with
      | .error s => .wait s
      | .ok (r, s) =>
        let set := fun (s : State) (c : Cursor) => s.updEng e (fun y => { y with cursors := y.cursors.set k c })
        match (s.thumbMatches (e / 16) c.key c.mask).find? (fun t =>
            decide (t.2.priority.toNat < c.prio) || (t.2.priority.toNat == c.prio && decide (c.idx < t.1))) with
        | some t =>
          .ok (put r (thumbRecord (cursorWord e k c.gen t.1) multi true count t.1 t.2.priority.toNat t.2.payload.toNat))
            (set s { c with prio := t.2.priority.toNat, idx := t.1 })
        | none => .ok (put r (thumbRecord noCursor multi false count 0 0 0)) (set s { c with open_ := false, used := true })
def execThn (e : Nat) (d a : BitVec 5) (s : State) : Host.Outcome State Fault Refusal :=
  ok (runEng e (.thn e d a) (fun r _ s => .acc (s.thn e r d a)) s)

/-- THW, under a THUMB_BUILD sink: stages the write of one entry at index g[B] (R114, R165). -/
def State.thw (s : State) (e : Nat) (r : EngRun) (l : Leaf) (a b : BitVec 5) : Acc EngRun :=
  match s.sigOfLeaf l with
  | none => .fail 0x1002 0 s
  | some g =>
    let idx := (r.rg b).toNat
    let v := r.rv a
    if g.sink ≠ 5 then .fail 0x1002 0 s
    else if 65536 ≤ idx ∨ !(List.range 16).any (fun q => ((Tab.find s.banks (q * 64 + idx / 1024)).map (·.owner)) == some l.inst)
      then .fail 0x5002 0 s
    else if !bitAt g.ke (idx / 1024) then .fail 0x1002 0 s
    else
      let t : ThumbEntry := { key := v.extractLsb' 0 128, care := v.extractLsb' 128 128,
                              payload := v.extractLsb' 256 32, priority := v.extractLsb' 288 16, valid := true }
      let it : StageItem := .thumb idx t
      match s.stageItems e r l [] [it] it.size with
      | .ok r s => .ok { r with rows := r.rows + 1 } s
      | .wait s => .wait s
      | .fail st ad s => .fail st ad s
def execThw (e : Nat) (a b : BitVec 5) (s : State) : Host.Outcome State Fault Refusal :=
  ok (runEng e (.thw e a b) (fun r l s => .acc (s.thw e r l a b)) s)

end Sys2Proof.Machine
end

