-- ==== Sys2Proof/Machine/EngLeaf.lean ====
section
/-! DEFINITION. Input, sinks, spawning and commit (R119–R122, R124), and what ends an attempt from outside the leaf's
code: invalid words, the step limit, engine faults and their counting (R47, R100, R126, R445, R472). -/
namespace Sys2Proof.Machine

-- ---------------------------------------------------------------- input (R120)

/-- Releases the batch returned by the previous BNEXT: its bytes are undefined from then on. -/
def State.releaseBatch (s : State) (e : Nat) (r : EngRun) : EngRun × State :=
  match r.handed, r.batches with
  | true, b :: rest =>
    let (free, s) := s.freshBytes b.len
    ({ r with handed := false, batches := rest, ended := r.ended || b.last }, s.wrEcc (.quire (e / 16)) (winOff e + b.off) free)
  | _, _ => (r, s)

/-- BNEXT: releases the previous batch and answers the address of the next complete one, waiting for it; 0 once the
END batch has been released, and at once for a spawned leaf. A partition buffer or an inbox delivers here. -/
def State.bnext (s : State) (e : Nat) (r : EngRun) (l : Leaf) (d : BitVec 5) : Acc EngRun :=
  let (r, s) := s.releaseBatch e r
  let give := fun (r : EngRun) (s : State) (off : Nat) => Acc.ok ({ r with handed := true }.wg d (ofN (quireBase + winOff e + off))) s
  let hold := fun (s : State) => Acc.wait (s.setRun e { r with steps := r.steps - 1 })
  if l.src = .none ∨ r.ended then .ok (r.wg d 0) s
  else match r.batches with
    | b :: _ => give r s b.off
    | [] =>
      if l.src.pushed then hold s
      else match s.pullBatch e l with
        | .wait s => hold s
        | .fail st a s => .fail st a s
        | .ok none s => .ok ({ r with ended := true }.wg d 0) s
        | .ok (some (b, last, l)) s =>
          match s.deliver 16 e r b last, r.place b.length with
          | some (r, s), some off => give r (s.updLeaf l.id (fun _ => l)) off
          | _, _ => hold s
def execBnext (e : Nat) (d : BitVec 5) (s : State) : Host.Outcome State Fault Refusal :=
  ok (runEng e (.bnext e d) (fun r l s => .acc (s.bnext e r l d)) s)

-- ---------------------------------------------------------------- row groups (R121)

/-- EMIT: the active elements of v[A] are appended to column g[B] of the open row group; a column above 15 or another
sink fails the leaf with 0x1002. -/
def State.emitRows (s : State) (e : Nat) (r : EngRun) (l : Leaf) (a b : BitVec 5) (m : BitVec 1) (mk : BitVec 3) : Acc EngRun :=
  let sink := ((s.sigOfLeaf l).map (·.sink)).getD 0
  let c := (r.rg b).toNat
  if !(sink == 1 || sink == 2 || sink == 4) || decide (15 < c) then .fail 0x1002 0 s
  else if r.vl = 0 then .ok r s
  else
    let acts := r.actives m mk
    match s.grow e r l (acts.length * (r.w / 8)) with
    | .ok r s =>
      let (ew, old) := Tab.get r.cols c (r.ew, [])
      .ok { r with cols := Tab.set r.cols c (if ew = r.ew then ew else mixedEw, old ++ acts.map (elem (r.rv a) r.w)) } s
    | .wait s => .wait s
    | .fail st ad s => .fail st ad s
def execEmit (e : Nat) (a b : BitVec 5) (m : BitVec 1) (mk : BitVec 3) (s : State) : Host.Outcome State Fault Refusal :=
  ok (runEng e (.emit e a b m mk) (fun r l s => .acc (s.emitRows e r l a b m mk)) s)

/-- EMITEND: closes the row group; valid only under PARTITION, EXCHANGE_ALL and RESULT. -/
def State.emitEnd (s : State) (e : Nat) (r : EngRun) (l : Leaf) : Acc EngRun :=
  let sink := ((s.sigOfLeaf l).map (·.sink)).getD 0
  if !(sink == 1 || sink == 2 || sink == 4) then .fail 0x1002 0 s else s.closeGroup e r l
def execEmitend (e : Nat) (s : State) : Host.Outcome State Fault Refusal :=
  ok (runEng e (.emitend e) (fun r l s => .acc (s.emitEnd e r l)) s)

-- ---------------------------------------------------------------- spawning (R122, R203)

/-- Associations of an instance that feed an inbox (R297). -/
def State.feeding (s : State) (i box : Nat) : Nat :=
  (s.assocs.filter (fun p => p.2.inst == i && p.2.local_ == box)).length

/-- The ordinal of a spawned leaf and the counts after it (R39). The Cutter's ordinals are the same on every run, so
while it still cuts the free ones begin at 2^29, and once the input is exhausted the next one after the Cutter's is
free. Leaves of an inbox have their association's rank in bits [29:20] (R300), so spawned leaves of such a signature
are numbered behind the last rank (log 31). -/
def State.spawnOrd (s : State) (k sig : Nat) : Nat × SigRun :=
  match s.run? k with
  | none => (0, {})
  | some r =>
    let g := sigInfo r.image sig
    let x := r.sig sig
    if g.source = 4 then ((s.feeding r.inst (g.so % 65536) * 2 ^ 20 + x.spawns) % 2 ^ 30, { x with spawns := x.spawns + 1 })
    else if x.drained then (x.ords % 2 ^ 30, { x with ords := x.ords + 1 })
    else (2 ^ 29 + x.spawns % 2 ^ 29, { x with spawns := x.spawns + 1 })

/-- SPAWN: g[A] must name the running signature, the 65th fails with 0x2002; it waits for a ready-leaf slot and the new
leaf is HELD until its spawner commits. -/
def State.spawn (s : State) (e : Nat) (r : EngRun) (l : Leaf) (a b : BitVec 5) : Acc EngRun :=
  if (r.rg a).toNat ≠ l.sig then .fail 0x1002 0 s
  else if 64 ≤ r.spawns then .fail 0x2002 0 s
  else
    let ahead := ((s.spawnsOf l.inst).takeWhile (· != e)).length
    if s.slotsFree l.inst ≤ ahead then
      if s.coll.spawns.contains e then .wait s
      else .wait (({ s with coll := { s.coll with spawns := s.coll.spawns ++ [e] } }).beginSlotWait l.inst (some l))
    else
      let (ord, counts) := s.spawnOrd l.run l.sig
      let child : Leaf := { inst := l.inst, sub := l.sub, sig := l.sig, ord := ord, group := l.group, cls := l.cls,
                            home := some (e / 16), cq := l.cq, state := .held, seq := 0, arg := (r.rg b).toNat, src := .none }
      let s := s.updSig l.run l.sig (fun _ => counts)
      let s : State := { s with
        leaves := Tab.set s.leaves child.id child
        coll := { s.coll with spawns := s.coll.spawns.filter (· != e) } }
      .ok { r with spawns := r.spawns + 1, spawned := r.spawned ++ [child.id] } (s.endSlotWait l.inst)
def execSpawn (e : Nat) (a b : BitVec 5) (s : State) : Host.Outcome State Fault Refusal :=
  ok (runEng e (.spawn e a b) (fun r l s => .acc (s.spawn e r l a b)) s)

/-- COMMIT: hands the leaf's stage to the commit path and frees the engine (R44). -/
def execCommit (e : Nat) (s : State) : Host.Outcome State Fault Refusal :=
  ok (runEng e (.commit e) (fun r _ s => .commit r s) s)

-- ---------------------------------------------------------------- words that are no instruction, the step limit

/-- A word that decodes to no instruction fails the leaf with 0x1001; a program counter at or beyond the end of the code
section is an address fault (R97, R100). -/
def execInvalidInstruction (e : Nat) (s : State) : Host.Outcome State Fault Refusal :=
  match s.running_ e with
  | none => ok s
  | some (r, l) =>
    if (s.engOf e).codeLen ≤ r.pc then ok (s.failAt l 0x1006 r.pc)
    else if (decodeEngine e (s.engWord e r)).isSome then ok s
    else if s.poisoned (.imem e) r.pc 4 then
      let (seq, s) := s.logConsumed l 0 r.pc
      ok (s.failLeaf l.id 0x3001 seq)
    else ok (s.failLeaf l.id 0x1001 0)

/-- The leaf would need a step beyond 2^n: it fails with 0x1007 (R47). -/
def execStepLimitReached (e : Nat) (s : State) : Host.Outcome State Fault Refusal :=
  match s.running_ e with
  | none => ok s
  | some (r, l) =>
    match (if r.pc < (s.engOf e).codeLen then decodeEngine e (s.engWord e r) else none) with
    | none => ok s
    | some i => if r.limit < r.steps + engCost i r then ok (s.failLeaf l.id 0x1007 0) else ok s

-- ---------------------------------------------------------------- engine faults (R126, R445, R472, R474)

/-- A check finds a fault in an engine: its attempt ends (R126). -/
def execEngineFaultDetected (e mech : Nat) (s : State) : Host.Outcome State Fault Refusal :=
  if s.running && decide (1 ≤ mech) && decide (mech ≤ 3) then ok (s.engineFault e mech false) else ok s

/-- Does an engine wait for a handshake that leaves it: a fetch, a page, a SPAWN slot, a Thumb wake, a batch for BNEXT, or
the partitioner's hold at COMMIT (R93)? -/
def State.waitsOutside (s : State) (e : Nat) (r : EngRun) (l : Leaf) : Bool :=
  r.fetch.isSome || r.waking != 0 || s.coll.spawns.contains e
  || s.pager.waiters.any (fun w => w.1 == .engine e || w.1 == .fetch e)
  || (match decodeEngine e (s.engWord e r) with
      | some (.bnext _ _) => l.src != .none && !r.ended && r.batches.drop (b2n r.handed) == []
      | some (.commit _) => s.commitHeld e r l
      | _ => false)

/-- STALL_WATCHDOG_EXPIRY: an internal handshake of the engine stays pending for 8 µs; the watchdog does not run during the
waits of R93 (R126). -/
def execStallWatchdogExpiry (e : Nat) (s : State) : Host.Outcome State Fault Refusal :=
  match (s.engRun e).bind (fun r => (s.leaf? r.leaf).map (fun l => (r, l))) with
  | some (r, l) => if s.running && !s.waitsOutside e r l then ok (s.engineFault e 6 false) else ok s
  | none => ok s

/-- The SEQ of an ENGINE_FAULT record goes into the failed-leaf record that waits for it (R485). -/
def fillFail (l : Nat) (seq : Nat) (fs : List FailRec) : List FailRec :=
  fs.map (fun f => if f.leaf = l ∧ f.status = 0x4001 ∧ f.detail = 0xFFFFFFFF then { f with detail := seq % 2 ^ 32 } else f)

/-- The 100 µs hold of an engine's oldest fault ends: it is recorded, and counted unless it was injected or SAG is set on
its die; enough counted faults retire the engine (R445, R472). -/
def execEngineFaultCount (e : Nat) (s : State) : Host.Outcome State Fault Refusal :=
  if !s.running then ok s
  else match (s.engOf e).faults with
    | [] => ok s
    | f :: rest =>
      let s := s.updEng e (fun x => { x with faults := rest })
      let (win, lim) := s.threshold 0
      let (n, hit, s) := if f.injected || f.sag then (0, false, s) else s.countEvent 1 f.phys win lim
      let s := s.logFh { kind := 0x0101, status := if f.last then 0x4001 else 0, outcome := if f.last then 2 else 1,
                         mech := f.mech, inst := f.leaf / 2 ^ 57, resType := 1, resIdx := f.phys, count := n,
                         flags := 2 * b2n f.injected + 4 * b2n (f.sag && !f.injected), leaf := f.leaf, data := leBytes 4 e }
      let seq := s.lastFh
      let s := if f.last then
          s.updRun (runKey (f.leaf / 2 ^ 57) (f.leaf / 2 ^ 40 % 2 ^ 17)) (fun r => { r with fails := fillFail f.leaf seq r.fails })
        else s
      ok (if hit && s.phys e == some f.phys then s.retireDue e f.phys n else s)

end Sys2Proof.Machine
end

