-- ==== Sys2Proof/Machine/Inbox.lean ====
section
/-! DEFINITION. Authentic DATA on its way into an inbox: the receive buffer with its XOFF and XON, slabs, and messages that
become complete (R21, R234, R287, R298, R299). -/
namespace Sys2Proof.Machine

-- ---------------------------------------------------------------- the receive buffer (R21, R287)

/-- Bytes of a group and priority that wait for the pages of their inboxes: what the receive buffer holds (log 92). -/
def State.bufHeld (s : State) (g k : Nat) : Nat :=
  sumOf (s.assocs.map (fun p => sumOf ((p.2.unplaced.filter (fun u => u.group == g && u.prio == k)).map (·.bytes.length))))

/-- XOFF or XON of a priority goes out on each port of a group that is up. -/
def State.sayPfc (s : State) (g k : Nat) (pause : Bool) : State :=
  let m := without (Tab.get s.fab.xoff g 0) (1 <<< k) ||| (if pause then 1 <<< k else 0)
  s.fab.ports.foldl (fun s p =>
    if p.1 / 16 = g ∧ p.2.state = 2 ∧ s.portMac p.1 ≠ 0 then s.emit (.pfc p.1 k pause) else s)
    { s with fab := { s.fab with xoff := Tab.set s.fab.xoff g m } }

/-- XOFF once a receive buffer passes 75 % full, XON again below 50 % (R287). -/
def State.pfcCheck (s : State) (g k : Nat) : State :=
  let n := s.bufHeld g k
  if bitAt (Tab.get s.fab.xoff g 0) k then (if 2 * n < Config.rxBuffer then s.sayPfc g k false else s)
  else if bitAt (s.regField offFabCfg 15 8) k ∧ 3 * Config.rxBuffer < 4 * n then s.sayPfc g k true
  else s

/-- Receive buffers that have drained let their peers send again. -/
def State.pfcSweep (s : State) : State :=
  s.fab.xoff.foldl (fun s p => (List.range 8).foldl (fun s k => if bitAt p.2 k then s.pfcCheck p.1 k else s) s) s

-- ---------------------------------------------------------------- slabs and messages (R298, R299)

/-- Writes stream bytes into the slabs, one slab at a time; `none`: a page of the inbox is not in place. -/
def State.putStream (s : State) (a : Nat) (x : Assoc) : Nat → Nat → Bytes → Option State × State
  | 0, _, _ => (some s, s)
  | fuel + 1, off, d =>
    if d = [] then (some s, s)
    else
      let n := min d.length (65536 - off % 65536)
      match s.devWrite (.inbox a) x.inst (s.boxAddr x off) (d.take n) with
      | .ok _ s => State.putStream s a x fuel (off + n) (d.drop n)
      | .wait s => (none, s)
      | .fail _ _ s => (none, s)

/-- The bytes that follow each other from an offset, out of parts in rising order. -/
def runFrom (at_ : Nat) : List (Nat × Bytes × Bool) → Bytes
  | [] => []
  | p :: r => if p.1 = at_ then p.2.1 ++ runFrom (at_ + p.2.1.length) r else if p.1 < at_ then runFrom at_ r else []

/-- Complete messages leave the parts: a record's LENGTH ends it, an end record has 64 bytes (R121, R298, R299). -/
def Assoc.assemble (x : Assoc) : Nat → Assoc
  | 0 => x
  | fuel + 1 =>
    let b := runFrom x.inEnd x.parts
    let n := max 64 (fld b 8 4)
    if b.length < 64 ∨ b.length < n then x
    else
      let inMsg := fun (p : Nat × Bytes × Bool) => decide (x.inEnd ≤ p.1) && decide (p.1 < x.inEnd + n)
      Assoc.assemble { x with
        msgs := x.msgs ++ [{ no := x.inNo, off := x.inEnd, len := n, rows := fld b 0 4, eos := x.parts.any (fun p => inMsg p && p.2.2) }]
        parts := x.parts.filter (fun p => !decide (p.1 + p.2.1.length ≤ x.inEnd + n))
        inEnd := x.inEnd + n
        inNo := x.inNo + 1 } fuel

/-- Advances CUM_PSN over what has arrived. -/
def Assoc.advance (x : Assoc) : Nat → Assoc
  | 0 => x
  | fuel + 1 =>
    if x.got.contains x.cum then Assoc.advance { x with cum := x.cum + 1, got := x.got.filter (· != x.cum) } fuel else x

/-- A waiting payload goes to its stream offset, if its pages are in place; messages that it completes become visible. -/
def State.placePart (s : State) (a : Nat) (u : RxPart) : State :=
  match s.assoc? a with
  | none => s
  | some x =>
    match s.putStream a x (u.bytes.length / 65536 + 2) u.off u.bytes with
    | (none, s) => s
    | (some s, _) =>
      s.updAssoc a (fun x =>
        let x := { x with unplaced := x.unplaced.filter (· != u)
                          parts := insertBy (fun a b => decide (a.1 ≤ b.1)) (u.off, u.bytes, u.eos) x.parts }
        x.assemble (x.parts.length + 1))

/-- Places what an association holds for pages that were not in place; its receive buffers follow. -/
def State.placeParts (s : State) (a : Nat) : State :=
  match s.assoc? a with
  | none => s
  | some x =>
    let s := x.unplaced.foldl (fun s u => s.placePart a u) s
    (dedup (x.unplaced.map (fun u => (u.group, u.prio)))).foldl (fun s p => s.pfcCheck p.1 p.2) (s.keepSlabs a 4)

/-- A restore has ended: the payloads that waited for pages of the instance are placed (R21, R234). -/
def State.placeRestored (s : State) (i : Nat) : State :=
  (s.assocs.filter (fun p => p.2.inst == i && p.2.unplaced != [])).foldl (fun s p => (s.placeParts p.1).grantBox p.2.box) s

end Sys2Proof.Machine
end

