-- ==== Sys2Proof/Machine/Fabric.lean ====
section
/-! DEFINITION. What the fabric rows share: classifying and authenticating a received frame, sending and resending DATA,
the end of an association, and the key exchange (R279–R285, R291–R306, R383–R386). -/
namespace Sys2Proof.Machine

-- ---------------------------------------------------------------- receiving (R279–R283)

/-- What becomes of a received frame. -/
inductive Rx where
  | mac                                                      -- dropped by the MAC
  | slow
  | other
  | stranger
  | establish (p : Bytes)
  | authFail
  | replay
  | good (a typ flags path seq off psn : Nat) (d : Bytes)

def macNum (l : List Nat) : Nat := ofLe (l.map (BitVec.ofNat 8))

/-- Does the MAC of a port admit a destination address (R280)? -/
def State.macAdmits (s : State) (f : Frame) : Bool :=
  let p := f.port
  if s.portMac p = 0 then f.etherType == 0x88CC
  else
    let ip6 := leBytes 8 (s.reg (portAddrOff p 0x10))
    let multi := (List.range 4).map (fun m => s.reg (portAddrOff p (0x20 + 8 * m)))
    f.dstMac == s.portMac p || f.dstMac == 2 ^ 48 - 1
    || (s.portIp6 p != 0 && f.dstMac == ofLe ([0x33, 0x33, 0xFF] ++ ip6.drop 5))
    || [macNum [0x01, 0x80, 0xC2, 0, 0, 0x0E], macNum [0x01, 0x80, 0xC2, 0, 0, 0x03], macNum [0x01, 0x80, 0xC2, 0, 0, 0],
        macNum [0x01, 0x1B, 0x19, 0, 0, 0]].contains f.dstMac
    || multi.any (fun v => bitAt v 63 && v % 2 ^ 48 == f.dstMac)

/-- Does the MAC accept a frame (R279, R281)? -/
def State.macAccepts (s : State) (f : Frame) : Bool :=
  f.fcsOk && f.ucw == 0 && decide (64 ≤ f.size) && decide (f.size ≤ 9216) && decide (f.tags ≤ 1) && s.macAdmits f

/-- The entry that a frame matches: the largest PRIORITY, then the lowest index (R291). -/
def State.matchAssoc (s : State) (tag src : Nat) : Option (Nat × Assoc) :=
  (s.assocs.filter (fun p => p.2.tag == tag && ((src ^^^ p.2.addr) &&& p.2.care) == 0)).foldl
    (fun (b : Option (Nat × Assoc)) p => match b with
      | none => some p
      | some q => if q.2.prio < p.2.prio then some p else some q) none

/-- Is a number in one of some ranges? -/
def inRanges (r : List (Nat × Nat)) (n : Nat) : Bool := r.any (fun p => decide (p.1 ≤ n) && decide (n ≤ p.2))

/-- Adds a number to disjoint ranges, joining neighbours. -/
def addRange (r : List (Nat × Nat)) (n : Nat) : List (Nat × Nat) :=
  let lo := ((r.find? (fun p => p.2 + 1 == n)).map (·.1)).getD n
  let hi := ((r.find? (fun p => p.1 == n + 1)).map (·.2)).getD n
  (lo, hi) :: r.filter (fun p => p.2 + 1 != n && p.1 != n + 1)

/-- An Ahnig datagram (R283, R288, R289). A reserved byte is one that the header's table gives as zero; the reserved bits of
FLAGS are none. While the Slipcase is unavailable an ESTABLISH frame is a stranger (R394). -/
def State.ahnig (s : State) (f : Frame) : Rx :=
  let b := f.payload
  let h := b.take 32
  let typ := fld h 0 1 % 16
  let flags := fld h 1 1
  let len := fld h 0x1C 2
  let est := typ == 15
  if b.length < 32 ∨ fld h 0 1 / 16 ≠ 1 ∨ !((decide (1 ≤ typ) && decide (typ ≤ 7)) || est) ∨ fld h 0x1E 2 ≠ 0
      ∨ f.udpLen ≠ b.length ∨ b.length ≠ 32 + len + (if est then 0 else 16) then .stranger
  else if est then (if s.slcUp then .establish (b.drop 32) else .stranger)
  else match s.matchAssoc (fld h 4 4) f.srcAddr.toNat with
    | none => .stranger
    | some (a, x) =>
      match x.rx.find? (fun k => k.epoch == flags % 2) with
      | none => .authFail
      | some k =>
        match gcmOpen k.key (k.salt ++ leBytes 8 (fld h 8 8)) h ((b.drop 32).take len) (b.drop (32 + len)) with
        | none => .authFail
        | some d =>
          if inRanges k.seen (fld h 8 8) then .replay
          else .good a typ flags (fld h 2 2) (fld h 8 8) (fld h 0x10 8) (fld h 0x18 4) d

/-- The classification of R282, in order; an Ahnig datagram with a wrong checksum is a frame of the last row (R290; log 91). -/
def State.classify (s : State) (f : Frame) : Rx :=
  if !s.macAccepts f then .mac
  else if f.etherType = 0x0806 ∨ f.etherType = 0x88CC ∨ f.etherType = 0x88F7 then .slow
  else if f.ipFamily ≠ 0 ∧ (f.ipProto = 58 ∨ f.ipProto = 1 ∨ (f.ipProto = 17 ∧ (f.udpPort = 319 ∨ f.udpPort = 320))) then .slow
  else if f.ipFamily ≠ 0 ∧ f.ipProto = 17 ∧ f.udpPort = s.fab.udp ∧ f.ipPlain ∧ f.sumOk then s.ahnig f
  else .other

/-- A port that is up receives a frame: it counts it if the MAC accepts it. -/
def State.hears (s : State) (f : Frame) : Bool := s.running && s.portUp f.port

/-- The codewords that FEC corrected in a frame, and the symbol errors of its lanes, are counted (R308, R310). -/
def State.fecCount (s : State) (f : Frame) : State :=
  (s.count (portReg f.port 8) f.fecCw).updPort f.port (fun p => { p with
    errs := f.symErrs.foldl (fun t e => Tab.set t e.1 (Tab.get t e.1 0 + e.2)) p.errs })

def State.rxCount (s : State) (f : Frame) : State := (s.fecCount f).count (portReg f.port 0x20) 1

/-- An authentic frame: its NONCE_SEQ is spent, the first of a new epoch starts the old key's 20 ms, and a counter of the
newest epoch that has reached 2^63 makes a rekey due (R283, R304). -/
def State.spendNonce (s : State) (a epoch seq : Nat) : State :=
  let s := s.updAssoc a (fun x => { x with
    rx := updWhere x.rx (fun k => k.epoch == epoch) (fun k => { k with seen := addRange k.seen seq })
    erase := x.erase || (x.rx.length == 2 && ((x.rx.getLast?).map (fun k => k.epoch == epoch)).getD false)
    rekeySent := x.rekeySent && !(x.rx.length == 2 && ((x.rx.getLast?).map (fun k => k.epoch == epoch)).getD false) })
  match s.assoc? a with
  | some x =>
    if 2 ^ 63 ≤ seq + 1 ∧ !x.rekeyDue ∧ (x.rx.getLast?).map (·.epoch) = some epoch then s.counterDue a else s
  | none => s

/-- Runs `g` on a good frame of a type from a live association; anything else leaves the machine as it is. -/
def State.onFrame (s : State) (f : Frame) (typ : Nat)
    (g : State → Nat → (path seq off psn flags : Nat) → Bytes → State) : State :=
  if !s.hears f then s
  else match s.classify f with
    | .good a t flags path seq off psn d =>
      if t = typ then g ((s.rxCount f).spendNonce a (flags % 2) seq) a path seq off psn flags d else s
    | _ => s

/-- The path of an association on which a frame arrived. -/
def Assoc.pathOf (x : Assoc) (f : Frame) : Nat := x.pathAt f.port f.srcAddr.toNat

-- ---------------------------------------------------------------- the retransmission timer (R302)

/-- clamp(srtt + 4 × rttvar, RTO_MIN_US, RTO_MAX_US), in ns. -/
def State.rtoOf (s : State) (x : Assoc) : Nat :=
  max (s.regField offFabTimer 15 0 * 1000) (min (s.regField offFabTimer 31 16 * 1000) (x.srtt + 4 * x.rttvar))

/-- A round-trip sample, smoothed as in RFC 6298. -/
def Assoc.sample (x : Assoc) (r : Nat) : Assoc :=
  if x.srtt = 0 then { x with srtt := r, rttvar := r / 2 }
  else { x with rttvar := (3 * x.rttvar + (if x.srtt < r then r - x.srtt else x.srtt - r)) / 4, srtt := (7 * x.srtt + r) / 8 }

/-- The timer starts, or starts again, with a period; FAB_TIMER_CFG counts from here on (R302, R311). -/
def State.startTimer (s : State) (a period : Nat) : State :=
  s.updAssoc a (fun x => { x with rto := period, rtoAt := s.timebase, timer := s.reg offFabTimer })

-- ---------------------------------------------------------------- DATA (R289, R294, R298, R302)

/-- The message that holds a stream offset. -/
def Assoc.messageAt (x : Assoc) (off : Nat) : Option Message :=
  x.out.find? (fun m => decide (m.off ≤ off) && decide (off < m.off + m.bytes.length))

/-- Bytes of the stream, within one message. -/
def Assoc.bytesAt (x : Assoc) (off n : Nat) : Bytes :=
  match x.messageAt off with
  | some m => (m.bytes.drop (off - m.off)).take n
  | none => []

/-- Sends an unacknowledged PSN again, on another path where one is eligible; `none`: no path is eligible now. -/
def State.sendAgain (s : State) (a psn : Nat) : Option State :=
  match s.assoc? a with
  | none => some s
  | some x =>
    match x.flight.find? (fun t => t.psn == psn) with
    | none => some s
    | some t =>
      match s.pickPath x (some t.path) with
      | none => none
      | some p =>
        let s := s.sendSealed a p 1 (2 + 4 * b2n t.eos) t.off (psn % 2 ^ 32) (x.bytesAt t.off t.len)
        let oldest := (x.flight.head?).map (·.psn) == some psn
        let s := s.updAssoc a (fun x => { x with
          flight := updWhere x.flight (fun u => u.psn == psn) (fun u => { u with path := p, at_ := s.timebase, retx := true }) })
        some (if oldest then s.startTimer a x.rto else s)

/-- Sends a PSN again now, or when a path becomes eligible. -/
def State.sendAgainSoon (s : State) (a psn : Nat) : State :=
  match s.sendAgain a psn with
  | some s => s
  | none => s.updAssoc a (fun x => { x with resend := if x.resend.contains psn then x.resend else x.resend ++ [psn] })

/-- The next new DATA frame, within credit and 65,536 PSNs. -/
def State.sendNew (s : State) (a : Nat) (x : Assoc) : State :=
  let span := x.psn - ((x.flight.head?).map (·.psn)).getD x.psn
  if x.credit ≤ x.sent ∨ 65536 ≤ span then s
  else match x.messageAt x.sent, s.pickPath x none with
    | some m, some p =>
      let n := min x.seg (min (m.off + m.bytes.length - x.sent) (x.credit - x.sent))
      let first := x.flight == []
      let s := s.sendSealed a p 1 (4 * b2n m.eos) x.sent (x.psn % 2 ^ 32) (x.bytesAt x.sent n)
      let t : Sent := { psn := x.psn, off := x.sent, len := n, eos := m.eos, path := p, at_ := s.timebase }
      let period := s.rtoOf x
      let s := s.updAssoc a (fun x => { x with
        flight := x.flight ++ [t], sent := x.sent + n, psn := x.psn + 1, rtoRuns := if first then 0 else x.rtoRuns })
      if first then s.startTimer a period else s
    | _, _ => s

/-- SEND: a PSN that waits to be sent again, else new bytes. -/
def State.sendData (s : State) (a : Nat) : State :=
  match s.assoc? a with
  | none => s
  | some x =>
    if !(x.state == 2 || x.state == 3) || !x.maySend then s
    else match x.resend with
      | psn :: r =>
        match s.sendAgain a psn with
        | some s => s.updAssoc a (fun x => { x with resend := r })
        | none => s
      | [] => s.sendNew a x

-- ---------------------------------------------------------------- the end of an association (R293, R306, R309)

/-- The running Association Request commands of an association with an operation. -/
def State.assocCmds (s : State) (a op : Nat) : List Cmd :=
  match s.assoc? a with
  | none => []
  | some x => s.cmds.filter (fun c => c.op == 0x4A && c.phase == .running && c.inst == x.inst && c.fld 0x18 1 == op
      && (if op = 3 then c.prog == 1 && c.sub == a else c.fld 0x20 2 == a))

/-- Ends those commands with a status. -/
def State.endAssocCmds (s : State) (a op status result : Nat) : State :=
  (s.assocCmds a op).foldl (fun s c => s.finish c.no status result 0) s

/-- The entry returns to FREE: keys erased, slabs freed, a waiting CLOSE completed (R293). -/
def State.freeAssoc (s : State) (a : Nat) : State :=
  match s.assoc? a with
  | none => s
  | some x =>
    let cs := s.assocCmds a 4
    let s := s.endAssocCmds a 5 0x4002 0
    let s := ({ s with assocs := Tab.del s.assocs a }.forget (.inbox a)).grantBox x.box
    cs.foldl (fun s c => s.finish c.no 0 0 0) s

/-- The exchange of CLOSE has ended: the Slipcase frees the entry, as soon as it runs (R293, R394). -/
def State.closeDone (s : State) (a : Nat) : State :=
  if s.slcUp then s.freeAssoc a else s.updAssoc a (fun x => { x with closed := true })

/-- Has a leaf handed over a record for an association that is not yet in its stream? -/
def State.sendComing (s : State) (a : Nat) : Bool :=
  s.leaves.any (fun p => p.2.state == .committing && p.2.stage.any (fun t => match t with
    | .send b _ => b == a
    | _ => false))

/-- CLOSE goes out once everything held has been sent and acknowledged (R293). -/
def State.tryClose (s : State) (a : Nat) : State :=
  match s.assoc? a with
  | none => s
  | some x =>
    if x.state = 3 ∧ !x.closing ∧ x.flight = [] ∧ x.outEnd ≤ x.sent ∧ !s.sendComing a then
      ((s.sendSealed a ((s.pickPath x none).getD 0) 6 0 0 0 [0]).updAssoc a (fun x => { x with
        closing := true, rtoRuns := 0 })).startTimer a (s.rtoOf x)
    else s

/-- Signatures of a run that lose with an association: it is a destination, of a finished signature too, or the run waits in
its inbox for its end-of-stream (R306). -/
def State.sigsUsing (s : State) (r : Run) (a : Nat) (x : Assoc) : List Nat :=
  (List.range r.sigs.length).filter (fun i =>
    let g := sigInfo r.image i
    (r.sig i).state != .skipped && ((s.sinkAssocs r.inst r.image g).contains a
      || (g.source == 4 && g.so % 65536 == x.local_ && (r.sig i).state == .running && !(r.sig i).ended.contains a)))

/-- An association fails: it is logged, and every run that uses it fails with 0x4002 (R306). -/
def State.failAssoc (s : State) (a : Nat) : State :=
  match s.assoc? a with
  | none => s
  | some x =>
    if x.state = 4 then s
    else
      let hit := s.runs.filterMap (fun p =>
        if p.2.inst = x.inst ∧ p.2.finish.isNone then
          match s.sigsUsing p.2 a x with
          | [] => none
          | l => some (p.1, l)
        else none)
      let s := s.updAssoc a (fun x => { x with state := 4, est := none, resend := [], flight := [], out := [] })
      let s := s.logFh { kind := 0x0503, status := 0x4002, outcome := 2, mech := 8, inst := x.inst, resType := 5,
                         resIdx := (x.path 0).lane, data := leBytes 4 a }
      let s := hit.foldl (fun s h =>
        let s := h.2.foldl (fun s i => s.updSig h.1 i (fun y => { y with
          first := if y.first = 0 then 0x4002 else y.first, lost := true })) s
        (s.stopRun h.1 0x4002).settle h.1) s
      let s := s.endAssocCmds a 5 0x4002 0
      if s.assocCmds a 4 = [] then s else s.closeDone a

-- ---------------------------------------------------------------- the key exchange (R383–R386)

/-- The transcript hash of an exchange: HELLO and the unsigned reply. -/
def estHash (hello reply : Bytes) : Bytes := sha384 (hello ++ estUnsigned reply)

/-- Does a payload's endorsement hold (R384)? -/
def estEndorsed (p : Bytes) : Bool := Config.verify Config.rootKey (slice p 0xA0 112) (slice p 0x110 96)
/-- Is a payload signed by a device key over a hash? -/
def estSignedBy (key p hash : Bytes) : Bool := Config.verify key hash (slice p 0x170 96)

/-- Signs a REPLY or REJECT. -/
def estReply (hello reply : Bytes) : Bytes := estSign reply (Config.sign 0 (estHash hello reply))

/-- Answers a HELLO with REJECT of a reason; it belongs to no entry, and 65,536 stands for the index in its hash. -/
def State.reject (s : State) (port src : Nat) (hello : Bytes) (reason : Nat) : State :=
  s.answerEst 65536 port src (estReply hello (estBytes 4 (fld hello 1 1) reason (fld hello 4 4) 0 0 0 s.domain [] []))

/-- Installs the keys of a finished exchange, and for a rekey sends REKEY (R292 step 4, R304, R385). -/
def State.installKeys (s : State) (a : Nat) (e : Est) (peer : Bytes) : State :=
  match s.assoc? a with
  | none => s
  | some x =>
    let epoch := fld e.hello 1 1
    let prk := hkdfExtract s.domain (Config.ecdh e.eph (slice peer 0x40 96))
    let th := estHash e.hello e.reply
    let info := fun (t : String) dir => ascii t ++ [BitVec.ofNat 8 dir, BitVec.ofNat 8 epoch] ++ th
    let key := fun dir => hkdfExpand prk (info "ahnig k" dir) 32
    let salt := fun dir => hkdfExpand prk (info "ahnig s" dir) 4
    let tx := if e.initiator then 0 else 1
    let rk : RxKey := { epoch := epoch, key := key (1 - tx), salt := salt (1 - tx) }
    if x.state = 1 then
      let s := s.updAssoc a (fun x => { x with
        state := 2, est := none, epochAt := s.timebase, txEpoch := 0, txKey := key tx, txSalt := salt tx, txSeq := 0, rx := [rk] })
      let s := (s.keepSlabs a 2).rehold a
      s.endAssocCmds a 3 0 a
    else
      let s := s.updAssoc a (fun x => { x with est := none, txNext := some (key tx, salt tx), rx := x.rx ++ [rk], rekeySent := true })
      let s := s.sendSealed a ((s.pickPath x none).getD 0) 5 0 0 0 []
      if x.flight = [] then (s.updAssoc a (fun x => { x with rtoRuns := 0 })).startTimer a (s.rtoOf x) else s

/-- Can an association of an instance feed its inbox, within the limits of R297? -/
def State.boxRoom (s : State) (k : Nat) (extra : Nat) : Bool :=
  match Tab.find s.inboxes k with
  | none => false
  | some b =>
    let n := (s.feeders k).length + extra
    decide (n ≤ 1024) && decide (1048576 + 131072 * n ≤ b.len)

/-- Answers a HELLO as responder for an entry: fixes the exchange and sends REPLY. -/
def State.respond (s : State) (a port src : Nat) (hello : Bytes) : State :=
  match s.assoc? a with
  | none => s
  | some x =>
    if !s.boxRoom x.box 0 then s.reject port src hello 4
    else
      let (rand, s) := s.freshBytes 32
      let (eph, s) := s.freshKey
      let rep := estReply hello (estBytes 2 (fld hello 1 1) 0 (fld hello 4 4) x.tag x.local_ x.remote s.domain rand (Config.pub eph))
      let s := s.updAssoc a (fun x => { x with
        peerTag := fld hello 8 4, est := some { initiator := false, xid := fld hello 4 4, eph := eph, hello := hello, reply := rep } })
      s.answerEst a port src rep

/-- The entry that a HELLO pairs with: an OPENING one of the same inboxes, or the association that it rekeys. -/
def State.pairOf (s : State) (src : Nat) (h : Bytes) : Option (Nat × Assoc) :=
  s.assocs.find? (fun p =>
    let x := p.2
    x.remote == fld h 0xC 2 && x.local_ == fld h 0xE 2 && x.paths.any (fun q => q.ip == src)
    && (if x.state = 1 then fld h 1 1 == 0
        else (x.state == 2 || x.state == 5) && x.peerTag == fld h 8 4 && x.rx.length == 1 && x.txNext.isNone
          && fld h 1 1 == (x.txEpoch + 1) % 2))

/-- A HELLO arrives (R384). -/
def State.onHello (s : State) (port src : Nat) (h : Bytes) : State :=
  if !estEndorsed h then s.reject port src h 1
  else if s.col.domain.isNone || slice h 0x10 16 != s.domain then s.reject port src h 2
  else match s.pairOf src h with
    | some (a, x) =>
      match x.est with
      | some e =>
        if e.initiator then
          if ofBe serialBytes < ofBe (slice h 0xA0 16) then s else s.respond a port src h
        else if e.xid = fld h 4 4 then s.answerEst a port src e.reply
        else s.respond a port src h
      | none => s.respond a port src h
    | none =>
      if s.fab.hellos.any (fun y => y.src == src && fld y.payload 4 4 == fld h 4 4) then s
      else if 4096 ≤ s.fab.hellos.length then s.reject port src h 4
      else { s with fab := { s.fab with hellos := s.fab.hellos ++ [{ port := port, src := src, payload := h }] } }

/-- The entry with an exchange of an identifier in a role. -/
def State.estOf (s : State) (initiator : Bool) (xid : Nat) : Option (Nat × Est) :=
  (s.assocs.filterMap (fun p => p.2.est.bind (fun e =>
    if e.initiator = initiator ∧ e.xid = xid then some (p.1, e) else none))).head?

/-- REPLY: checked, then the keys are derived and FINISH goes out. -/
def State.onReply (s : State) (p : Bytes) : State :=
  match s.estOf true (fld p 4 4) with
  | none => s
  | some (a, e) =>
    if estEndorsed p && slice p 0x10 16 == s.domain && estSignedBy (slice p 0xB0 96) p (estHash e.hello p) then
      let e := { e with reply := p }
      let fin := estSign ([3, 0, 0, 0] ++ leBytes 4 e.xid ++ zeros 504) (Config.sign 0 (estHash e.hello p))
      let s := s.updAssoc a (fun x => { x with peerTag := fld p 8 4 })
      let s := match s.assoc? a with
        | some x => s.sendEstAll a x fin
        | none => s
      s.installKeys a e p
    else s

/-- FINISH: the initiator's signature over the same hash. -/
def State.onFinish (s : State) (p : Bytes) : State :=
  match s.estOf false (fld p 4 4) with
  | none => s
  | some (a, e) =>
    if estSignedBy (slice e.hello 0xB0 96) p (estHash e.hello e.reply) then s.installKeys a e e.hello else s

/-- An OPEN fails: the entry returns to FREE (R292). A rekey's exchange ends, and the rekey stays due. -/
def State.endExchange (s : State) (a status : Nat) : State :=
  match s.assoc? a with
  | none => s
  | some x =>
    if x.state = 1 then (s.endAssocCmds a 3 status 0).freeAssoc a else s.updAssoc a (fun x => { x with est := none })

/-- REJECT of an exchange that this side began; one that fails the checks of R384 is ignored. -/
def State.onReject (s : State) (p : Bytes) : State :=
  match s.estOf true (fld p 4 4) with
  | none => s
  | some (a, e) =>
    if estEndorsed p && slice p 0x10 16 == s.domain && estSignedBy (slice p 0xB0 96) p (estHash e.hello p) then
      s.endExchange a (if fld p 2 1 = 4 then 0x2002 else 0x5005)
    else s

end Sys2Proof.Machine
end

