-- ==== Sys2Proof/Machine/SlowPath.lean ====
section
/-! DEFINITION. The slow-path queue between the ports and Efura firmware, the frames that Efura sends through it, and the
timestamps of PTP (R282, R285, R286, R309). -/
namespace Sys2Proof.Machine

/-- Is an untagged frame a PTP event message: a message type of 0–3 over Ethernet, or UDP to port 319 (R286)? -/
def ptpEvent (b : Bytes) : Bool :=
  let t := ofBe (slice b 12 2)
  if t = 0x88F7 then decide (fld b 14 1 % 16 < 4)
  else if t = 0x0800 then fld b 23 1 == 17 && ofBe (slice b 36 2) == 319
  else t == 0x86DD && fld b 20 1 == 17 && ofBe (slice b 56 2) == 319

/-- Efura sends an untagged frame: on a port without a MAC address LLDP only (R280); a PTP event message is timestamped
(R286). -/
def State.sendSlow (s : State) (port : Nat) (b : Bytes) : State :=
  if !s.portUp port || (s.portMac port == 0 && ofBe (slice b 12 2) != 0x88CC) then s
  else
    let s := (s.count (portReg port 0x18) 1).emit (.frame port (padTo b (max 60 b.length)))
    if ptpEvent b then s.emit (.txStamp port s.timebase) else s

/-- The answer of an ARP request for the port's IPv4 address. -/
def State.answerArp (s : State) (port : Nat) (b : Bytes) : State :=
  let ip := beBytes 4 (s.portIp4 port)
  let mac := leBytes 6 (s.portMac port)
  if s.portIp4 port = 0 ∨ slice b 0 8 ≠ [0, 1, 8, 0, 6, 4, 0, 1] ∨ slice b 24 4 ≠ ip then s
  else s.sendSlow port (slice b 8 6 ++ mac ++ [0x08, 0x06] ++ [0, 1, 8, 0, 6, 4, 0, 2] ++ mac ++ ip ++ slice b 8 10)

/-- Sends an ICMP message from a port's address; the next hop's MAC address is a free value. -/
def State.sendIcmp (s : State) (port fam dst hops : Nat) (b : Bytes) : State :=
  let (mac, s) := s.freshBytes 6
  let src := s.portIp port fam
  let pre := if fam = 4 then [] else ipPseudo 6 src dst 58 b.length
  let b := b.take 2 ++ beBytes 2 (inetSum (pre ++ b.take 2 ++ zeros 2 ++ b.drop 4)) ++ b.drop 4
  s.sendSlow port (mac ++ leBytes 6 (s.portMac port) ++ etherIp fam ++ ipPacket fam src dst 0 hops (if fam = 4 then 1 else 58) b)

/-- Efura firmware answers ARP, Neighbor Discovery and echo requests for the port's addresses (R280, R285). -/
def State.efuraAnswers (s : State) (f : Frame) : State :=
  let b := f.payload
  let src := f.srcAddr.toNat
  if f.etherType = 0x0806 then s.answerArp f.port b
  else if f.ipFamily = 4 ∧ f.ipProto = 1 ∧ fld b 0 1 = 8 ∧ s.portIp4 f.port ≠ 0 then s.sendIcmp f.port 4 src 64 (0 :: b.drop 1)
  else if f.ipFamily = 6 ∧ f.ipProto = 58 ∧ s.portIp6 f.port ≠ 0 then
    if fld b 0 1 = 128 then s.sendIcmp f.port 6 src 64 (129 :: b.drop 1)
    else if fld b 0 1 = 135 ∧ ofBe (slice b 8 16) = s.portIp6 f.port then
      let all := 0xFF02 * 2 ^ 112 + 1
      s.sendIcmp f.port 6 (if src = 0 then all else src) 255
        ([136, 0, 0, 0, if src = 0 then 0x20 else 0x60, 0, 0, 0] ++ slice b 8 16 ++ [2, 1] ++ leBytes 6 (s.portMac f.port))
    else s
  else s

/-- A frame passes to Efura with the time at which it was received (R285, R286). -/
def State.toEfura (s : State) (p : Nat × Frame) : State := (s.emit (.slowPath p.1 p.2)).efuraAnswers p.2

/-- A frame enters the queue of its group: it passes to Efura at once, but during the placement pause of a live activation the
queue holds it, and drops and counts what exceeds its capacity (R285, R309). -/
def State.slowQueue (s : State) (f : Frame) : State :=
  let g := f.port / 16
  let s1 := s.count (groupBase f.port + 0x20) 1
  let held := Tab.get s.fab.slowHeld g []
  if !s.paused then s1.toEfura (s.timebase, f)
  else if held.length < Config.slowQueue then
    { s1 with fab := { s.fab with slowHeld := Tab.set s.fab.slowHeld g (held ++ [(s.timebase, f)]) } }
  else s.count (groupBase f.port + 0x28) 1

/-- Efura runs again: the queues pass on what they hold (R309). -/
def State.slowRelease (s : State) : State :=
  (s.fab.slowHeld.flatMap (·.2)).foldl State.toEfura { s with fab := { s.fab with slowHeld := [] } }

/-- What Efura sends of its own accord at this instant: LLDP, PTP (R285, R286; log 92). -/
def State.efuraSends (s : State) : State :=
  match Config.efuraFrame s.timebase with
  | some (p, b) => if s.running && !s.paused then s.sendSlow p b else s
  | none => s

end Sys2Proof.Machine
end

