-- ==== Sys2Proof/Machine/FabricRows.lean ====
section
/-! DEFINITION. The fabric's commands: Association Request, received frames, sending, timers, ports (R277–R311,
R384–R386). -/
namespace Sys2Proof.Machine

-- ---------------------------------------------------------------- Association Request (R292, R293, R297, R386)

/-- The Association Request that starts now with an OP; an OP outside 1–5 belongs to BIND, which refuses it. -/
def State.takeAssocCmd (s : State) (i sq cid op : Nat) : Option Cmd :=
  match s.takeCmd i sq cid 0x4A with
  | some c =>
    let o := c.fld 0x18 1
    if o = op ∨ (op = 1 ∧ (o = 0 ∨ 5 < o)) then some c else none
  | none => none

/-- Is a region one that an inbox may occupy (R297)? -/
def State.boxRegionOk (s : State) (i base len : Nat) : Bool :=
  len % 65536 == 0 && decide (1048576 ≤ len)
  && (match s.range? i base with
      | some r => !r.direct && r.write && r.home == 0 && decide (base + len ≤ r.base + r.len)
      | none => false)

/-- BIND (R297). -/
def execAssociationBind (i sq cid : Nat) (s : State) : Host.Outcome State Fault Refusal :=
  match s.takeAssocCmd i sq cid 1 with
  | none => ok s
  | some c =>
    let box := c.fld 0x1A 2
    let base := c.fld 0x28 8
    let len := c.fld 0x30 8
    if c.fld 0x18 1 = 1 ∧ box < 4096 ∧ !Tab.has s.inboxes (boxKey i box) ∧ s.boxRegionOk i base len then
      ok ({ s with inboxes := Tab.set s.inboxes (boxKey i box) { inst := i, base := base, len := len } }.finish c.no 0 0 0)
    else ok (s.finish c.no 0x1002 0 0)

/-- UNBIND of an inbox that nothing feeds and nothing consumes (R297, R300). -/
def execAssociationUnbind (i sq cid : Nat) (s : State) : Host.Outcome State Fault Refusal :=
  match s.takeAssocCmd i sq cid 2 with
  | none => ok s
  | some c =>
    let box := c.fld 0x1A 2
    if box < 4096 ∧ Tab.has s.inboxes (boxKey i box) ∧ s.feeders (boxKey i box) = [] ∧ !s.inboxBusy i box then
      ok ({ s with inboxes := Tab.del s.inboxes (boxKey i box) }.finish c.no 0 0 0)
    else ok (s.finish c.no 0x1002 0 0)

/-- A PATHS record (R337): the path, if its fields are valid. PEER_IP is read in network order, its first byte on the wire
first, as ::ffff:a.b.c.d is written and as FAB_PORT_IP6 names it (DESIGN CHOICE, log 91: R337 gives the byte order of no
address). -/
def State.pathOfRecord (s : State) (b : Bytes) : Option Path :=
  let lane := fld b 0 1
  let fam := fld b 1 1
  let ip := ofBe (slice b 8 16)
  if (fam = 4 ∨ fam = 6) ∧ (s.fabPort? lane).isSome ∧ fld b 2 6 = 0 ∧ fld b 0x18 8 = 0 ∧ (fam = 6 ∨ ip / 2 ^ 32 = 0xFFFF) then
    some { lane := lane, family := fam, ip := ip, rate := s.portRate lane }
  else none

/-- PEER_CARE: the bits in which all path addresses agree (DESIGN CHOICE, log 32). -/
def careOf (ps : List Path) : Nat :=
  let ip := (ps.headD { lane := 0, family := 6, ip := 0 }).ip
  ps.foldl (fun m p => m &&& (2 ^ 128 - 1 - (p.ip ^^^ ip))) (2 ^ 128 - 1)

/-- The new entry of an OPEN, at the lowest free index; a held HELLO that pairs with it is answered, else HELLO goes
out (R292 steps 1–3, R384). -/
def State.openAssoc (s : State) (c : Cmd) (paths : List Path) : State :=
  match (List.range 65536).find? (fun a => !Tab.has s.assocs a) with
  | none => s.finish c.no 0x2002 0 0
  | some a =>
    let (tag, s) := s.fresh
    let ip := (paths.headD { lane := 0, family := 6, ip := 0 }).ip
    let x : Assoc := { inst := c.inst, group := c.fld 0x1E 2, local_ := c.fld 0x1A 2, remote := c.fld 0x1C 2
                       tag := 1 + tag.toNat % (2 ^ 32 - 1), addr := ip, care := careOf paths, paths := paths
                       seg := segBytes (s.regField offFabCfg 5 4), minMbs := s.regField offFabRc 31 16 }
    let s := { s with assocs := Tab.set s.assocs a x }
    let s := s.updCmd c.no (fun c => { c with phase := .running, prog := 1, sub := a })
    match s.fab.hellos.find? (fun y => (s.pairOf y.src y.payload).map (·.1) == some a) with
    | some y => { s with fab := { s.fab with hellos := s.fab.hellos.filter (· != y) } }.respond a y.port y.src y.payload
    | none => s.hello a 0

/-- OPEN (R292). -/
def execAssociationOpen (i sq cid : Nat) (s : State) : Host.Outcome State Fault Refusal :=
  match s.takeAssocCmd i sq cid 3 with
  | none => ok s
  | some c =>
    let n := c.fld 0x22 1
    let box := c.fld 0x1A 2
    let limit := ((s.inst? i).map (fun x => x.alloc.assocs)).getD 0
    if !s.slcUp then ok (s.finish c.no 0x5003 0 0)
    else if s.col.domain.isNone then ok (s.finish c.no 0x5005 0 0)
    else if n = 0 ∨ 16 < n ∨ 4096 ≤ box ∨ 4096 ≤ c.fld 0x1C 2 ∨ 4096 ≤ c.fld 0x1E 2 ∨ c.dataLen < 32 * n
        ∨ !Tab.has s.inboxes (boxKey i box) then ok (s.finish c.no 0x1002 0 0)
    else match s.bufRead c c.dataAddr (32 * n) with
      | .wait s => ok s
      | .fail st a s => ok (s.finishAt c.no st 0 0 a)
      | .ok b s =>
        let ps := (groups 32 n b).map s.pathOfRecord
        if ps.any (·.isNone) then ok (s.finish c.no 0x1002 0 0)
        else if limit ≤ (s.assocs.filter (fun p => p.2.inst == i)).length ∨ !s.boxRoom (boxKey i box) 1 then
          ok (s.finish c.no 0x2002 0 0)
        else ok (s.openAssoc c (ps.filterMap id))

/-- CLOSE: the command completes when the entry is FREE (R293). -/
def execAssociationClose (i sq cid : Nat) (s : State) : Host.Outcome State Fault Refusal :=
  match s.takeAssocCmd i sq cid 4 with
  | none => ok s
  | some c =>
    let a := c.fld 0x20 2
    match s.assoc? a with
    | none => ok (s.finish c.no 0x1002 0 0)
    | some x =>
      if x.inst ≠ i ∨ x.state = 1 then ok (s.finish c.no 0x1002 0 0)
      else
        let s := s.start c.no
        if x.state = 4 then ok (s.closeDone a)
        else ok ((s.updAssoc a (fun x => { x with state := 3, est := none })).tryClose a)

/-- REKEY: starts a rekey or joins the one in progress; it completes with step 4 (R304, R386). -/
def execAssociationRekey (i sq cid : Nat) (s : State) : Host.Outcome State Fault Refusal :=
  match s.takeAssocCmd i sq cid 5 with
  | none => ok s
  | some c =>
    let a := c.fld 0x20 2
    match s.assoc? a with
    | none => ok (s.finish c.no 0x1002 0 0)
    | some x =>
      if x.inst ≠ i ∨ !(x.state == 2 || x.state == 5) then ok (s.finish c.no 0x1002 0 0)
      else
        let s := s.start c.no
        if x.est.isSome ∨ x.txNext.isSome then ok s else ok (s.startRekey a)

-- ---------------------------------------------------------------- DATA arrives (R21, R299, R301)

/-- The number whose low 32 bits are `w` and that lies nearest to `base`. -/
def psnNear (base w : Nat) : Nat :=
  let d := (w + 2 ^ 32 - base % 2 ^ 32) % 2 ^ 32
  if d < 2 ^ 31 then base + d else base + d - 2 ^ 32

/-- An authentic DATA frame (R299, R301): a duplicate is acknowledged and discarded; a payload that finds a page of the inbox
not in place is held until the restore ends (R21, R234). -/
def State.takeData (s : State) (f : Frame) (a path off psn flags : Nat) (d : Bytes) : State :=
  match s.assoc? a with
  | none => s
  | some x =>
    let s := if f.ce then s.count (portReg f.port 0x28) 1 else s
    let n := psnNear x.cum psn
    let top := x.got.foldl (fun m p => max m (p + 1)) x.cum
    let dup := decide (n < x.cum) || x.got.contains n
    let fits := decide (n < x.cum + 65536) && decide (off + d.length ≤ 65536 * x.granted) && decide (x.inEnd ≤ off)
    if x.state = 1 ∨ x.state = 4 ∨ (!dup && !fits) then s
    else
      let rep := Tab.get x.rxRep path (0, 0)
      let part : RxPart := { off := off, bytes := d, eos := bitAt flags 2, group := f.port / 16, prio := f.prio }
      let s := s.updAssoc a (fun x =>
        let x := { x with ackRun := x.ackRun + 1, ackPath := x.pathOf f
                          rxRep := if path < 16 then Tab.set x.rxRep path (rep.1 + d.length, rep.2 + (if f.ce then d.length else 0))
                                   else x.rxRep }
        if dup then x
        else ({ x with got := n :: x.got, unplaced := x.unplaced ++ [part] } : Assoc).advance (x.got.length + 2))
      let s := s.placeParts a
      let gap := !dup && decide (top < n)
      let s := match s.assoc? a with
        | some x => if gap ∨ 4 ≤ x.ackRun then s.sendAck a else s
        | none => s
      s.grantBox x.box

def execReceiveData (f : Frame) (s : State) : Host.Outcome State Fault Refusal :=
  ok (s.onFrame f 1 (fun s a path _ off psn flags d => s.takeData f a path off psn flags d))

-- ---------------------------------------------------------------- ACK arrives (R296, R301, R302)

/-- The inclusive SACK ranges of an ACK, as whole PSNs. -/
def ackSacks (cum : Nat) (d : Bytes) : List (Nat × Nat) :=
  (List.range (min 8 (fld d 4 1))).map (fun k => (psnNear cum (fld d (0x20 + 8 * k) 4), psnNear cum (fld d (0x24 + 8 * k) 4)))

/-- Path reports of an ACK join the period's counts (R295). -/
def addReports (ps : List Path) (d : Bytes) : List Path :=
  ps.zipIdx.map (fun p => { p.1 with rx := p.1.rx + fld d (0x60 + 8 * p.2) 4, ce := p.1.ce + fld d (0x64 + 8 * p.2) 4 })

/-- PSNs that fast retransmission sends now: at least 3 higher PSNs have arrived, and it has not been done (R302). -/
def fastLost (l : List Sent) : List Nat :=
  (l.filter (fun t => !t.sack && !t.fast && decide (3 ≤ (l.filter (fun u => u.sack && decide (t.psn < u.psn))).length))).map (·.psn)

/-- An authentic ACK. -/
def State.takeAck (s : State) (a : Nat) (d : Bytes) : State :=
  match s.assoc? a with
  | none => s
  | some x =>
    if d.length ≠ 224 ∨ x.state = 1 ∨ x.state = 4 then s
    else
      let first := ((x.flight.head?).map (·.psn)).getD x.psn
      let c := psnNear first (fld d 0 4)
      let cum := if first ≤ c ∧ c ≤ x.psn then c else first
      let sacks := ackSacks cum d
      let hit := fun (t : Sent) => decide (t.psn < cum) || inRanges sacks t.psn
      let fresh := x.flight.filter (fun t => hit t && !t.sack)
      let moved := decide (first < cum)
      let x1 := match (fresh.filter (fun t => !t.retx)).getLast? with
        | some t => x.sample (s.timebase - t.at_)
        | none => x
      let left := (x.flight.filter (fun t => decide (cum ≤ t.psn))).map (fun t => { t with sack := t.sack || hit t })
      let done := ((left.head?).map (·.off)).getD x.sent
      let x2 : Assoc := { x1 with
        credit := max x.credit (fld d 8 8)
        backlog := fld d 0x10 4
        paths := (addReports x.paths d).zipIdx.map (fun (p : Path × Nat) =>
          if fresh.any (fun t => t.path == p.2) then { p.1 with rtos := 0 } else p.1)
        flight := left
        resend := x.resend.filter (fun n => decide (cum ≤ n))
        out := x.out.filter (fun m => decide (done < m.off + m.bytes.length)) }
      let x3 : Assoc := if moved then { x2 with rtoRuns := 0 } else x2
      let lost := fastLost x3.flight
      let x4 : Assoc := { x3 with flight := x3.flight.map (fun (t : Sent) => if lost.contains t.psn then { t with fast := true } else t) }
      let s := s.updAssoc a (fun _ => x4)
      let s := if moved then s.startTimer a (s.rtoOf x2) else s
      let s := lost.foldl (fun s n => s.sendAgainSoon a n) s
      (s.tryClose a).grantBox x.box

def execReceiveAck (f : Frame) (s : State) : Host.Outcome State Fault Refusal :=
  ok (s.onFrame f 2 (fun s a _ _ _ _ _ d => s.takeAck a d))

-- ---------------------------------------------------------------- PROBE, REKEY, CLOSE

/-- A PROBE is answered on the path on which it came, with its NONCE_SEQ (R288). -/
def execReceiveProbe (f : Frame) (s : State) : Host.Outcome State Fault Refusal :=
  ok (s.onFrame f 3 (fun s a _ seq _ _ _ _ => match s.assoc? a with
    | some x => if x.state = 1 ∨ x.state = 4 then s else s.sendSealed a (x.pathOf f) 4 0 0 0 (leBytes 8 seq)
    | none => s))

/-- The first PROBE_REPLY makes a path usable again and gives a sample (R294, R302). -/
def State.takeProbeReply (s : State) (a : Nat) (d : Bytes) : State :=
  match s.assoc? a with
  | none => s
  | some x =>
    match x.probes.find? (fun p => p.1 == fld d 0 8) with
    | none => s
    | some p =>
      let s := s.updAssoc a (fun x => { (x.sample (s.timebase - p.2.2)) with
        probes := x.probes.filter (fun q => q.1 != p.1)
        paths := x.paths.modify p.2.1 (fun q => { q with suspect := false, rtos := 0 }) })
      s.rehold a

def execReceiveProbeReply (f : Frame) (s : State) : Host.Outcome State Fault Refusal :=
  ok (s.onFrame f 4 (fun s a _ _ _ _ _ d => s.takeProbeReply a d))

/-- The peer's REKEY: every later frame goes out under the new epoch, from NONCE_SEQ 0; waiting REKEY commands complete
(R304 step 4, R305, R386). -/
def State.takeRekey (s : State) (a : Nat) : State :=
  match s.assoc? a with
  | none => s
  | some x =>
    match x.txNext with
    | none => s
    | some (k, salt) =>
      let s := s.updAssoc a (fun x => { x with
        txKey := k, txSalt := salt, txSeq := 0, txEpoch := (x.txEpoch + 1) % 2, txNext := none
        rekeyDue := false, rekeyAsk := false, epochAt := s.timebase })
      (s.rehold a).endAssocCmds a 5 0 0

def execReceiveRekey (f : Frame) (s : State) : Host.Outcome State Fault Refusal :=
  ok (s.onFrame f 5 (fun s a _ _ _ _ _ _ => s.takeRekey a))

/-- A CLOSE is answered with CLOSE_ACK and closes this side too; one that follows a reset fails the association (R288,
R293, R309). -/
def State.takeClose (s : State) (f : Frame) (a : Nat) (d : Bytes) : State :=
  match s.assoc? a with
  | none => s
  | some x =>
    if x.state = 1 then s
    else if fld d 0 1 = 1 then s.failAssoc a
    else
      let s := s.sendSealed a (x.pathOf f) 7 0 0 0 []
      if x.state = 4 then s else (s.updAssoc a (fun x => { x with state := 3 })).tryClose a

def execReceiveClose (f : Frame) (s : State) : Host.Outcome State Fault Refusal :=
  ok (s.onFrame f 6 (fun s a _ _ _ _ _ d => s.takeClose f a d))

/-- CLOSE_ACK ends the exchange that this side's CLOSE began (R293). -/
def execReceiveCloseAck (f : Frame) (s : State) : Host.Outcome State Fault Refusal :=
  ok (s.onFrame f 7 (fun s a _ _ _ _ _ _ => match s.assoc? a with
    | some x => if x.state = 3 ∧ x.closing then s.closeDone a else s
    | none => s))

-- ---------------------------------------------------------------- a port retrains (R281, R294, R308)

/-- Frames sent on a port and not acknowledged are sent again at once, on other paths, and OPEN and HELD follow (R294). -/
def State.portGone (s : State) (down : Nat → Bool) : State :=
  s.assocs.foldl (fun s p =>
    let a := p.1
    let again := p.2.flight.filter (fun t => !t.sack && down (p.2.path t.path).lane)
    (again.foldl (fun s t => s.sendAgainSoon a t.psn) s).rehold a) s

/-- The lane of a port with the most FEC symbol errors, the lowest on a tie (R308). -/
def FabPort.worst (p : FabPort) (port : Nat) : Nat :=
  (List.range p.lanes).foldl (fun b l => if Tab.get p.errs b 0 < Tab.get p.errs (port + l) 0 then port + l else b) port

/-- A port that is up goes down to retrain; the retrain is charged to the lanes that lost lock, else to the one with the most
symbol errors (R308). -/
def State.retrainPort (s : State) (port : Nat) (lanes : List Nat) : State :=
  match s.fabPort? port with
  | none => s
  | some p =>
    if p.state = 2 then
      let own := dedup (lanes.filter (fun l => decide (port ≤ l) && decide (l < port + p.lanes)))
      (s.updPort port (fun p => p.goDown 1 (if own = [] then [p.worst port] else own))).portGone (fun l => l == port)
    else s

/-- UCW_TRIP as codewords in a millisecond (R281). -/
def ucwTrip (v : Nat) : Nat := [16, 4, 64, 256].getD v 16

/-- Uncorrectable codewords of a frame: more than UCW_TRIP within 1 ms make the port retrain (R281). -/
def State.ucwCount (s : State) (f : Frame) : State :=
  let s := (s.count (portReg f.port 0x10) f.ucw).updPort f.port (fun p => { p with
    ucw := p.ucw.filter (fun e => decide (s.timebase < e.1 + 1000000)) ++ [(s.timebase, f.ucw)] })
  match s.fabPort? f.port with
  | some p => if ucwTrip (s.regField offFabCfg 7 6) < sumOf (p.ucw.map (·.2)) then s.retrainPort f.port [] else s
  | none => s

/-- A frame that the MAC drops is counted (R279, R281; log 91). -/
def State.macDrop (s : State) (f : Frame) : State :=
  let s := s.fecCount f
  if f.ucw = 0 then { s with fab := { s.fab with macDrops := Tab.set s.fab.macDrops f.port (Tab.get s.fab.macDrops f.port 0 + 1) } }
  else s.ucwCount f

-- ---------------------------------------------------------------- ESTABLISH, slow path, dropped frames

/-- A window of one second or millisecond: its new start and count, and whether the event is within the limit. -/
def windowTake (now len limit : Nat) (w : Nat × Nat) : Bool × (Nat × Nat) :=
  if w.2 = 0 ∨ w.1 + len ≤ now then (true, (now, 1)) else if w.2 < limit then (true, (w.1, w.2 + 1)) else (false, w)

/-- An ESTABLISH frame goes to the Slipcase, within 16,384 a second; the excess is dropped and counted (R21, R283, R384). The
Slipcase takes payloads of 512 bytes (R383). -/
def execReceiveEstablish (f : Frame) (s : State) : Host.Outcome State Fault Refusal :=
  if !s.hears f then ok s
  else match s.classify f with
    | .establish p =>
      let s := s.rxCount f
      let (in_, w) := windowTake s.timebase 1000000000 16384 s.fab.estWin
      let s := { s with fab := { s.fab with estWin := w } }
      if !in_ then ok { s with fab := { s.fab with estDrops := s.fab.estDrops + 1 } }
      else if p.length ≠ 512 then ok s
      else match fld p 0 1 with
        | 1 => ok (s.onHello f.port f.srcAddr.toNat p)
        | 2 => ok (s.onReply p)
        | 3 => ok (s.onFinish p)
        | 4 => ok (s.onReject p)
        | _ => ok s
    | _ => ok s

/-- A slow-path frame goes to Efura with its timestamp, within 32,768 a second for each group (R282, R285). -/
def execReceiveSlowPathFrame (f : Frame) (s : State) : Host.Outcome State Fault Refusal :=
  if !s.hears f then ok s
  else match s.classify f with
    | .slow =>
      let g := f.port / 16
      let s := s.rxCount f
      let (in_, w) := windowTake s.timebase 1000000000 32768 (Tab.get s.fab.slow g (0, 0))
      let s := { s with fab := { s.fab with slow := Tab.set s.fab.slow g w } }
      if in_ then ok (s.slowQueue f) else ok (s.count (groupBase f.port + 0x28) 1)
    | _ => ok s

/-- A counted drop; at most one for each group and millisecond is sampled into the fault log (R284). -/
def State.dropAhnig (s : State) (f : Frame) (off reason : Nat) : State :=
  let g := f.port / 16
  let s := (s.rxCount f).count (groupBase f.port + off) 1
  let due := match Tab.find s.fab.sample g with
    | some t => decide (t + 1000000 ≤ s.timebase)
    | none => true
  if due then
    { s with fab := { s.fab with sample := Tab.set s.fab.sample g s.timebase } }.logFh
      { kind := 0x0502, outcome := 7, resType := 5, resIdx := f.port
        data := leBytes 4 reason ++ leBytes 4 f.port ++ f.raw.take 64 }
  else s

/-- A frame that is dropped and counted (R279, R281–R284). -/
def execReceiveOtherFrame (f : Frame) (s : State) : Host.Outcome State Fault Refusal :=
  if !s.hears f then ok s
  else match s.classify f with
    | .mac => ok (s.macDrop f)
    | .other => ok ((s.rxCount f).count 0x600030 1)
    | .stranger => ok (s.dropAhnig f 0x08 1)
    | .authFail => ok (s.dropAhnig f 0x10 2)
    | .replay => ok (s.dropAhnig f 0x18 3)
    | _ => ok s

-- ---------------------------------------------------------------- PFC (R287)

/-- A PFC frame pauses or resumes a priority, whose waiting frames then go out; while PAUSE is ignored for it nothing
changes. -/
def execReceivePfcFrame (port prio : Nat) (pause : Bool) (s : State) : Host.Outcome State Fault Refusal :=
  if s.running && s.portUp port && decide (prio < 8) && bitAt (s.regField offFabCfg 15 8) prio then
    ok ((s.updPort port (fun p => if bitAt p.ignore prio then p
      else { p with paused := without p.paused (1 <<< prio) ||| (if pause then 1 <<< prio else 0) })).flushPort port)
  else ok s

/-- A priority has stayed paused for 10 ms. -/
def execPfcWatchdogExpiry (port prio : Nat) (s : State) : Host.Outcome State Fault Refusal :=
  match s.fabPort? port with
  | none => ok s
  | some p =>
    if s.running && decide (prio < 8) && bitAt p.paused prio then
      let s := s.updPort port (fun p => { p with paused := without p.paused (1 <<< prio), ignore := p.ignore ||| (1 <<< prio) })
      ok (((s.flushPort port).count (portReg port 0x30) 1).logFh
        { kind := 0x0504, outcome := 7, resType := 5, resIdx := port, data := leBytes 4 port ++ leBytes 4 prio })
    else ok s

/-- The 100 ms in which PAUSE is ignored end. -/
def execPfcIgnoreEnd (port prio : Nat) (s : State) : Host.Outcome State Fault Refusal :=
  if s.running then ok (s.updPort port (fun p => { p with ignore := without p.ignore (1 <<< prio) })) else ok s

-- ---------------------------------------------------------------- sending and timers

/-- The next DATA frame (R294, R296, R302). -/
def execSendData (a : Nat) (s : State) : Host.Outcome State Fault Refusal :=
  if s.running then ok (s.sendData a) else ok s

/-- 2 µs after the first DATA frame not yet acknowledged (R301). -/
def execAckDelayTimer (a : Nat) (s : State) : Host.Outcome State Fault Refusal :=
  match s.assoc? a with
  | some x => if s.running ∧ 0 < x.ackRun then ok (s.sendAck a) else ok s
  | none => ok s

/-- Bytes wait and there is no credit (R296). -/
def execBacklogAckTimer (a : Nat) (s : State) : Host.Outcome State Fault Refusal :=
  match s.assoc? a with
  | some x =>
    if s.running ∧ (x.state = 2 ∨ x.state = 3) ∧ 0 < x.waiting ∧ x.credit ≤ x.sent then ok (s.sendAck a) else ok s
  | none => ok s

/-- MIN_MBS as of the last period, in 2^-16 MB/s (R311). -/
def Assoc.minRate (x : Assoc) : Nat := x.minMbs * 65536

/-- A timeout attributed to a path halves its rate; the third in a row makes it SUSPECT (R294, R295). -/
def State.blamePath (s : State) (a p : Nat) : State :=
  let m := ((s.assoc? a).map (·.minRate)).getD 0
  (s.updPath a p (fun q => { q with rate := max m (q.rate / 2), rtos := q.rtos + 1, suspect := q.suspect || decide (3 ≤ q.rtos + 1) })).rehold a

/-- The timer expires (R302, R303, R306): the oldest PSN, CLOSE or REKEY is sent again and the period doubles; at expiry
RETRY_MAX the association fails, but a CLOSE is given up only after RETRY_MAX retransmissions (R293). RETRY_MAX is that of the
timer's start (R311). -/
def State.retransmit (s : State) (a : Nat) (x : Assoc) : State :=
  let runs := x.rtoRuns + 1
  let exceeds := decide (bits x.timer 39 32 ≤ runs)
  let next := fun (s : State) => (s.updAssoc a (fun y => { y with rtoRuns := runs })).startTimer a
    (min (s.regField offFabTimer 31 16 * 1000) (2 * x.rto))
  match x.flight with
  | t :: _ =>
    let s := s.blamePath a t.path
    if exceeds then s.failAssoc a
    else
      let s := (next s).sendAgainSoon a t.psn
      if x.rekeySent then s.sendSealed a ((s.pickPath x none).getD 0) 5 0 0 0 [] else s
  | [] =>
    if x.state = 3 ∧ x.closing then
      if bits x.timer 39 32 < runs then s.closeDone a else (next s).sendSealed a ((s.pickPath x none).getD 0) 6 0 0 0 [0]
    else if x.rekeySent then
      if exceeds then s.failAssoc a else (next s).sendSealed a ((s.pickPath x none).getD 0) 5 0 0 0 []
    else s

/-- Does the retransmit timer of an association run, and not since this tick only (R16, R302)? -/
def State.timerRuns (s : State) (x : Assoc) : Bool :=
  s.running && x.rtoAt != s.timebase && (x.state == 2 || x.state == 3 || x.state == 5)

/-- The end of a tick in which the retransmit timer ran out: an acknowledgement of the tick has restarted it (R16). -/
def State.retransmitLate (s : State) (a : Nat) : State :=
  match s.assoc? a with
  | some x => if s.timerRuns x then s.retransmit a x else s
  | none => s

/-- RETRANSMIT_TIMEOUT: the timer has run out; an acknowledgement of the same tick cancels the retransmission (R16). -/
def execRetransmitTimeout (a : Nat) (s : State) : Host.Outcome State Fault Refusal :=
  match s.assoc? a with
  | some x => if s.timerRuns x then ok (s.expire (.retransmit a)) else ok s
  | none => ok s

/-- One period of a path (R295): alpha in 2^-32, the rate in 2^-16 MB/s. -/
def Path.period (q : Path) (shift minR ai top : Nat) : Path :=
  let f := if q.rx = 0 then 0 else q.ce * 2 ^ 32 / q.rx
  let alpha := if q.alpha ≤ f then q.alpha + (f - q.alpha) / 2 ^ shift else q.alpha - (q.alpha - f) / 2 ^ shift
  { q with
    alpha := alpha
    rate := if 0 < q.ce ∧ q.rx ≠ 0 then max minR (q.rate - q.rate * alpha / 2 ^ 33) else min top (q.rate + ai)
    rx := 0
    ce := 0 }

def execRateControlPeriod (a : Nat) (s : State) : Host.Outcome State Fault Refusal :=
  if s.running then
    ok (s.updAssoc a (fun x =>
      let x := { x with minMbs := s.regField offFabRc 31 16 }
      { x with paths := x.paths.map (fun q =>
        q.period (s.regField offFabRc 51 48) x.minRate (s.regField offFabRc 47 32 * 65536) (s.portRate q.lane)) }))
  else ok s

/-- A PROBE on a SUSPECT path (R294). -/
def execPathProbeTimer (a path : Nat) (s : State) : Host.Outcome State Fault Refusal :=
  match s.assoc? a with
  | some x =>
    match x.paths[path]? with
    | some q =>
      if s.running ∧ q.suspect ∧ x.state ≠ 1 ∧ x.state ≠ 4 ∧ x.maySend ∧ s.portSends q.lane q.family then
        let s := s.updAssoc a (fun y => { y with probes := (y.probes ++ [(y.txSeq, path, s.timebase)]).drop (y.probes.length - 63) })
        ok (s.sendSealed a path 3 0 0 0 [])
      else ok s
    | none => ok s
  | none => ok s

/-- One second without a usable path (R294, R306). -/
def execAssocNoPathTimeout (a : Nat) (s : State) : Host.Outcome State Fault Refusal :=
  match s.assoc? a with
  | some x => if s.running ∧ (x.state = 3 ∨ x.state = 5) ∧ !x.paths.any s.usable then ok (s.failAssoc a) else ok s
  | none => ok s

/-- One second without a paired answer: the OPEN fails; the exchange of a rekey ends and the rekey stays due (R292, R384). -/
def execAssocOpenTimeout (a : Nat) (s : State) : Host.Outcome State Fault Refusal :=
  match s.assoc? a with
  | some x => if s.running ∧ (x.state = 1 ∨ x.est.isSome) then ok (s.endExchange a 0x5005) else ok s
  | none => ok s

/-- HELLO is sent again while no REPLY has come; a rekey that waited starts (R384, R386). -/
def execEstablishHelloRepeat (a : Nat) (s : State) : Host.Outcome State Fault Refusal :=
  match s.assoc? a with
  | some x =>
    if !s.running ∨ !s.slcUp then ok s
    else match x.est with
      | some e => if e.initiator then ok (s.sendEstAll a x e.hello) else ok s
      | none => ok (s.startRekeys s.assocs.length)
  | none => ok s

/-- A held HELLO is answered with REJECT UNPAIRED (R384). -/
def execUnpairedHelloExpiry (n : Nat) (s : State) : Host.Outcome State Fault Refusal :=
  match s.fab.hellos[n]? with
  | some y =>
    if s.running ∧ s.slcUp then
      ok ({ s with fab := { s.fab with hellos := s.fab.hellos.eraseIdx n } }.reject y.port y.src y.payload 3)
    else ok s
  | none => ok s

/-- An epoch has run for REKEY_HOURS (R386). -/
def execRekeyPolicyTimer (a : Nat) (s : State) : Host.Outcome State Fault Refusal :=
  if s.running && decide (((s.col.domain).map (·.rekeyHours)).getD 0 ≠ 0) then ok (s.startRekey a) else ok s

/-- 20 ms after the first frame of the new epoch the old receive key is erased; a rekey may start again (R304 step 5). -/
def execRekeyKeyEraseTimer (a : Nat) (s : State) : Host.Outcome State Fault Refusal :=
  match s.assoc? a with
  | some x =>
    if s.running ∧ x.erase then
      let s := s.updAssoc a (fun x => { x with rx := x.rx.drop 1, erase := false })
      ok (s.startRekeys s.assocs.length)
    else ok s
  | none => ok s

-- ---------------------------------------------------------------- ports (R277, R280, R281, R308)

/-- Every association follows its paths. -/
def State.reholdAll (s : State) : State := s.assocs.foldl (fun s p => s.rehold p.1) s

/-- A port loses alignment and retrains; `lanes` lost lock. -/
def execPortAlignmentLoss (port : Nat) (lanes : List Nat) (s : State) : Host.Outcome State Fault Refusal :=
  if s.running then ok (s.retrainPort port lanes) else ok s

/-- The end of a retrain: the lanes it is charged to count it; the third within 1 h, or a lane without a working setting,
retires the lane (R308, R472). -/
def State.chargeLanes (s : State) (bad : List Nat) : List Nat → Bool × State
  | [] => (false, s)
  | l :: r =>
    let (n, hit, s) := s.countEvent 5 l 3600000000000 3
    let (any_, s) :=
      if hit || bad.contains l then
        let s := { s with col := { s.col with retLanes := if s.col.retLanes.contains l then s.col.retLanes else s.col.retLanes ++ [l]
                                              optimeSaved := s.col.optime } }
        (true, s.logFh { kind := 0x0501, outcome := 3, resType := 5, resIdx := l, count := n, data := leBytes 4 n })
      else (false, s)
    let (more, s) := State.chargeLanes s bad r
    (any_ || more, s)

def execPortRetrainComplete (port : Nat) (badLanes : List Nat) (s : State) : Host.Outcome State Fault Refusal :=
  match s.fabPort? port with
  | none => ok s
  | some p =>
    if s.running ∧ p.state = 1 then
      let bad := badLanes.filter (fun l => decide (port ≤ l) && decide (l < port + p.lanes))
      let (ret, s) := s.chargeLanes bad (dedup (p.lost ++ bad))
      ok ((s.updPort port (fun p => { p with state := if ret then 4 else 2, lost := [], errs := [] })).reholdAll)
    else ok s

/-- The ports of a group in a mode, in a state unless a lane is retired (R277, R308). -/
def State.groupPorts (s : State) (g mode st : Nat) : Tab FabPort :=
  let n := if mode = 0 then 0 else 2 ^ (mode - 1)
  if n = 0 then []
  else (List.range (16 / n)).map (fun k =>
    let p := 16 * g + n * k
    (p, { state := if s.col.retLanes.any (fun l => decide (p ≤ l) && decide (l < p + n)) then 4 else st, lanes := n }))

/-- A legal write of FAB_GROUP_CFG: every port of the group goes down, the ports of the new MODE train (R277, R311). -/
def State.writeGroup (s : State) (g v : Nat) : State :=
  let s := s.storeReg (offGroupCfg g) v
  let rest := s.fab.ports.filter (fun p => p.1 / 16 != g)
  let new := s.groupPorts g (bits v 2 0) 1
  let ports := new.foldl (fun t p => Tab.set t p.1 p.2) rest
  { s with fab := { s.fab with ports := ports, xoff := Tab.del s.fab.xoff g } }.portGone (fun l => l / 16 == g)

def execFabGroupModeWrite (g : Nat) (value : Word) (s : State) : Host.Outcome State Fault Refusal :=
  let v := value.toNat &&& 0x37
  if s.serving ∧ g < 8 ∧ regLegal (offGroupCfg g) v then
    if s.paused then ok (s.deferWrite (offGroupCfg g) v) else ok (s.writeGroup g v)
  else ok s

/-- Has an association a path on a port (R280)? -/
def State.portInUse (s : State) (p : Nat) : Bool := s.assocs.any (fun x => x.2.paths.any (fun q => q.lane == p))

/-- A write of a port's address register (R280). -/
def execPortAddressWrite (off : Nat) (value : Word) (s : State) : Host.Outcome State Fault Refusal :=
  match portAddrReg off, regInfo off with
  | some (g, k, _), some r =>
    if s.serving && !s.portInUse (16 * g + k) then ok ((s.storeReg off (regMerge r (s.reg off) off 8 value.toNat)).reholdAll)
    else ok s
  | _, _ => ok s

end Sys2Proof.Machine
end

