-- ==== Sys2Proof/Machine/Modes.lean ====
section
/-! DEFINITION. Power, resets and the boot: what a Cold Start clears and keeps, boot slots, device reset and
MAINT_HOLD (R450–R453, R459, R468, R497, R500, R516). -/
namespace Sys2Proof.Machine

-- ---------------------------------------------------------------- what outstanding work gets at a reset (R372, R459)

/-- Can a completion be written to its CQ: it exists, has a free slot, and its ring does not fault (R372)? -/
def State.writable (s : State) (i k : Nat) : Bool :=
  match s.cq? i k with
  | some q => !q.full && (s.hostErr i (q.base + 32 * q.tail) 32).isNone
  | none => false

/-- Posts a completion if it is writable, else writes its error record (R372). -/
def State.postOrLog (s : State) (i : Nat) (h : Held) : State :=
  if s.writable i h.cq then s.writeCqe i h.cq h else s.logLost i h

/-- Held completions are posted in posting order; then every fetched command without a completion receives a status,
in fetch order per SQ (R372 step 3, R459 step 2). -/
def State.abortCmds (s : State) (i st : Nat) : State :=
  match s.inst? i with
  | none => s
  | some x =>
    let s := x.hold.foldl (fun s h => s.postOrLog i h) (s.updInst i (fun x => { x with hold := [], aers := [] }))
    let mine := s.cmds.filter (fun c => c.inst == i && c.phase != .marker)
    let sqs := dedup (mine.map (·.sq))
    let s := sqs.foldl (fun s k =>
      (mine.filter (fun c => c.sq == k)).foldl (fun s c =>
        s.postOrLog i { cq := s.cqOf i k, sq := k, cid := c.cid, status := st, covers := 1, batch := false,
                        result := 0, detail := 0 }) s) s
    { s with cmds := s.cmds.filter (fun c => c.inst != i) }

-- ---------------------------------------------------------------- what a Cold Start keeps (R459, R516)

/-- The cells of host memory and of no other space: they outlive a reset of the device; the staging area is erased
at Cold Start (R461). -/
def hostCells (m : Mem) : Mem := m.filter (fun c => decide ((256 <<< 80) ≤ c.1) && decide (c.1 < (512 <<< 80)))

/-- The state in which a Cold Start begins: every block at its reset values; the Colophon, the log buffer's waiting
records, the pins, the clocks, the timebase and the host stay (R459, R480, R516). -/
def State.coldClear (s : State) : State :=
  { State.reset with
    pending := s.pending, freeCtr := s.freeCtr, msixCtl := s.msixCtl, link := s.link, outbox := s.outbox, powerGood := s.powerGood, stopped := s.stopped
    timebase := s.timebase, ppsStamp := s.ppsStamp, clkLost := s.clkLost, hostErrs := s.hostErrs, cmdNo := s.cmdNo
    pins := { s.pins with cxlPerstN := [false, false], alertN := true, ppsOut := false }
    mem := hostCells s.mem
    log := { err := s.log.err, fh := s.log.fh }
    col := { s.col with staged := [], mapPorts := [] }
    dev := { modeSince := s.timebase } }

/-- A reset that keeps power ends every attempt, with the retirements that wait for it (R127), and saves the persisted
fields written and not yet saved (log 11). -/
def State.resetTo (s : State) : State := ((s.eng.map (·.1)).foldl State.retireNow s).saveSettings.coldClear

-- ---------------------------------------------------------------- boot (R451, R452)

/-- The order in which Cold Start tries the slots: NEXT_SLOT, the other writable slot, the golden slot (R452). -/
def bootOrder (next : Nat) : List Nat :=
  dedup ([next] ++ (if next = 2 then [1] else if next = 1 then [2] else [1, 2]) ++ [0])

/-- Does a slot fail verification: named so by the command, empty, or its image rejected (R452, R464)? -/
def State.slotBad (s : State) (bad : List (Nat × Nat)) (k : Nat) : Option Nat :=
  match bad.find? (fun p => p.1 == k) with
  | some p => some p.2
  | none => match s.col.slots[k]? with
    | some x => if x.filled && !x.rejected then none else some 0
    | none => some 0

/-- Tries slots in order: each that fails is recorded; the first that passes boots; with none left Cold Start stops
(R452). Component 0 is the Slipcase's (step 3), 1 is Efura's (step 4). -/
def State.trySlots (s : State) (bad : List (Nat × Nat)) : List Nat → Nat → State
  | [], step => { s with dev := { s.dev with coldStep := step, coldFail := step, booted := false } }
  | k :: r, _ =>
    match s.slotBad bad k with
    | none =>
      { s with dev := { s.dev with coldStep := 4, coldFail := 0, booted := true, activeSlot := k }
               slc := { s.slc with state := 1, activeSvn := ((s.col.slots[k]?).map (·.svn)).getD 0 } }
    | some comp =>
      let s := s.logFh { kind := 0x0A02, outcome := 7, resType := 0x0D, resIdx := k,
                         data := leBytes 4 k ++ leBytes 4 comp }
      let s := { s with dev := { s.dev with tried := s.dev.tried ++ [k] } }
      State.trySlots s bad r (if comp = 0 then 3 else 4)

/-- The record of a request that the Slipcase's hold on a pin or block turns away (R379, R380, R484; log 94). -/
def State.gatingDenied (s : State) (what : Nat) : State :=
  s.logFh { kind := 0x0602, status := 0x5002, outcome := 6, mech := 11, resType := 9, resIdx := 0, data := leBytes 4 what }

/-- Cold Start from its first step: the boot is counted; FACTORY when FACTORY_EN is high on a part without the
production lock, with which the pin is ignored and that is recorded (R397, R450; log 94); else the boot slots are tried (R451, R452, R488). -/
def State.coldStart (s : State) (bad : List (Nat × Nat)) : State :=
  let s := { s with col := { s.col with boots := s.col.boots + 1 } }
  let s := { s with dev := { s.dev with restart := false, coldStep := 3 } }
  let s := if s.pins.factoryEn && s.col.prodLock then s.gatingDenied 12 else s
  if s.pins.factoryEn && !s.col.prodLock then { s with dev := { s.dev with factory := true, cold := false } }
  else s.trySlots bad (bootOrder s.col.nextSlot) 3

/-- Commands outstanding for each instance, four bits each, saturating (R484 RESET_LOST; instance i at bits
[4i+3:4i], log 24). -/
def State.lostCounts (s : State) : Bytes :=
  leBytes 64 ((List.range 128).foldl (fun n i =>
    n + min 15 (s.cmds.filter (fun c => c.inst == i && c.open_)).length * 16 ^ i) 0)

/-- The RESET_LOST record of PERST_N and hot reset (R459). -/
def State.logResetLost (s : State) : State :=
  s.logFh { kind := 0x0A03, outcome := 2, resType := 0, resIdx := 0, data := s.lostCounts }

-- ---------------------------------------------------------------- the commands

/-- Power-good rises: the timebase starts at zero and Cold Start begins (R18, R497, R500). -/
def execPowerGoodRise (badSlots : List (Nat × Nat)) (s : State) : Host.Outcome State Fault Refusal :=
  if s.powerGood then ok s
  else
    let s := { s with powerGood := true, timebase := 0, stopped := false,
                      col := { s.col with optime := s.col.optimeSaved } }
    ok ((s.coldClear).coldStart badSlots)

/-- Power-good falls: every block stops, work in flight and unsaved settings are lost, and the outputs take their
state for before power-good; the THERMTRIP_N latch is kept (R500, R503). -/
def execPowerGoodFall (s : State) : Host.Outcome State Fault Refusal :=
  if !s.powerGood then ok s
  else
    let c := s.coldClear
    ok { c with
      powerGood := false
      msixCtl := []
      link := none
      stopped := false
      log := {}
      col := { c.col with dirty := [], featDirty := [] }
      pins := { c.pins with thermAlertN := true, gpio := 0 }
      dev := {} }

/-- The host link goes down, and configuration space is reset with it (R312, R459). -/
def State.linkReset (s : State) : State := { s with msixCtl := [], link := none }

/-- PERST_N is asserted: as a device reset without completions, with one RESET_LOST record (R459); ignored without
power (R500); in FACTORY only the link retrains (R450). -/
def execPerstNAssert (s : State) : Host.Outcome State Fault Refusal :=
  let s := { s with pins := { s.pins with perstN := false } }
  if !s.running || s.dev.factory then ok s.linkReset
  else
    let s := (s.logResetLost).resetTo.linkReset
    ok { s with dev := { s.dev with restart := true } }

/-- PERST_N is deasserted: Cold Start starts again (R451); without power it takes effect when power-good rises (R500). -/
def execPerstNDeassert (badSlots : List (Nat × Nat)) (s : State) : Host.Outcome State Fault Refusal :=
  if s.pins.perstN then ok s
  else
    let s := { s with pins := { s.pins with perstN := true } }
    if !s.running || s.dev.factory then ok s
    else ok ((s.resetTo).coldStart badSlots)

/-- A hot reset: as PERST_N, with Cold Start at once (R450, R459). -/
def State.hotReset (s : State) (badSlots : List (Nat × Nat)) : State :=
  if !s.running then s
  else if s.dev.factory then s.linkReset
  else ((s.logResetLost).resetTo).linkReset.coldStart badSlots

def execHotReset (badSlots : List (Nat × Nat)) (s : State) : Host.Outcome State Fault Refusal := ok (s.hotReset badSlots)

/-- Efura firmware of the booted slot did not report itself started: the next slot is tried (R452). -/
def execEfuraStartTimeout (s : State) : Host.Outcome State Fault Refusal :=
  if s.running && s.dev.cold && s.dev.booted && !s.dev.restart && s.dev.coldFail == 0 then
    let k := s.dev.activeSlot
    let left := (bootOrder s.col.nextSlot).filter (fun j => j != k && !s.dev.tried.contains j)
    let s := s.logFh { kind := 0x0A02, outcome := 7, resType := 0x0D, resIdx := k, data := leBytes 4 k ++ leBytes 4 1 }
    let s := { s with dev := { s.dev with tried := s.dev.tried ++ [k], booted := false } }
    ok (s.trySlots [] left 4)
  else ok s

/-- A device reset: fetching stops, outstanding commands receive 0x6004, and Cold Start runs from step 3 with the
host link up (R459). -/
def State.deviceReset (s : State) (badSlots : List (Nat × Nat)) : State :=
  let is := s.insts.map (·.1)
  let s := is.foldl (fun s i => s.abortCmds i 0x6004) s
  let hdm := s.hdm
  ({ s.resetTo with hdm := hdm }).coldStart badSlots

/-- Starts or ends the MANAGER holder, at once or after step 7 of a running placement pause (R455, R515). -/
def State.applyHold (s : State) (v : Nat) : State :=
  let on := bitAt v 0
  let s := { s with dev := { s.dev with maintHold := on } }
  if (s.dev.act.map (·.paused)).getD false then
    { s with dev := { s.dev with deferred := s.dev.deferred.filter (fun d => d.off != offModeCtrl)
                                              ++ [{ off := offModeCtrl, value := b2n on }] } }
  else s.holder 3 on

/-- A write of DEV_MODE_CTRL (R459, R465, R467, R468): the reset needs DEV_RESET with KEY 0xD1E5 and has no effect in
COLD_START or FACTORY; during the placement pause it waits for step 7. -/
def State.writeModeCtrl (s : State) (v : Nat) (badSlots : List (Nat × Nat)) : State :=
  if !s.running then s
  else
    let s := s.applyHold v
    if bitAt v 1 && bits v 31 16 == 0xD1E5 && !s.dev.cold && !s.dev.factory then
      if (s.dev.act.map (·.paused)).getD false then { s with dev := { s.dev with resetDue := some v } }
      else s.deviceReset badSlots
    else s

def execDeviceReset (value : Word) (badSlots : List (Nat × Nat)) (s : State) : Host.Outcome State Fault Refusal :=
  ok (s.writeModeCtrl value.toNat badSlots)

/-- A write that changes only MAINT_HOLD (R468). -/
def execMaintHoldWrite (value : Word) (s : State) : Host.Outcome State Fault Refusal :=
  if s.running then ok (s.applyHold value.toNat) else ok s

end Sys2Proof.Machine
end

