-- ==== Sys2Proof/Machine/FolioRows.lean ====
section
/-! DEFINITION. Load Folio, Submit Folio and Cancel Folio (R25, R34, R35, R51, R220, R337). -/
namespace Sys2Proof.Machine

-- ---------------------------------------------------------------- Load Folio (R34, R220)

def folioKey (i slot : Nat) : Nat := i * 256 + slot

/-- Takes `n` pinned frames for a folio image; `none` while one is missing. -/
def State.takeFolioFrames (s : State) (i : Nat) : Nat → List Nat → Option (List Nat × State)
  | 0, acc => some (acc, s)
  | n + 1, acc =>
    match s.pickUnit none none with
    | none => none
    | some u =>
      match s.takeFrame i u 2 1 with
      | none => none
      | some (f, s) => State.takeFolioFrames s i n (acc ++ [f])

/-- A checked image takes its frames and its slot; the frames of the image it replaces are released. It fails with
0x2002 beyond the quota that other images leave, or when the sweep finds no room (R220). -/
def State.storeFolio (s : State) (c : Cmd) (b : Bytes) : State :=
  let i := c.inst
  let k := folioKey i (c.fld 0x18 1)
  let n := ceilDiv b.length mib2
  let old := ((Tab.find s.folios k).map (·.frames)).getD []
  let held := ((s.folios.filter (fun p => decide (p.1 / 256 = i) && p.1 != k)).map (fun p => p.2.frames.length)).foldl (· + ·) 0
  let quota := ((s.inst? i).map (fun x => x.alloc.t0)).getD 0
  let w := Waiter.cmd c.no
  if quota < n + held ∨ (s.pager.noRoom.any (fun p => p.1 == w)) then (s.forget w).finish c.no 0x2002 0 0
  else
    let s' := old.foldl (fun s f => s.releaseFrame f) s
    match (if s'.mayTake w i n then s'.takeFolioFrames i n [] else none) with
    | some (fs, s') => ({ s' with folios := Tab.set s'.folios k { image := b, frames := fs } }.forget w).finish c.no 0 0 0
    | none => if n ≤ old.length then s else s.wantFrames w i (n - old.length)

/-- Is a slot in use by a run, or by an earlier Submit Folio that is still being checked? -/
def State.slotBusy (s : State) (c : Cmd) : Bool :=
  let slot := c.fld 0x18 1
  s.runs.any (fun p => p.2.inst == c.inst && p.2.slot == slot)
  || s.cmds.any (fun y => y.inst == c.inst && y.op == 0x41 && y.phase == .running && decide (y.no < c.no)
      && y.fld 0x18 1 == slot)

/-- LOAD_FOLIO: refused in CONTAINMENT; waits for runs of the slot; an invalid image is not stored (R34). -/
def execLoadFolio (i sq cid : Nat) (s : State) : Host.Outcome State Fault Refusal :=
  match s.openCmd i sq cid 0x40 with
  | none => ok s
  | some c =>
    let s := s.start c.no
    if c.phase == .fetched && s.dev.contained then ok (s.finish c.no 0x100A 0 0)
    else if s.slotBusy c then ok s
    else if c.dataLen < 256 ∨ 67108864 < c.dataLen then ok (s.finish c.no 0x1005 0 0)
    else match s.bufRead c c.dataAddr c.dataLen with
      | .wait s => ok s
      | .fail st a s => ok ((s.forget (.cmd c.no)).finishAt c.no st 0 0 a)
      | .ok b s => if folioOk b then ok (s.storeFolio c b) else ok (s.finish c.no 0x1005 0 0)

-- ---------------------------------------------------------------- Submit Folio (R35, R168, R169, R175)

/-- Do an instance's ranges map every byte of a span, with the write right if asked? -/
def State.mapped (s : State) (i va len : Nat) (write : Bool) : Nat → Bool
  | 0 => false
  | n + 1 =>
    match s.range? i va with
    | none => false
    | some r =>
      (!write || r.write) && (decide (va + len ≤ r.base + r.len)
        || State.mapped s i (r.base + r.len) (va + len - (r.base + r.len)) write n)

def State.spanMapped (s : State) (i va len : Nat) (write : Bool) : Bool :=
  len == 0 || s.mapped i va len write (s.pager.ranges.length + 1)

/-- Is an association open to an instance (R293)? HELD is an association in service whose transmission is stopped. -/
def State.assocOpen (s : State) (i a : Nat) : Bool :=
  match Tab.find s.assocs a with
  | some x => x.inst == i && (x.state == 2 || x.state == 5)
  | none => false

/-- Is an association group open to an instance: it has associations, and none of them is closed to it? -/
def State.groupOpen (s : State) (i g : Nat) : Bool :=
  let l := s.assocs.filter (fun p => p.2.inst == i && p.2.group == g)
  l != [] && l.all (fun p => s.assocOpen i p.1)

/-- Does an instance own a Thumb bank in some array? -/
def State.ownsBank (s : State) (i b : Nat) : Bool :=
  (List.range 16).any (fun q => (Tab.find s.banks (q * 64 + b)).any (fun k => k.owner == i))

/-- The checks of a signature that need no read of the instance's memory (R35, R168, R175). -/
def State.submitOk (s : State) (i : Nat) (b : Bytes) (k : Nat) : Bool :=
  let g := sigInfo b k
  s.groups.any (fun p => p.2.inst == i && p.2.local_ == g.group)
  && (match g.source with
      | 1 => s.spanMapped i g.so (64 * g.se) false
      | 3 => s.spanMapped i g.so (32 * g.se) false
      | 4 => Tab.has s.inboxes (boxKey i (g.so % 65536))
      | _ => true)
  && (match g.sink with
      | 1 =>
        let m := sigMap b g
        m.assocs.all (s.assocOpen i) && (m.base == 0 || s.spanMapped i m.base m.bytes true)
      | 2 => s.groupOpen i g.ko
      | 5 => (maskBanks g.ke).all (s.ownsBank i)
             && (g.ko == 0xFFFF || (thumbRecs (section_ b g.ko)).all (fun r => decide (r.slot < 1024 * popcount 64 g.ke)))
      | _ => true)

/-- The rows of a page group, and the bytes of the bodies that the Trimmer reads (R38). -/
def groupRows (ds : List Bytes) : Nat := fld (ds.headD []) 8 4
def groupBytes (b : Bytes) (g : SigInfo) (ds : List Bytes) : Nat :=
  let p := section_ b g.trim
  (ds.zipIdx.map (fun d => if tpUnread p d.2 (fld d.1 3 1) then 0 else fld d.1 0xC 4)).foldl (· + ·) 0

/-- Does a page group fit its signature's leaf: its rows, and the bodies of the streams that the Trimmer reads (R35,
R38)? -/
def groupFitsLeaf (b : Bytes) (g : SigInfo) (ds : List Bytes) : Bool :=
  decide (groupRows ds ≤ g.rows) && decide (groupBytes b g ds ≤ g.bytes)

/-- Reads the page groups of a scan from the one where the check stands, which is kept in the command. -/
def State.checkGroups (s : State) (c : Cmd) (b : Bytes) (g : SigInfo) (w : Nat) : Nat → Nat → Acc Bool
  | 0, _ => .ok true s
  | n + 1, k =>
    let cnt := min w (g.se - k * w)
    match s.devRead (.cmd c.no) c.inst (g.so + 64 * (k * w)) (64 * cnt) with
    | .wait s => .wait (s.updCmd c.no (fun c => { c with sub := k }))
    | .fail st a s => .fail st a s
    | .ok d s =>
      if groupFitsLeaf b g (Machine.groups 64 cnt d) then State.checkGroups s c b g w n (k + 1) else .ok false s

/-- A run table is well formed (R169). -/
def runTableOk (d : Bytes) : Bool :=
  let es := groups 32 (d.length / 32) d
  let kb := fld (es.headD []) 0x10 1
  (kb == 4 || kb == 8 || kb == 16) && es.all (fun e => fld e 0x10 1 == kb && zeroAt e 0x11 15)

/-- The check of one signature that reads its source (R35, R169). -/
def State.checkSource (s : State) (c : Cmd) (b : Bytes) (g : SigInfo) : Acc Bool :=
  match g.source with
  | 1 =>
    let w := tpStreams (section_ b g.trim)
    s.checkGroups c b g w (ceilDiv g.se w - c.sub) c.sub
  | 3 =>
    match s.devRead (.cmd c.no) c.inst g.so (32 * g.se) with
    | .ok d s => .ok (runTableOk d) s
    | .wait s => .wait s
    | .fail st a s => .fail st a s
  | _ => .ok true s

/-- The checks that read memory, signature by signature; the command keeps its place while a page is restored. -/
def State.checkSources (s : State) (c : Cmd) (b : Bytes) : Nat → Acc Bool
  | 0 => .ok true s
  | n + 1 =>
    match s.checkSource c b (sigInfo b c.prog) with
    | .ok true s =>
      let c := { c with prog := c.prog + 1, sub := 0 }
      State.checkSources (s.updCmd c.no (fun x => { x with prog := c.prog, sub := 0 })) c b n
    | a => a

/-- The shortest report buffer (R53). -/
def reportMin (b : Bytes) : Nat := 64 + 32 * foDecs b + 32 * foSigs b

/-- A run begins: it takes the instance's next submission sequence number, and its signatures settle (R36, R39). -/
def State.beginRun (s : State) (c : Cmd) (b : Bytes) : State :=
  let sub := ((s.inst? c.inst).map (·.subs)).getD 0
  let s := (s.forget (.cmd c.no)).updInst c.inst (fun x => { x with subs := (x.subs + 1) % 131072 })
  let r : Run := { inst := c.inst, sub := sub, slot := c.fld 0x18 1, image := b, cmd := c.no,
                   sigs := List.replicate (foSigs b) {} }
  { s with runs := Tab.set s.runs (runKey c.inst sub) r }.settle (runKey c.inst sub)

/-- Does a Submit Folio wait for an earlier Load Folio of its slot (R322)? -/
def State.loadAhead (s : State) (c : Cmd) : Bool :=
  s.cmds.any (fun y => y.inst == c.inst && y.op == 0x40 && y.open_ && decide (y.no < c.no)
    && y.fld 0x18 1 == c.fld 0x18 1)

/-- SUBMIT_FOLIO: refused in CONTAINMENT; waits for earlier loads of its slot; the checks of R35 precede the run, which
the command's completion ends (R53). -/
def execSubmitFolio (i sq cid : Nat) (s : State) : Host.Outcome State Fault Refusal :=
  match s.openCmd i sq cid 0x41 with
  | none => ok s
  | some c =>
    if s.runs.any (fun p => p.2.cmd == c.no) then ok s
    else
      let s := s.start c.no
      if c.phase == .fetched && s.dev.contained then ok (s.finish c.no 0x100A 0 0)
      else if s.loadAhead c then ok s
      else match Tab.find s.folios (folioKey i (c.fld 0x18 1)) with
        | none => ok (s.finish c.no 0x1002 0 0)
        | some f =>
          let b := f.image
          if c.dataLen < reportMin b ∨ !(List.range (foSigs b)).all (s.submitOk i b) then ok (s.finish c.no 0x1002 0 0)
          else match s.checkSources c b (foSigs b - c.prog) with
            | .wait s => ok s
            | .fail st a s =>
              ok ((s.forget (.cmd c.no)).finishAt c.no (if st = 0x1006 then 0x1002 else st) 0 0 a)
            | .ok good s => if good then ok (s.beginRun c b) else ok ((s.forget (.cmd c.no)).finish c.no 0x1002 0 0)

-- ---------------------------------------------------------------- Cancel Folio (R51)

/-- CANCEL_FOLIO: the target run stops and ends with 0x6002; a Submit Folio whose run has not begun ends at once. -/
def execCancelFolio (i sq cid : Nat) (s : State) : Host.Outcome State Fault Refusal :=
  match s.takeCmd i sq cid 0x42 with
  | none => ok s
  | some c =>
    let s := s.start c.no
    let target := s.cmds.find? (fun y => y.inst == i && y.sq == c.fld 0x18 2 && y.cid == c.fld 0x1A 2 && y.op == 0x41
      && y.phase == .running)
    match target with
    | none => ok (s.finish c.no 0x1002 0 0)
    | some t =>
      match s.runs.find? (fun p => p.2.cmd == t.no) with
      | none => ok (((s.forget (.cmd t.no)).finish t.no 0x6002 0 0).finish c.no 0 0 0)
      | some (k, r) =>
        if r.finish.isSome then ok (s.finish c.no 0x1002 0 0)
        else
          let s := ((s.updRun k (fun r => { r with cancelled := true })).stopRun k 0).settle k
          ok (s.finish c.no 0 0 0)

end Sys2Proof.Machine
end

