-- ==== Sys2Proof/Machine/PressUnit.lean ====
section
/-! DEFINITION. The Press: commands, streams, dictionaries, and the jobs of its 32 units (R237–R247). -/
namespace Sys2Proof.Machine

/-- PF BAR0 offset of a register of Press unit `u` (R249). -/
def prsReg (u r : Nat) : Nat := 0xC00100 + 0x20 * u + r

/-- A Press command with an operation that may start. -/
def State.takePress (s : State) (i sq cid op : Nat) : Option Cmd :=
  (s.takeCmd i sq cid 0x49).bind (fun c => if c.fld 0x18 1 = op then some c else none)

/-- The fields of a Press command (R337). -/
def Cmd.prsFmt (c : Cmd) : Nat := c.fld 0x19 1
def Cmd.prsFirst (c : Cmd) : Bool := bitAt (c.fld 0x1B 1) 0
def Cmd.prsLast (c : Cmd) : Bool := bitAt (c.fld 0x1B 1) 1
def Cmd.prsSingle (c : Cmd) : Bool := c.prsFirst && c.prsLast
def Cmd.prsCtx (c : Cmd) : Nat := c.fld 0x30 8
/-- The window of a ZSTD compress job: 1 MiB unless named (R238). -/
def Cmd.prsWindow (c : Cmd) : Nat := if c.fld 0x1D 1 = 0 then 20 else c.fld 0x1D 1

/-- The block size that a compress job's length must keep (R240). -/
def Cmd.prsBlock (c : Cmd) : Nat :=
  match c.prsFmt with
  | 2 => 2 ^ c.fld 0x1C 1
  | 3 => 131072
  | 7 => 65536
  | _ => 1

/-- Are the fields of a compress job ones that the Press accepts (R237, R238, R240)? -/
def Cmd.compressLegal (c : Cmd) (s : State) : Bool :=
  let l := c.fld 0x1C 1
  let dict := c.fld 0x38 4
  [1, 2, 3, 7].contains c.prsFmt
  && (c.prsFmt != 1 || (c.prsSingle && decide (c.fld 0x28 4 ≤ 4194304)))
  && (c.prsFmt != 2 || [16, 18, 20, 22].contains l)
  && (c.prsFmt != 3 || (decide (1 ≤ c.fld 0x1A 1) && decide (c.fld 0x1A 1 ≤ 3) && decide (10 ≤ c.prsWindow)
      && decide (c.prsWindow ≤ 23) && (dict == 0 || Tab.has s.press.dicts (c.inst * 2 ^ 32 + dict))))
  && (c.prsLast || c.fld 0x28 4 % c.prsBlock == 0)

/-- As `compressLegal`, for a decompress job; an LZ4_BLOCK job declares at most 4 MiB of output (R238). -/
def Cmd.decompressLegal (c : Cmd) : Bool :=
  decide (1 ≤ c.prsFmt) && decide (c.prsFmt ≤ 7) && (c.prsFmt != 1 || (c.prsSingle && decide (c.fld 0x2C 4 ≤ 4194304)))

/-- Queues a Press job; with every unit retired it fails with 0x4002 (R247, R474). -/
def State.queuePress (s : State) (c : Cmd) (legal : Bool) : State :=
  if !legal then s.finish c.no 0x1002 0 0
  else if 32 ≤ s.col.retPress.length then s.finish c.no 0x4002 0 0
  else
    let s := s.start c.no
    { s with press := { s.press with
        waiting := s.press.waiting ++ [{ cmd := some c.no, inst := c.inst, fmt := c.prsFmt }] } }

def execPressCompress (i sq cid : Nat) (s : State) : Host.Outcome State Fault Refusal :=
  match s.takePress i sq cid 0 with
  | none => ok s
  | some c => ok (s.queuePress c (c.compressLegal s))

def execPressDecompress (i sq cid : Nat) (s : State) : Host.Outcome State Fault Refusal :=
  match s.takePress i sq cid 1 with
  | none => ok s
  | some c => ok (s.queuePress c c.decompressLegal)

/-- Registers or replaces a dictionary: at most 256 of at most 1 MiB (R239). -/
def execPressRegisterDictionary (i sq cid : Nat) (s : State) : Host.Outcome State Fault Refusal :=
  match s.takePress i sq cid 2 with
  | none => ok s
  | some c =>
    let len := c.fld 0x28 4
    let addr := c.fld 0x20 8
    let key := i * 2 ^ 32 + c.fld 0x38 4
    let mine := (s.press.dicts.filter (fun p => p.1 / 2 ^ 32 == i)).length
    if c.prsFmt ≠ 3 ∨ 1048576 < len then ok (s.finish c.no 0x1002 0 0)
    else if !Tab.has s.press.dicts key && decide (256 ≤ mine) then ok (s.finish c.no 0x2002 0 0)
    else match s.devCheck (.cmd c.no) i addr len false with
      | .wait s => ok s
      | .fail st a s => ok (s.finishAt c.no st 0 0 a)
      | .ok _ s =>
        ok ({ s with press := { s.press with dicts := Tab.set s.press.dicts key (addr, len) } }.finish c.no 0 0 0)

/-- Takes the first element of a list that satisfies `p`; answers it and the rest. -/
def takeFirst {α : Type} (p : α → Bool) : List α → Option (α × List α)
  | [] => none
  | x :: r => if p x then some (x, r) else (takeFirst p r).map (fun q => (q.1, x :: q.2))

/-- The lowest free unit (log 15). -/
def State.freeUnit (s : State) : Option Nat :=
  (List.range 32).find? (fun u => !Tab.has s.press.units u && !s.col.retPress.contains u)

/-- The waiting job that a free unit takes: Pager jobs first, up to PAGER_MAX units, then one command job per instance
per turn, round robin (R247). Answers the job, the jobs left and the turn. -/
def State.nextJob (s : State) : Option (PressJob × List PressJob × Nat) :=
  let held := (s.press.units.filter (fun u => u.2.page.isSome)).length
  let pager := if held < s.regField offPrsCfg 5 0 then takeFirst (fun j => j.page.isSome) s.press.waiting else none
  match pager with
  | some (j, r) => some (j, r, s.press.rr)
  | none =>
    let insts := sortBy (fun a b => decide (a ≤ b))
      (dedup ((s.press.waiting.filter (fun j => j.cmd.isSome)).map (·.inst)))
    let turn := match insts.find? (fun i => decide (s.press.rr < i)) with
      | some i => some i
      | none => insts.head?
    match turn with
    | none => none
    | some i => (takeFirst (fun j => j.cmd.isSome && j.inst == i) s.press.waiting).map (fun q => (q.1, q.2, i))

/-- The dictionaries that an instance has registered: Dictionary_ID, address and length. -/
def State.dictsOf (s : State) (i : Nat) : List (Nat × Nat × Nat) :=
  (s.press.dicts.filter (fun p => p.1 / 2 ^ 32 == i)).map (fun p => (p.1 % 2 ^ 32, p.2.1, p.2.2))

/-- A free unit takes a waiting job, which keeps the dictionaries registered now (R239, R247). -/
def execPressJobStart (s : State) : Host.Outcome State Fault Refusal :=
  if !s.running || s.paused then ok s
  else match s.freeUnit, s.nextJob with
    | some u, some (j, rest, rr) =>
      let j := { j with dicts := s.dictsOf j.inst }
      ok { s with press := { s.press with waiting := rest, rr := rr, units := Tab.set s.press.units u j } }
    | _, _ => ok s

/-- Reads a dictionary of a job's instance, as registered when the job started; an unregistered one has no bytes (R239). -/
def State.dictRead (s : State) (c : Cmd) (j : PressJob) (id : Nat) : Acc Bytes :=
  match j.dicts.find? (fun p => p.1 == id) with
  | some (_, a, n) => s.devRead (.cmd c.no) c.inst a n
  | none => .ok [] s

/-- Decodes a stream; a dictionary is read when a frame that names it is met (R239). -/
def State.decode (s : State) (c : Cmd) (j : PressJob) (st : Stream) (input : Bytes) : Nat → Tab Bytes → Acc DecOut
  | 0, _ => .ok { status := 0x1002, dec := { st := st, left := input } } s
  | n + 1, dicts =>
    let r := Dec.run dicts c.prsLast (8 * input.length + 4) { st := st, left := input }
    let id := r.dec.wants
    if r.status = 0x1002 ∧ id ≠ 0 ∧ !Tab.has dicts id ∧ j.dicts.any (fun p => p.1 == id) then
      match s.dictRead c j id with
      | .ok b s => State.decode s c j st input n (Tab.set dicts id b)
      | .wait s => .wait s
      | .fail e a s => .fail e a s
    else .ok r s

/-- Bytes of a stream context: 4 KiB and the format's window, a ZSTD stream's own (R240). -/
def ctxLen (c : Cmd) (st : Stream) : Nat :=
  4096 + (match c.prsFmt with
    | 2 => 65536
    | 3 => if c.fld 0x18 1 = 0 then 2 ^ c.prsWindow else st.win
    | 4 => 32768
    | 5 => 32768
    | 6 => 32768
    | _ => 0)

/-- Saves a stream's state; the context's bytes are the E256's own (R240; log 28). -/
def State.saveStream (s : State) (c : Cmd) (st : Stream) : State :=
  if c.prsSingle then s
  else
    let (b, s) := s.freshBytes (ctxLen c st)
    let s := s.writePieces c.inst (piecesOf c.prsCtx (ctxLen c st)) b
    { s with press := { s.press with
        streams := s.press.streams.filter (fun x => !(x.inst == c.inst && x.addr == c.prsCtx))
          ++ [{ inst := c.inst, addr := c.prsCtx, st := st }] } }

/-- Frees a unit: the bytes that its job took in and gave out, and its failure, are counted (R249). -/
def State.freeUnitOf (s : State) (u inB outB : Nat) (failed : Bool) : State :=
  let s := { s with press := { s.press with units := Tab.del s.press.units u } }
  ((s.count (prsReg u 8) inB).count (prsReg u 0x10) outB).count (prsReg u 0x18) (b2n failed)

/-- With every unit retired the waiting commands fail with 0x4002 (R474). -/
def State.failWaitingPress (s : State) : State :=
  let lost := s.press.waiting.filterMap (·.cmd)
  let s : State := { s with press := { s.press with waiting := s.press.waiting.filter (fun j => j.cmd.isNone) } }
  lost.foldl (fun s no => s.finish no 0x4002 0 0) s

/-- Retires a Press unit (R472, R474). -/
def State.retirePress (s : State) (u n : Nat) : State :=
  let s : State := { s with col := { s.col with retPress := s.col.retPress ++ [u], optimeSaved := s.col.optime } }
  let s := s.logFh { kind := 0x0702, outcome := 3, resType := 7, resIdx := u, count := n, data := leBytes 4 u }
  if decide (32 ≤ s.col.retPress.length) then s.failWaitingPress else s

/-- A fault of a Press unit is counted, and the unit retired at the threshold (R472). -/
def State.pressCount (s : State) (u : Nat) : State :=
  let (win, lim) := s.threshold 2
  let (n, hit, s) := s.countEvent 7 u win lim
  if hit then s.retirePress u n else s

/-- A self-check that fails is recorded and counts against its unit (R241, R472). -/
def State.pressFault (s : State) (u fmt inst : Nat) : State :=
  (s.logFh { kind := 0x0701, status := 0x3004, outcome := 2, inst := inst, resType := 7, resIdx := u,
             data := leBytes 4 fmt }).pressCount u

/-- A job fails after it took in `inB` bytes and gave out `outB`: its output is undefined beyond its verified bytes (R242,
R244). -/
def State.pressFail (s : State) (c : Cmd) (u st inB outB : Nat) (verified : Bytes) (produced0 : Bool) : State :=
  let (junk, s) := s.freshBytes (c.dataLen - verified.length)
  match s.bufWrite c c.dataAddr ((verified ++ junk).take c.dataLen) with
  | .wait s => s
  | .fail st' a s => (s.freeUnitOf u inB outB true).finishAt c.no st' 0 0 a
  | .ok _ s =>
    let (r, s) := s.fresh
    let result := if produced0 then r.toNat % 2 ^ 32 else r.toNat
    let (d, s) := s.fresh
    let detail := if produced0 then d.toNat % 2 ^ 32 else verified.length
    (s.freeUnitOf u inB outB true).finish c.no st result detail

/-- Writes a job's output and its stream state, and ends it. -/
def State.pressDone (s : State) (c : Cmd) (u : Nat) (out : Bytes) (consumed ver : Nat) (st : Stream) : State :=
  if c.dataLen < out.length then s.pressFail c u 0x2001 consumed c.dataLen [] true
  else match (if c.prsSingle then .ok () s else s.devCheck (.cmd c.no) c.inst c.prsCtx (ctxLen c st) true : Acc Unit) with
    | .wait s => s
    | .fail e a s => (s.freeUnitOf u consumed out.length true).finishAt c.no e 0 0 a
    | .ok _ s =>
      match s.bufWrite c c.dataAddr out with
      | .wait s => s
      | .fail e a s => (s.freeUnitOf u consumed out.length true).finishAt c.no e 0 0 a
      | .ok _ s =>
        ((s.saveStream c st).freeUnitOf u consumed out.length false).finish c.no 0
          (consumed % 2 ^ 32 + out.length % 2 ^ 32 * 2 ^ 32) (ver % 2 ^ 32)

/-- The end of a compress job whose input has been read (R238, R241). -/
def State.runCompress (s : State) (c : Cmd) (j : PressJob) (u : Nat) (st : Stream) (input : Bytes) : State :=
  match s.dictRead c j (if c.prsFmt = 3 then c.fld 0x38 4 else 0) with
  | .wait s => s
  | .fail e a s => (s.freeUnitOf u input.length 0 true).finishAt c.no e 0 0 a
  | .ok dict s =>
    let r := match c.prsFmt with
      | 1 => compLz4Block input
      | 2 => compLz4Frame st (c.fld 0x1C 1) c.prsFirst c.prsLast input
      | 3 => compZstd st (c.fld 0x1A 1) c.prsWindow (c.fld 0x38 4) dict c.prsFirst c.prsLast input
      | _ => compNpb st c.prsLast input
    if !r.ok then (s.pressFault u c.prsFmt c.inst).pressFail c u 0x3004 input.length 0 [] false
    else s.pressDone c u r.out input.length r.out.length r.st

/-- The end of a decompress job whose input has been read (R240, R244). -/
def State.runDecompress (s : State) (c : Cmd) (j : PressJob) (u : Nat) (st : Stream) (input : Bytes) : State :=
  let held := if st.open_ ∧ st.dict ≠ 0 then s.dictRead c j st.dict else .ok [] s
  match (match held with
    | .ok b s => if c.prsFmt = 1 then .ok (decLz4Block input (c.fld 0x2C 4)) s
        else s.decode c j st input (j.dicts.length + 1) (if b = [] then [] else [(st.dict, b)])
    | .wait s => .wait s
    | .fail e a s => .fail e a s : Acc DecOut) with
  | .wait s => s
  | .fail e a s => (s.freeUnitOf u input.length 0 true).finishAt c.no e 0 0 a
  | .ok r s =>
    let d := r.dec
    let used := input.length - (if c.prsFmt = 1 then 0 else d.left.length)
    if r.status = 0x1002 then (s.freeUnitOf u used d.out.length true).finish c.no 0x1002 0 0
    else if r.status ≠ 0 then s.pressFail c u r.status used d.out.length (d.out.take d.ver) false
    else s.pressDone c u d.out used d.ver d.st

/-- The end of a command's job: its stream is found, its input read, and the format's work done (R240–R244). -/
def State.runPress (s : State) (c : Cmd) (j : PressJob) (u : Nat) : State :=
  let i := c.inst
  let saved := s.press.streams.find? (fun x => x.inst == i && x.addr == c.prsCtx)
  let st? : Option Stream := if c.prsFirst then some { fmt := c.prsFmt }
    else (saved.map (·.st)).bind (fun x => if x.fmt = c.prsFmt then some x else none)
  match st? with
  | none => (s.freeUnitOf u 0 0 true).finish c.no 0x1002 0 0
  | some st =>
    match s.devRead (.cmd c.no) i (c.fld 0x20 8) (c.fld 0x28 4) with
    | .wait s => s
    | .fail e a s => (s.freeUnitOf u 0 0 true).finishAt c.no e 0 0 a
    | .ok input s => if c.fld 0x18 1 = 0 then s.runCompress c j u st input else s.runDecompress c j u st input

/-- Stored bytes of the first `n` NPB blocks of an image, one by one. -/
def npbLens : Nat → Bytes → List Nat
  | 0, _ => []
  | n + 1, b => if b.length < 16 then [] else (16 + fld b 4 4) :: npbLens n (b.drop (16 + fld b 4 4))

/-- Does the compressor's body for a block decode to something else (R241)? -/
def lz4SelfBad (d : Bytes) : Bool :=
  let c := Config.compress 1 0 [] d
  !d.all (· == 0) && decide (c.length < d.length) && decide (lz4Decode [] c ≠ some d)

/-- A Pager's job has worked on its share of a page's blocks: the bytes it took in and gave out, and whether a self-check
failed, in which case the block is stored raw (R241, R246; log 89). -/
def State.pageShare (s : State) (j : PressJob) : Nat × Nat × Bool :=
  let key := j.page.getD 0
  let i := key / 2 ^ 48
  let mine := fun (l : List Nat) => ((l.zipIdx.filter (fun p => p.2 % j.parts == j.part)).map (·.1))
  match s.page? i (key % 2 ^ 48) with
  | none => (0, 0, false)
  | some g =>
    let n := g.size / kib64
    if g.state = .movingOut then
      let ds := ((Machine.groups kib64 n (s.rd .hbm g.loc g.size)).zipIdx.filter (fun p => p.2 % j.parts == j.part)).map (·.1)
      (kib64 * ds.length, (ds.map (fun d => (npbBlock false d).length)).foldl (· + ·) 0, ds.any lz4SelfBad)
    else if g.state = .movingIn then
      let tier := if g.origin == .t1 then 1 else 2
      let (sp, a) := s.tierPlace i tier (g.loc / kib64)
      let (k1, k2) := s.xtsKeys i
      let ls := mine (npbLens n (openImage k1 k2 (key % 2 ^ 48) (s.rd sp a ((g.unitsM1 + 1) * kib64))))
      (ls.foldl (· + ·) 0, kib64 * ls.length, false)
    else (0, 0, false)

/-- The end of a Pager's job: its page's move goes on (R241, R246, R249). -/
def State.endPageJob (s : State) (j : PressJob) (u : Nat) : State :=
  let (inB, outB, bad) := s.pageShare j
  let s := s.freeUnitOf u inB outB bad
  if bad then s.pressFault u 7 j.inst else s

/-- Fills the undefined output of a job that failed while it ran (R242, R411). -/
def State.junkOut (s : State) (c : Cmd) (n : Nat) : State :=
  let (b, s) := s.freshBytes n
  match s.bufWrite c c.dataAddr b with
  | .ok _ s => s
  | .wait s => s
  | .fail _ _ s => s

/-- The job of a Press unit ends with a status: a command fails whole and its output is undefined; a page move waits for
another unit (R242, R471, R476). -/
def State.pressStuck (s : State) (u st : Nat) : State :=
  match Tab.find s.press.units u with
  | none => s
  | some j =>
    let s := s.freeUnitOf u 0 0 true
    match j.cmd with
    | none => { s with press := { s.press with waiting := j :: s.press.waiting } }
    | some no =>
      let s := (s.cmds.filter (fun c => c.no == no)).foldl (fun s c => s.junkOut c c.dataLen) s
      (s.forget (.cmd no)).finish no st 0 0

/-- A unit detected faulty: its job fails with a status that the manual leaves open, and the fault is counted (R472, R476;
log 44). -/
def State.pressBroken (s : State) (u : Nat) : State :=
  let (r, s) := s.fresh
  (s.pressStuck u (freeStatus r)).pressCount u

/-- Does another unit run an earlier job of the same stream (R240)? -/
def State.streamBusy (s : State) (c : Cmd) (u : Nat) : Bool :=
  !c.prsSingle && s.press.units.any (fun p => p.1 != u && (match p.2.cmd.bind (fun n => s.cmds.find? (fun y => y.no == n)) with
    | some y => y.inst == c.inst && !y.prsSingle && y.prsCtx == c.prsCtx && decide (y.no < c.no)
    | none => false))

/-- A Press job ends: a command's work is done and completed; a Pager's job leaves its page's move to go on (R244,
R246). -/
def execPressJobComplete (u : Nat) (fault : Bool) (s : State) : Host.Outcome State Fault Refusal :=
  if !s.running then ok s
  else match Tab.find s.press.units u with
    | none => ok s
    | some j =>
      if fault then ok (s.pressBroken u)
      else match j.cmd with
      | none => ok (s.endPageJob j u)
      | some no =>
        match s.cmds.find? (fun c => c.no == no) with
        | none => ok (s.freeUnitOf u 0 0 false)
        | some c => if s.streamBusy c u then ok s else ok (s.runPress c j u)

end Sys2Proof.Machine
end

