-- ==== Sys2Proof/Machine/Cipher.lean ====
section
/-! DEFINITION. The Cipher and Digest commands (R400–R416). -/
namespace Sys2Proof.Machine

-- ---------------------------------------------------------------- the fields of a Cipher chain (R337, R404)

def Cmd.cOp (c : Cmd) : Nat := c.fld 0x18 1
def Cmd.cMode (c : Cmd) : Nat := c.fld 0x19 1
def Cmd.cBits (c : Cmd) : Nat := if c.fld 0x1A 1 = 0 then 128 else 256
def Cmd.cFirst (c : Cmd) : Bool := bitAt (c.fld 0x1B 1) 0
def Cmd.cLast (c : Cmd) : Bool := bitAt (c.fld 0x1B 1) 1
def Cmd.cKeep (c : Cmd) : Bool := bitAt (c.fld 0x1B 1) 2
def Cmd.cAuto (c : Cmd) : Bool := bitAt (c.fld 0x1B 1) 3
def Cmd.cLen (c : Cmd) : Nat := c.fld 0x28 8
def Cmd.cSecond (c : Cmd) : Bytes := c.entries.getD 1 []
def Cmd.cKey (c : Cmd) : Bytes := slice c.cSecond 8 (c.cBits / 8)
def Cmd.cIv (c : Cmd) : Bytes := slice c.cSecond 0x28 16
def Cmd.cKey2 (c : Cmd) : Bytes := slice (c.entries.getD 2 []) 8 (c.cBits / 8)
/-- Wrap or unwrap. -/
def Cmd.cWrap (c : Cmd) : Bool := decide (2 ≤ c.cOp)

def State.cryPage (s : State) (i : Nat) : CryPage := Tab.get s.cry.pages i {}
def State.setPageCry (s : State) (i : Nat) (p : CryPage) : State :=
  { s with cry := { s.cry with pages := Tab.set s.cry.pages i p } }

/-- The lengths of R407. -/
def Cmd.cLenOk (c : Cmd) : Bool :=
  let l := c.cLen
  decide (l ≤ 2 ^ 32)
  && (if c.cOp = 2 then l % 8 == 0 && decide (16 ≤ l) && decide (l ≤ 4096)
      else if c.cOp = 3 then l % 8 == 0 && decide (24 ≤ l) && decide (l ≤ 4104)
      else if c.cMode = 4 then decide (16 ≤ l) && decide (l ≤ 16777216)
      else if !c.cLast then l % 16 == 0
      else if c.cMode = 1 ∧ c.cOp = 1 then l % 16 == 0 && l != 0
      else true)

/-- The largest output that the row of R407 allows. -/
def Cmd.cOut (c : Cmd) : Nat :=
  let l := c.cLen
  if c.cOp = 2 then l + 8
  else if c.cOp = 3 then l - 8
  else if c.cOp = 0 ∧ c.cLast then (if c.cMode = 1 then l + (16 - l % 16) else if c.cMode = 3 then l + 16 else l)
  else l

/-- The form of the chain and its fields (R404–R407, R409). -/
def Cmd.cFormOk (c : Cmd) : Bool :=
  let e := c.entry
  let e2 := c.cSecond
  let e3 := c.entries.getD 2 []
  let gcm := c.cMode == 3
  decide (c.cOp ≤ 3) && decide (c.fld 0x1A 1 ≤ 1) && decide (c.fld 0x1B 1 < 16)
  && (if c.cWrap then c.cMode == 0 else decide (1 ≤ c.cMode) && decide (c.cMode ≤ 4))
  && c.entries.length == (if c.cMode = 4 ∧ !c.cKeep then 3 else 2)
  && zeroAt e 0x1C 4 && zeroAt e 0x3C 4 && zeroAt e2 0x38 8
  && (c.cKeep || c.cFirst) && (if c.cKeep then zeroAt e2 8 32 else zeroAt e2 (8 + c.cBits / 8) (32 - c.cBits / 8))
  && (c.entries.length == 2 || (zeroAt e3 (8 + c.cBits / 8) (32 - c.cBits / 8) && zeroAt e3 0x28 24))
  && (if c.cWrap || !c.cFirst then zeroAt e2 0x28 16
      else if gcm then (if c.cAuto then zeroAt e2 0x2C 12 else zeroAt e2 0x34 4) else true)
  && (!c.cAuto || (gcm && c.cOp == 0 && c.cFirst))
  && ((gcm && c.cFirst) || (c.fld 0x38 4 == 0 && c.fld 0x30 8 == 0))
  && (!(c.cWrap || c.cMode == 4) || (c.cFirst && c.cLast)) && c.cLenOk

/-- Does the page admit the job: its key, or its open message (R405, R406)? -/
def CryPage.admits (p : CryPage) (c : Cmd) : Bool :=
  (!c.cKeep || (p.bits == c.cBits && (c.cMode != 4 || p.pair)))
  && (c.cFirst || (match p.msg with
      | some m => m.op == c.cOp && m.mode == c.cMode && m.bits == c.cBits
      | none => false))

/-- The message that a job works on: a new one, or the page's open one. -/
def CryPage.message (p : CryPage) (c : Cmd) (iv : Bytes) : CryMsg :=
  match (if c.cFirst then none else p.msg) with
  | some m => m
  | none =>
    { op := c.cOp, mode := c.cMode, bits := c.cBits
      iv := if c.cMode = 2 then iv.take 8 else if c.cMode = 3 then iv.take 12 else iv
      ctr := ofBe (iv.drop 8) }

/-- Would the job take a counter past its limit (R410)? -/
def CryMsg.spent (m : CryMsg) (l : Nat) : Bool :=
  if m.mode = 2 then decide (2 ^ 64 < m.ctr + ceilDiv l 16)
  else if m.mode = 3 then decide (68719476704 < m.text + l)
  else false

-- ---------------------------------------------------------------- the work of a job (R407)

/-- The next counter block of CTR: bytes 8–15 count. -/
def ctrNext (c : Nat) : Nat := c / 2 ^ 64 * 2 ^ 64 + (c + 1) % 2 ^ 64

/-- The GHASH key. -/
def gcmH (key : Bytes) : Nat := ofBe (aesEnc key (zeros 16))

/-- The tag of a finished GCM message. -/
def gcmTag (key : Bytes) (m : CryMsg) : Bytes :=
  let g := ghash (gcmH key) m.ghash (beBytes 8 (8 * m.aad) ++ beBytes 8 (8 * m.text))
  xorB (beBytes 16 g) (aesEnc key (m.iv ++ beBytes 4 1))

/-- The output of a job, the message after it, and whether its check passed. -/
def cipherWork (k1 k2 : Bytes) (c : Cmd) (m : CryMsg) (tweak : Bytes) (aad d tag : Bytes) : Bytes × CryMsg × Bool :=
  let n := d.length
  if c.cOp = 2 then (kwWrap k1 d, m, true)
  else if c.cOp = 3 then
    match kwUnwrap k1 d with
    | some o => (o, m, true)
    | none => (zeros (n - 8), m, false)
  else if c.cMode = 1 then
    if c.cOp = 0 then
      let p := 16 - n % 16
      let o := cbcEnc k1 (blocks16 (if c.cLast then d ++ List.replicate p (BitVec.ofNat 8 p) else d)) m.iv
      (o, { m with iv := if o = [] then m.iv else o.drop (o.length - 16) }, true)
    else
      let o := cbcDec k1 (blocks16 d) m.iv
      let m' := { m with iv := if d = [] then m.iv else d.drop (n - 16) }
      if c.cLast then
        let p := (o.getLastD 0).toNat
        if 1 ≤ p ∧ p ≤ 16 ∧ (o.drop (n - p)).all (fun b => b.toNat == p) then (o.take (n - p), m', true)
        else (zeros n, m', false)
      else (o, m', true)
  else if c.cMode = 2 then
    (ctrBlocks k1 ctrNext (blocks16 d) (ofBe m.iv * 2 ^ 64 + m.ctr % 2 ^ 64), { m with ctr := m.ctr + ceilDiv n 16 }, true)
  else if c.cMode = 3 then
    let h := gcmH k1
    let m := if c.cFirst then { m with ghash := ghash h 0 aad, aad := aad.length } else m
    let o := ctrBlocks k1 (fun x => incr32 x 1) (blocks16 d) (ofBe m.iv * 2 ^ 32 + (m.text / 16 + 2) % 2 ^ 32)
    let m' := { m with ghash := ghash h m.ghash (if c.cOp = 0 then o else d), text := m.text + n }
    if !c.cLast then (o, m', true)
    else if c.cOp = 0 then (o ++ gcmTag k1 m', m', true)
    else if gcmTag k1 m' = tag then (o, m', true) else (zeros n, m', false)
  else if c.cOp = 0 then (xtsEnc k1 k2 (ofLe tweak) d, m, true)
  else (xtsDec k1 k2 (ofLe tweak) d, m, true)

-- ---------------------------------------------------------------- starting and ending a job

/-- A cipher job fails; its page counts it. -/
def State.cipherFail (s : State) (c : Cmd) (st addr : Nat) : State :=
  ((s.forget (.cmd c.no)).count (0xD01018 + 0x20 * c.inst) 1).finishAt c.no st 0 0 addr

/-- GHASH units held: by open GCM messages, and by running jobs that open one (R400). -/
def State.ghashHeld (s : State) (but : Nat) : Nat :=
  ((List.range 128).filter (fun i => i != but
    && ((match (s.cryPage i).msg with
        | some m => m.mode == 3
        | none => false)
      || s.cmds.any (fun y => y.inst == i && y.op == 0x47 && y.phase == .running && y.prog == 1 && y.cMode == 3)))).length

/-- CIPHER: the commands of an instance run one at a time in fetch order; what can be checked before output is checked,
the AUTO_IV counter is spent, and the job runs (R403–R411). -/
def execCipher (i sq cid : Nat) (s : State) : Host.Outcome State Fault Refusal :=
  match s.openCmd i sq cid 0x47 with
  | none => ok s
  | some c =>
    let s := s.start c.no
    if c.prog = 1 ∨ s.cmds.any (fun y => y.inst == i && y.op == 0x47 && y.open_ && decide (y.no < c.no)) then ok s
    else
      let p := s.cryPage i
      if !c.cFormOk || !p.admits c then ok (s.cipherFail c 0x1002 0)
      else if c.dataLen < c.cOut then ok (s.cipherFail c 0x2001 0)
      else
        let counter := if c.cKeep then p.msgCtr else 0
        if c.cAuto && decide (2 ^ 64 - 1 ≤ counter) then ok (s.cipherFail c 0x5001 0)
        else if (p.message c c.cIv).spent c.cLen then ok (s.cipherFail c 0x5001 0)
        else if c.cMode = 3 ∧ 24 ≤ s.ghashHeld i then ok s
        else
          let s := if c.cAuto && c.cKeep then s.setPageCry i { p with msgCtr := p.msgCtr + 1 } else s
          ok (s.updCmd c.no (fun c => { c with prog := 1, result := counter }))

/-- The effect of a finished job on its page: key, chaining state, counters, and the message's end (R405, R408, R411). -/
def CryPage.after (p : CryPage) (c : Cmd) (m : CryMsg) (good : Bool) : CryPage :=
  let p := if good && !c.cKeep then
      { p with bits := c.cBits, pair := c.cMode == 4, key1 := c.cKey, key2 := if c.cMode = 4 then c.cKey2 else []
               msgCtr := b2n c.cAuto, ivFixed := c.cIv.take 4 }
    else p
  { p with msg := if c.cLast then none else if c.cMode = 0 then none else some m }

/-- Ends a cipher job: reads the input, works, writes the output, updates the page. -/
def State.cipherEnd (s : State) (c : Cmd) : State :=
  let i := c.inst
  let p := s.cryPage i
  let k1 := if c.cKeep then p.key1 else c.cKey
  let k2 := if c.cKeep then p.key2 else c.cKey2
  let fixed := if c.cKeep then p.ivFixed else c.cIv.take 4
  let iv := if c.cAuto then fixed ++ beBytes 8 c.result ++ zeros 4 else c.cIv
  let withTag := c.cMode = 3 ∧ c.cOp = 1 ∧ c.cLast
  match s.bufRead c (c.fld 0x20 8) (c.cLen + (if withTag then 16 else 0)) with
  | .wait s => s
  | .fail st a s => (s.junkOut c c.cOut).cipherFail c st a
  | .ok d s =>
    match s.bufRead c (c.fld 0x30 8) (c.fld 0x38 4) with
    | .wait s => s
    | .fail st a s => (s.junkOut c c.cOut).cipherFail c st a
    | .ok aad s =>
      let (out, m, good) := cipherWork k1 k2 c (p.message c iv) iv aad (d.take c.cLen) (d.drop c.cLen)
      match s.bufWrite c c.dataAddr out with
      | .wait s => s
      | .fail st a s => s.cipherFail c st a
      | .ok _ s =>
        let s := (s.forget (.cmd c.no)).setPageCry i (p.after c m good)
        if good then
          ((s.count (0xD01010 + 0x20 * i) 1).count 0xD00010 c.cLen).finish c.no 0 (if c.cAuto then c.result else 0)
            (out.length % 2 ^ 32)
        else s.cipherFail c 0x3003 0

/-- Retires an AES core; with fewer than 16 left the cause OTHER opens, resolved since its map-out is recorded (R457, R472,
R474). -/
def State.retireCore (s : State) (c n : Nat) : State :=
  let s : State := { s with col := { s.col with retAes := s.col.retAes ++ [c], optimeSaved := s.col.optime } }
  let s := s.logFh { kind := 0x0702, outcome := 3, resType := 8, resIdx := c, count := n, data := leBytes 4 c }
  if 368 < s.col.retAes.length then (s.openCause 7 8 c).resolveCause 7 8 c else s

/-- A chunk detected faulty counts against its core, and has run again on another (R472, R476). -/
def State.coreFault (s : State) (c : Nat) : State :=
  if s.col.retAes.contains c || decide (384 ≤ c) then s
  else
    let (win, lim) := s.threshold 3
    let (n, hit, s) := s.countEvent 10 c win lim
    if hit then s.retireCore c n else s

/-- CIPHER_JOB_COMPLETE: the running job of a page ends. -/
def execCipherJobComplete (page : Nat) (coreFaults : List Nat) (s : State) : Host.Outcome State Fault Refusal :=
  if !s.running then ok s
  else match s.cmds.find? (fun y => y.inst == page && y.op == 0x47 && y.phase == .running && y.prog == 1) with
    | none => ok s
    | some c => ok (coreFaults.foldl State.coreFault s |>.cipherEnd c)

-- ---------------------------------------------------------------- digests (R414–R416)

def Cmd.dAlg (c : Cmd) : Nat := c.fld 0x18 1
def Cmd.dFirst (c : Cmd) : Bool := bitAt (c.fld 0x19 1) 0
def Cmd.dLast (c : Cmd) : Bool := bitAt (c.fld 0x19 1) 1
def Cmd.dLen (c : Cmd) : Nat := c.fld 0x28 8

/-- The fields of a Digest command. -/
def Cmd.dOk (c : Cmd) : Bool :=
  decide (1 ≤ c.dAlg) && decide (c.dAlg ≤ 5) && decide (c.fld 0x19 1 < 4)
  && (!(c.dFirst && c.dLast) || c.fld 0x30 8 == 0)
  && (if c.dLast then decide (digLen c.dAlg ≤ c.dataLen) else c.dLen % digBlock c.dAlg == 0)

/-- DIGEST: a well-formed job waits for a unit. -/
def execDigest (i sq cid : Nat) (s : State) : Host.Outcome State Fault Refusal :=
  match s.takeCmd i sq cid 0x48 with
  | none => ok s
  | some c =>
    if !c.dOk then ok (s.finish c.no 0x1002 0 0)
    else
      let s := s.start c.no
      ok { s with cry := { s.cry with wait := s.cry.wait ++ [c.no] } }

/-- The instance of a waiting digest job. -/
def State.digInst (s : State) (no : Nat) : Nat := ((s.cmds.find? (fun c => c.no == no)).map (·.inst)).getD 0

/-- DIGEST_JOB_START: the lowest free unit takes one job of the next instance, round robin (R414; log 15). -/
def execDigestJobStart (s : State) : Host.Outcome State Fault Refusal :=
  if !s.running then ok s
  else
    let insts := sortBy (fun a b => decide (a ≤ b)) (dedup (s.cry.wait.map s.digInst))
    let turn := (insts.find? (fun i => decide (s.cry.rr < i))).orElse (fun _ => insts.head?)
    match turn, (List.range 16).find? (fun u => !Tab.has s.cry.units u) with
    | some i, some u =>
      match takeFirst (fun n => s.digInst n == i) s.cry.wait with
      | some (no, rest) => ok { s with cry := { s.cry with wait := rest, rr := i, units := Tab.set s.cry.units u no } }
      | none => ok s
    | _, _ => ok s

/-- The state that a job begins with: initial, or the record at STATE_ADDR; `none`: the record is not valid. -/
def digRestore (alg : Nat) (rec_ : Bytes) : Option (List Nat × Nat) :=
  let n := fld rec_ 8 8
  if fld rec_ 0 1 = alg ∧ fld rec_ 1 1 = 1 ∧ n % digBlock alg = 0 then
    let w := if alg = 1 then 4 else 8
    some ((List.range (if 4 ≤ alg then 25 else 8)).map (fun k => fld rec_ (0x10 + w * k) w), n)
  else none

/-- The 256-byte record of a state (R416). -/
def digSave (alg : Nat) (h : List Nat) (n : Nat) : Bytes :=
  padTo (leBytes 1 alg ++ [1] ++ zeros 6 ++ leBytes 8 n ++ (h.map (leBytes (if alg = 1 then 4 else 8))).flatten) 256

/-- Ends a digest job. -/
def State.digestEnd (s : State) (c : Cmd) : Option State × State :=
  let alg := c.dAlg
  let done := fun (s : State) (st addr : Nat) => (some ((s.forget (.cmd c.no)).finishAt c.no st 0 0 addr), s)
  match (if c.dFirst then .ok [] s else s.devRead (.cmd c.no) c.inst (c.fld 0x30 8) 256 : Acc Bytes) with
  | .wait s => (none, s)
  | .fail st a s => done s st a
  | .ok rec_ s =>
    match (if c.dFirst then some (digInit alg, 0) else digRestore alg rec_) with
    | none => done s 0x1002 0
    | some (h, n) =>
      if 2 ^ 61 - 1 < n + c.dLen then done s 0x5001 0
      else match s.devRead (.cmd c.no) c.inst (c.fld 0x20 8) c.dLen with
        | .wait s => (none, s)
        | .fail st a s => done s st a
        | .ok d s =>
          let wrote : Acc Unit :=
            if c.dLast then s.bufWrite c c.dataAddr (digEnd alg h n d)
            else s.devWrite (.cmd c.no) c.inst (c.fld 0x30 8) (digSave alg (digBlocks alg (c.dLen / digBlock alg) h d) (n + c.dLen))
          match wrote with
          | .wait s => (none, s)
          | .fail st a s => done s st a
          | .ok _ s => done (s.count 0xD00018 c.dLen) 0 0

/-- A job whose block failed on two units: it fails with a status that the manual leaves open, and its state record stays as
it was (R415, R476; log 44). -/
def State.digestBroken (s : State) (c : Cmd) : State :=
  let (r, s) := s.fresh
  (s.forget (.cmd c.no)).finish c.no (freeStatus r) 0 0

/-- DIGEST_JOB_COMPLETE: the job of a unit ends and the unit frees. -/
def execDigestJobComplete (unit : Nat) (fault : Bool) (s : State) : Host.Outcome State Fault Refusal :=
  if !s.running then ok s
  else match Tab.find s.cry.units unit with
    | none => ok s
    | some no =>
      let free := fun (s : State) => { s with cry := { s.cry with units := Tab.del s.cry.units unit } }
      match s.cmds.find? (fun c => c.no == no) with
      | none => ok (free s)
      | some c =>
        if fault then ok (free (s.digestBroken c))
        else match s.digestEnd c with
        | (some s, _) => ok (free s)
        | (none, s) => ok s

end Sys2Proof.Machine
end

