-- ==== Sys2Proof/Machine/Segments.lean ====
section
/-! DEFINITION. Load Segments with its range operations, Read Results and Thumb Load (R166–R168, R215–R218, R223,
R337, R338). -/
namespace Sys2Proof.Machine

-- ---------------------------------------------------------------- range operation records (R216, R338)

structure RangeOp where
  op   : Nat
  attr : Nat
  chan : Nat
  base : Nat
  len  : Nat
  host : Nat
  zero : Nat
deriving DecidableEq, Repr

def rangeOp (b : Bytes) : RangeOp :=
  { op := fld b 0 1, attr := fld b 1 1, chan := fld b 2 1, zero := fld b 3 5, base := fld b 8 8, len := fld b 0x10 8,
    host := fld b 0x18 8 }

/-- The range that a MAP or MAP_FILL creates. -/
def RangeOp.range (o : RangeOp) (i : Nat) : Range :=
  { inst := i, base := o.base, len := o.len, direct := bitAt o.attr 0, big := bitAt o.attr 1, write := bitAt o.attr 2
    home := bits o.attr 4 3, inPlace := bitAt o.attr 5, place := bits o.attr 7 6, channel := o.chan }

def spanMeets (a n b m : Nat) : Bool := decide (a < b + m) && decide (b < a + n)

/-- May a MAP or MAP_FILL create its range (R216, R217)? -/
def RangeOp.mapOk (o : RangeOp) (s : State) (i : Nat) : Bool :=
  let r := o.range i
  let a := ((s.inst? i).map (·.alloc)).getD {}
  o.zero == 0 && o.base % r.page == 0 && o.len % r.page == 0 && o.len != 0 && decide (o.base + o.len ≤ 2 ^ 48)
  && decide (r.home ≤ 2) && decide (r.place ≤ 2) && (r.place == 1 || o.chan == 0)
  && !s.pager.ranges.any (fun q => q.inst == i && spanMeets o.base o.len q.base q.len)
  && (r.home != 1 || a.t1 != 0) && (r.home != 2 || a.t2 != 0)
  && (if o.op = 1 then o.host == 0 else !r.direct)

/-- Bytes of the page-table region. -/
def State.tableRoom (s : State) : Nat := s.hbm.ptFrames * mib2

-- ---------------------------------------------------------------- the operations

/-- How an operation ends. -/
inductive OpEnd where
  | done (s : State)
  | wait (s : State)
  | fail (status : Nat) (s : State)

/-- Puts a page's contents into its home tier as a stored image (R216 HOME, R231, R232); the other lower tier takes it when the
home tier has no room, and units that are being zeroed are waited for (R233). -/
def State.fillLow (s : State) (i va : Nat) (r : Range) (d : Bytes) : OpEnd :=
  let g : Page := { big := r.big, segment := r.place != 0, channel := (r.wantChannel va).getD 0 }
  if d.all (· == 0) then .done (s.setPage i va g)
  else
    let (img, comp) := s.imageOf i g d
    let n := img.length / kib64
    match s.takeUnitsIn i g.use r.home n with
    | (tier, .got u s') =>
      if tier = 1 ∧ s'.t1Waits u then .wait s
      else
        let (k1, k2) := s'.xtsKeys i
        let (sp, a) := s'.tierPlace i tier u
        .done (((s'.overwrite sp a (sealImage k1 k2 va img)).count 0xD00010 img.length).setPage i va
          { g with state := if tier = 1 then .t1 else .t2, loc := u * kib64, compressed := comp, unitsM1 := n - 1 })
    | (_, .soon s) => .wait s
    | (_, .full) => .fail 0x2002 s

/-- Copies one page of host data into a range, in T0 or where the page lies. -/
def State.fillPage (s : State) (c : Cmd) (va : Nat) (d : Bytes) : OpEnd :=
  match s.devCheck (.cmd c.no) c.inst va d.length false with
  | .wait s => .wait s
  | .fail st _ s => .fail st s
  | .ok _ s =>
    let ps := piecesOf va d.length
    .done ((ps.foldl (fun s p => s.touchPage c.inst p.1 true) s).writePieces c.inst ps d)

/-- Copies host data page by page from the place where the command stands. -/
def State.fillPages (s : State) (c : Cmd) (o : RangeOp) (r : Range) (fresh : Bool) : Nat → Nat → OpEnd
  | 0, _ => .done s
  | n + 1, pos =>
    let s := s.updCmd c.no (fun c => { c with sub := pos })
    match s.hostRead c.inst (o.host + pos) r.page with
    | .error st => .fail st s
    | .ok d =>
      let step := if fresh && r.home != 0 && !r.inPlace && !Tab.has s.xts c.inst then OpEnd.wait s
        else if fresh && r.home != 0 && !r.inPlace then s.fillLow c.inst (o.base + pos) r d
        else s.fillPage c (o.base + pos) d
      match step with
      | .done s => State.fillPages s c o r fresh n (pos + r.page)
      | e => e

/-- MAP and MAP_FILL: `c.sub` beyond 0 means that the range exists and the copy goes on; the first page of a copy stands
at 1 (its range was just created). -/
def State.opMap (s : State) (c : Cmd) (o : RangeOp) : OpEnd :=
  let i := c.inst
  let r := o.range i
  let begun := s.pager.ranges.any (fun q => q == r) && c.result == c.prog + 1
  let start : Except (Nat × State) State :=
    if begun then .ok s
    else if !o.mapOk s i then .error (0x1002, s)
    else if s.tableRoom < allTableBytes (s.pager.ranges ++ [r]) then
      .error (0x2002, s.logFh { kind := 0x0A05, outcome := 7, inst := i, resType := 0x0C, resIdx := 0 })
    else
      let s := s.updPager (fun p => { p with ranges := p.ranges ++ [r] })
      .ok (s.updCmd c.no (fun x => { x with result := c.prog + 1 }))
  match start with
  | .error (st, s) => .fail st s
  | .ok s =>
    if o.op = 1 then .done s
    else
      let pos := if begun then c.sub else 0
      match s.fillPages c o r true ((r.len - pos) / r.page) pos with
      | .fail st s => .fail st (s.removeRange r)
      | e => e

/-- FILL: part of one existing PAGED range with WRITE rights (R216). -/
def State.opFill (s : State) (c : Cmd) (o : RangeOp) : OpEnd :=
  match s.range? c.inst o.base with
  | none => .fail 0x1002 s
  | some r =>
    if o.attr ≠ 0 ∨ o.chan ≠ 0 ∨ o.zero ≠ 0 ∨ r.direct ∨ !r.write ∨ r.base + r.len < o.base + o.len
        ∨ o.base % r.page ≠ 0 ∨ o.len % r.page ≠ 0 then .fail 0x1002 s
    else s.fillPages c o r false ((o.len - c.sub) / r.page) c.sub

/-- Does a staged write lie in a span? -/
def StageItem.meets (t : StageItem) (a n : Nat) : Bool :=
  match t with
  | .dev va b => spanMeets va b.length a n
  | .accDev va _ => spanMeets va 544 a n
  | .record va b => spanMeets va b.length a n
  | _ => false

/-- Are there staged writes or pinned accesses that were checked against a range (R218)? -/
def State.rangeHeld (s : State) (r : Range) : Bool :=
  let i := r.inst
  (s.pagesOf i r.base r.len).any (fun va => match s.page? i va with
    | some g => g.state == .t0 && (match s.frame? (g.loc / mib2) with
        | some d => decide (0 < d.pins)
        | none => false)
    | none => false)
  || s.leaves.any (fun p => p.2.inst == i && (p.2.stage.any (fun t => t.meets r.base r.len)
      || p.2.resv.any (fun v => spanMeets v.va v.len r.base r.len)))
  || s.eng.any (fun p => (s.engInst p.1 == some i) && (match p.2.run with
      | some g => g.stage.any (fun t => t.meets r.base r.len) || g.resv.any (fun v => spanMeets v.va v.len r.base r.len)
      | none => false))

/-- UNMAP: new translations stop; once nothing staged or pinned is left, the range goes (R218). -/
def State.opUnmap (s : State) (c : Cmd) (o : RangeOp) : OpEnd :=
  if o.attr ≠ 0 ∨ o.chan ≠ 0 ∨ o.zero ≠ 0 ∨ o.host ≠ 0 then .fail 0x1002 s
  else match s.pager.ranges.find? (fun r => r.inst == c.inst && r.base == o.base && r.len == o.len
      && (r.closing.isNone || r.closing == some c.no)) with
    | none => .fail 0x1002 s
    | some r =>
      let closed := { r with closing := some c.no }
      let s := s.updPager (fun p => { p with ranges := updWhere p.ranges (fun q => q == r) (fun _ => closed) })
      let r := closed
      if s.rangeHeld r then .wait s else .done (s.removeRange r)

/-- Applies the records in order from the one where the command stands (R338). -/
def State.rangeOps (s : State) (count : Nat) : Nat → Cmd → State
  | 0, c => (s.forget (.cmd c.no)).finish c.no 0 count 0
  | n + 1, c =>
    match s.bufRead c (c.dataAddr + 32 * c.prog) 32 with
    | .wait s => s
    | .fail st a s => (s.forget (.cmd c.no)).finishAt c.no st c.prog 0 a
    | .ok b s =>
      let o := rangeOp b
      let e := match o.op with
        | 1 => s.opMap c o
        | 2 => s.opMap c o
        | 3 => s.opFill c o
        | 4 => s.opUnmap c o
        | _ => .fail 0x1002 s
      match e with
      | .wait s => s
      | .fail st s => (s.forget (.cmd c.no)).finish c.no st c.prog 0
      | .done s =>
        let c := { c with prog := c.prog + 1, sub := 0 }
        State.rangeOps (s.updCmd c.no (fun x => { x with prog := c.prog, sub := 0 })) count n c

/-- LOAD_SEGMENTS. -/
def execLoadSegments (i sq cid : Nat) (s : State) : Host.Outcome State Fault Refusal :=
  match s.openCmd i sq cid 0x43 with
  | none => ok s
  | some c =>
    let n := c.fld 0x18 2
    let s := s.start c.no
    if n = 0 ∨ 4096 < n ∨ c.dataLen < 32 * n then ok (s.finish c.no 0x1002 0 0)
    else ok (s.rangeOps n (n - c.prog) c)

-- ---------------------------------------------------------------- Read Results

/-- READ_RESULTS: copies device memory to the buffer; after a failure the destination is undefined. -/
def execReadResults (i sq cid : Nat) (s : State) : Host.Outcome State Fault Refusal :=
  match s.openCmd i sq cid 0x44 with
  | none => ok s
  | some c =>
    let s := s.start c.no
    match s.devRead (.cmd c.no) i (c.fld 0x18 8) c.dataLen with
    | .wait s => ok s
    | .fail st a s => ok (((s.junkOut c c.dataLen).forget (.cmd c.no)).finishAt c.no st 0 0 a)
    | .ok b s =>
      match s.bufWrite c c.dataAddr b with
      | .wait s => ok s
      | .fail st a s => ok ((s.forget (.cmd c.no)).finishAt c.no st 0 0 a)
      | .ok _ s => ok ((s.forget (.cmd c.no)).finish c.no 0 0 0)

-- ---------------------------------------------------------------- Thumb Load (R167, R168)

/-- THUMB_LOAD: checks the image and the banks, waits for banks in retention, clears them if asked, and writes the
records in every named array. -/
def execThumbLoad (i sq cid : Nat) (s : State) : Host.Outcome State Fault Refusal :=
  match s.openCmd i sq cid 0x45 with
  | none => ok s
  | some c =>
    let s := s.start c.no
    let qs := (List.range 16).filter (bitAt (c.fld 0x18 2))
    let mask := c.fld 0x20 8
    match s.bufRead c c.dataAddr c.dataLen with
    | .wait s => ok s
    | .fail st a s => ok ((s.forget (.cmd c.no)).finishAt c.no st 0 0 a)
    | .ok img s =>
      if !thumbImageOk img || (thumbRecs img).any (fun r => decide (1024 * popcount 64 mask ≤ r.slot)) then
        ok (s.finish c.no 0x1002 0 0)
      else if qs.any (fun q => s.thumbDenied i q mask) then ok (s.finish c.no 0x5002 0 0)
      else
        let clears := bitAt (fld img 0xC 4) 0
        let banks := if clears then mask else (thumbRecs img).foldl (fun m r => m ||| (1 <<< (slotEntry mask r.slot / 1024))) 0
        match s.beginWrites qs i banks (c.prog == 1) with
        | .error s => ok (s.updCmd c.no (fun c => { c with prog := 1 }))
        | .ok s =>
          let s := if clears then s.thumbClearIn qs i mask else s
          ok (((s.thumbImageIn qs i mask img).forget (.cmd c.no)).finish c.no 0 (thumbCount img) 0)

end Sys2Proof.Machine
end

