-- ==== Sys2Proof/Machine/CommitPath.lean ====
section
/-! DEFINITION. The commit path and the completion report (R42–R46, R53, R54), and the two ports of quire memory at one
instant (R130, R134, R135, R141). -/
namespace Sys2Proof.Machine

-- ---------------------------------------------------------------- the two ports of quire memory (R134, R135)

/-- The bytes as the engine-side port finds them: before the Spine-side writes of this instant. -/
def State.engView (s : State) (q off n : Nat) : Bytes :=
  let sp := s.arrived.filter (·.spine)
  (s.rd (.quire q) off n).zipIdx.map (fun p =>
    match sp.find? (fun a => a.covers q (off + p.2)) with
    | some a => a.old.getD (off + p.2 - a.off) 0
    | none => p.1)

/-- The words of a span that hold a byte which `f` accepts. -/
def wordsWith (off n : Nat) (f : Nat → Bool) : Nat :=
  (dedup (((List.range n).map (off + ·)).filter f |>.map (· / 8))).length

/-- Reports engine-side writes that a Spine-side write replaced at arrival (R135). -/
def State.overwritten (s : State) (q slot leaf n : Nat) : State :=
  if n = 0 then s
  else
    let b := 0x8000 * q
    let s := s.setReg (offOvw q) (s.reg (offOvw q) ||| (1 <<< slot))
    (s.count (0x800100 + b + 8 * slot) n).setReg (0x800018 + b) leaf

/-- What the engine side wrote beneath the Spine-side arrivals: each byte goes to the first that covers it. -/
def beneath (as : List Arrival) (q off : Nat) (b : Bytes) : List Arrival :=
  as.zipIdx.map (fun x =>
    if !x.1.spine then x.1
    else { x.1 with old := x.1.old.zipIdx.map (fun p =>
      let o := x.1.off + p.2
      if decide (off ≤ o) && decide (o < off + b.length) && x.1.quire == q
          && !(as.take x.2).any (fun a => a.spine && a.covers q o) then b.getD (o - off) 0 else p.1) })

/-- An engine-side write of a leaf's commit: under Spine-side bytes of this instant it is replaced and reported. -/
def State.engineWrite (s : State) (q slot leaf off : Nat) (b : Bytes) : State :=
  let as := s.arrived
  let spineOver := fun (o : Nat) => as.any (fun a => a.spine && a.covers q o)
  let n := wordsWith off b.length spineOver
  let orig := s.rd (.quire q) off b.length
  let s := if n = 0 then s.wrEcc (.quire q) off b
    else b.zipIdx.foldl (fun s p => if spineOver (off + p.2) then s else s.wrEcc (.quire q) (off + p.2) [p.1]) s
  let mine : Arrival := { time := s.timebase, quire := q, off := off, len := b.length, spine := false, slot := slot,
                          leaf := leaf, old := [], orig := orig }
  { s with arrivals := beneath as q off b ++ [mine] }.overwritten q slot leaf n

/-- A Spine-side write: engine-side writes of this instant to the same bytes are replaced and reported. -/
def State.spineWrite (s : State) (q off : Nat) (b : Bytes) : State :=
  let as := s.arrived
  let orig := s.rd (.quire q) off b.length
  let mine : Arrival := { time := s.timebase, quire := q, off := off, len := b.length, spine := true, slot := 0, leaf := 0,
                          old := orig, orig := orig }
  let s := (as.filter (fun a => !a.spine)).foldl (fun s a =>
    s.overwritten q a.slot a.leaf (wordsWith off b.length (a.covers q))) s
  { s.wrEcc (.quire q) off b with arrivals := as ++ [mine] }

-- ---------------------------------------------------------------- applying a stage (R44, R46)

/-- Does part of a written span stay poisoned: a word, burst or line that the write covered in part (R46)? -/
def State.spoils (s : State) (sp : Space) (a n : Nat) : Bool :=
  let g := granule sp
  s.poison.any (fun k => decide (k < sp.base + a + n) && decide (sp.base + a < k + g)
    && !(decide (sp.base + a ≤ k) && decide (k + g ≤ sp.base + a + n)))

/-- As `spoils`, for a write to the device address space that has been made. -/
def State.devSpoils (s : State) (i va n : Nat) : Bool :=
  (piecesOf va n).any (fun p => match s.xlate i p.1 false with
    | .t0 dpa _ => s.spoils .hbm dpa p.2
    | .low tier unit off =>
      let (sp, a) := s.tierPlace i tier unit
      s.spoils sp (a + off) p.2
    | _ => false)

/-- Will part of a write to the device address space be refused: by a command that fails, or because its expansion port is
gone (R248, R261)? -/
def State.devRefused (s : State) (i va n : Nat) : Bool :=
  (piecesOf va n).any (fun p => match s.xlate i p.1 false with
    | .t0 dpa _ => (s.upsetsIn .hbm dpa p.2).any (fun u => u.2 == .commandError)
    | .fault _ => true
    | _ => false)

/-- Must a write to the device address space wait for a port that retrains (R273)? -/
def State.devHolds (s : State) (i va n : Nat) : Bool := (piecesOf va n).any (fun p => decide (s.xlate i p.1 false = .hold))

/-- Bytes of the device address space as a commit finds them. -/
def State.devPeek (s : State) (i va n : Nat) : Bytes :=
  match s.readPieces i (piecesOf va n) [] with
  | .ok b _ => b
  | _ => zeros n

/-- A staged write to the device address space is made; the Bool says that a fault of its memory met it (R46). -/
def State.devApply (s : State) (l : Leaf) (va : Nat) (b : Bytes) : Bool × State :=
  let s' := s.commitWrite l.inst va b
  (s.devRefused l.inst va b.length || s'.devSpoils l.inst va b.length, s')

/-- Must a stage wait before it is applied (R273)? -/
def State.stageHolds (s : State) (l : Leaf) : Bool :=
  l.stage.any (fun t => match t with
    | .dev va b => s.devHolds l.inst va b.length
    | .accDev va _ => s.devHolds l.inst va 528
    | .record va b => s.devHolds l.inst va b.length
    | _ => false)

/-- Applies one staged item of a leaf that ran in slot `slot` of quire `q`; the Bool says that a word stays poisoned. -/
def State.applyItem (s : State) (l : Leaf) (q slot : Nat) (t : StageItem) : Bool × State :=
  let quireOp := fun (off : Nat) (b : Bytes) (words : Nat) =>
    let bad := s.spoils (.quire q) off b.length || (words != 0 && s.poisoned (.quire q) off b.length)
    (bad, (if bad && words != 0 then s else s.engineWrite q slot l.id off b).qmCount q slot (wordsOf off b.length + words))
  match t with
  | .quire off b => quireOp off b 0
  | .aswp off v => (false, (s.engineWrite q slot l.id off (leBytes 8 v.toNat)).qmCount q slot 1)
  | .aadd off v =>
    if s.poisoned (.quire q) off 8 then (true, s.qmCount q slot 1)
    else
      let old := ofLe (s.engView q off 8)
      (false, (s.engineWrite q slot l.id off (leBytes 8 (old + v.toNat))).qmCount q slot 1)
  | .accQuire off a =>
    quireOp off ((ExactAcc.ofImage (s.engView q off 528)).merge a).image 66
  | .dev va b => s.devApply l va b
  | .accDev va a =>
    let bad := match s.readPieces l.inst (piecesOf va 528) [] with
      | .fail 0x3001 _ _ => true
      | _ => false
    if bad then (true, s)
    else s.devApply l va ((ExactAcc.ofImage (s.devPeek l.inst va 528)).merge a).image
  | .thumb idx t => (false, s.thumbWrite l.inst idx t)
  | .record va b =>
    let v := l.resv.find? (fun v => v.va == va)
    let (bad, s) := s.devApply l va b
    (bad, v.elim s (fun v => s.chunkCount l.run l.sig v true))
  | .send a b => (false, s.assocSend a q b false)

/-- The spawned leaves of a committed leaf become READY; in a run that has stopped they are removed as cancelled. -/
def State.readySpawned (s : State) (l : Leaf) : State :=
  let stopped := match s.run? l.run with
    | some r => r.stop != 0 || r.cancelled
    | none => true
  if stopped then
    let s := if l.spawned = [] then s else s.updSig l.run l.sig (fun x => { x with lost := true })
    (s.updRun l.run (fun r => { r with removed := r.removed + l.spawned.length })).dropLeaves l.spawned
  else l.spawned.foldl (fun s id =>
    let (n, s) := s.nextSeq
    s.updLeaf id (fun x => { x with state := .ready, seq := n })) s

/-- Applies the stage of a committing leaf in order; its sketch contributions merge and it is COMMITTED (R44, R46). -/
def State.applyCommit (s : State) (l : Leaf) : State :=
  let q := l.engine / 16
  let s := s.qmTouch q
  let (bad, s) := l.stage.foldl (fun (x : Bool × State) t =>
    let y := x.2.applyItem l q (l.engine % 16) t
    (x.1 || y.1, y.2)) (false, s)
  let s := (s.freeStage l.pins l.spill).updSig l.run l.sig (fun x => { x with
    ok_ := x.ok_ + 1
    rowsIn := x.rowsIn + l.rowsIn
    rowsOut := x.rowsOut + l.rowsOut
    first := if bad && x.first == 0 then 0x3001 else x.first
    sketches := l.sketches.foldl (fun t (p : Nat × Sketch) => Tab.set t p.1 ((Tab.get t p.1 {}).merge p.2)) x.sketches })
  let s := s.updRun l.run (fun r => { r with committed := r.committed + 1 })
  let s := ((s.readySpawned l).dropLeaves [l.id]).freeMessages l
  (s.endSlotWait l.inst).settle l.run

/-- The commit path takes the stage of a committing leaf; writes to Thumb banks in retention wait for the wake, and for
their turn in the array (R159, R160), writes to an expander whose port retrains for its return (R273). -/
def State.acceptCommit (s : State) (id : Nat) : State :=
  match s.leaf? id with
  | none => s
  | some l =>
    if l.state ≠ .committing ∨ s.stageHolds l then s
    else match s.beginWrites (List.range 16) l.inst (stageBanks l.stage) l.waked with
      | .error s => s.updLeaf id (fun x => { x with waked := true })
      | .ok s => { s with coll := { s.coll with accept := l.engine } }.applyCommit l

/-- How many engines the Spine port arbiter's pointer passes before it comes to engine `e` (R17). -/
def State.turnOf (s : State) (e : Nat) : Nat := (e + 255 - s.coll.accept) % 256

/-- The commits of one instant up to a leaf's, in the round-robin order in which the Spine port arbiter accepts them
(R17; log 82). -/
def State.arbiterOrder (s : State) (l : Leaf) : List Nat :=
  let now := s.leaves.filter (fun p =>
    p.2.state == .committing && p.2.commitAt == l.commitAt && decide (s.turnOf p.2.engine ≤ s.turnOf l.engine))
  (sortBy (fun (a b : Nat × Leaf) => decide (s.turnOf a.2.engine ≤ s.turnOf b.2.engine)) now).map (·.1)

/-- COMMIT_APPLIED: a commit runs to its end, after those of the same instant that the arbiter accepts before it (R17,
R44). -/
def execCommitApplied (leaf : Word) (s : State) : Host.Outcome State Fault Refusal :=
  match s.leaf? leaf.toNat with
  | none => ok s
  | some l =>
    if !s.running ∨ l.state ≠ .committing then ok s else ok ((s.arbiterOrder l).foldl State.acceptCommit s)

-- ---------------------------------------------------------------- the completion report (R53, R54)

/-- The STATE of a signature record (R53). One that had not ended when its run was cancelled is CANCELLED; one that a decision
had made SKIPPED before stays SKIPPED, which R51 does not say (DESIGN CHOICE, log 79). -/
def SigRun.code (r : Run) (x : SigRun) : Nat :=
  match x.state with
  | .finished => 1
  | .skipped => 4
  | .failed => 2
  | .cancelled => 3
  | .running => if r.cancelled then 3 else if r.stop != 0 then 2 else 0
  | .notStarted => if r.cancelled then 3 else 0

/-- The status of a run that has ended (R49, R51, R54). -/
def Run.status (r : Run) : Nat :=
  if r.cancelled then 0x6002 else if r.stop != 0 then r.stop else if r.decs != [] then 1 else 0

/-- The completion report in a buffer of `len` bytes. -/
def Run.report (r : Run) (len : Nat) : Bytes :=
  let room := (len - (64 + 32 * r.decs.length + 32 * r.sigs.length)) / 16
  let listed := r.fails.take room
  let flags := b2n (decide (listed.length < r.fails.length)) + 2 * b2n r.cancelled + 4 * b2n r.limit
  leBytes 4 0x52474C55 ++ leBytes 2 1 ++ leBytes 2 64 ++ leBytes 8 (foId r.image) ++ leBytes 2 r.status ++ leBytes 2 flags
  ++ leBytes 2 r.decs.length ++ leBytes 2 r.sigs.length ++ leBytes 4 r.failed ++ leBytes 4 listed.length
  ++ leBytes 8 (r.start.getD 0) ++ leBytes 8 (r.finish.getD 0) ++ leBytes 8 r.committed ++ leBytes 8 r.steps
  ++ (r.decs.map (fun d =>
      leBytes 2 d.dec ++ leBytes 1 d.chosen ++ leBytes 1 d.kind ++ leBytes 2 d.sig ++ leBytes 1 d.hh ++ zeros 1
      ++ leBytes 8 d.value ++ leBytes 8 d.time ++ zeros 8)).flatten
  ++ (r.sigs.zipIdx.map (fun x =>
      leBytes 2 x.2 ++ leBytes 1 (SigRun.code r x.1) ++ zeros 1 ++ leBytes 2 x.1.first ++ leBytes 2 x.1.retries
      ++ leBytes 4 x.1.ok_ ++ leBytes 4 x.1.failed ++ leBytes 8 x.1.rowsIn ++ leBytes 8 x.1.rowsOut)).flatten
  ++ (listed.map (fun f =>
      leBytes 8 f.leaf ++ leBytes 2 f.status ++ leBytes 1 f.engine ++ leBytes 1 f.attempts ++ leBytes 4 f.detail)).flatten

/-- The end records of the RESULT buffers that still have 64 bytes (R121). -/
def Run.endRecords (r : Run) : List (Nat × Bytes) :=
  let used := (r.sigs.zipIdx.filter (fun x => x.1.state != .notStarted && x.1.state != .skipped
    && (sigInfo r.image x.2).sink == 4)).map (fun x => (sigInfo r.image x.2))
  r.results.filterMap (fun p =>
    let len := ((used.filter (fun g => g.ko == p.1)).map (·.ke)).foldl max 0
    if p.2 + 64 ≤ len then some (p.1 + p.2, zeros 64) else none)

/-- Does a failed-leaf record of the run still wait for the count of its engine fault (R485)? -/
def Run.awaitsFault (r : Run) : Bool := r.fails.any (fun f => f.status == 0x4001 && f.detail == 0xFFFFFFFF)

/-- COMPLETION_REPORT_WRITE: at the end of a run, its end records and its report are written and its Submit Folio
completes (R53). -/
def execCompletionReportWrite (i sub : Nat) (s : State) : Host.Outcome State Fault Refusal :=
  let k := runKey i sub
  if !s.running then ok s
  else
    let s := s.settle k
    match s.run? k with
    | none => ok s
    | some r =>
      match s.cmds.find? (fun c => c.no == r.cmd) with
      | none => ok s
      | some c =>
        if r.finish.isNone ∨ r.awaitsFault then ok s
        else match s.devWrites (.cmd c.no) i r.endRecords with
          | (none, s) => ok s
          | (some s, _) =>
            let reported := fun (s : State) (st a : Nat) =>
              { (s.forget (.cmd c.no)) with runs := Tab.del s.runs k }.finishAt c.no st r.sub 0 a
            match s.bufWrite c c.dataAddr (r.report c.dataLen) with
            | .wait s => ok s
            | .fail st a s => ok (reported s st a)
            | .ok _ s => ok (reported s r.status 0)

end Sys2Proof.Machine
end

