-- ==== Sys2Proof/Machine/Collator.lean ====
section
/-! DEFINITION. The Collator: backlogged groups and their heads, placement, reservations, the dispatch pass, the refill
and the enabling of trace rings (R97, R98, R189–R212, R364–R366). -/
namespace Sys2Proof.Machine

-- ---------------------------------------------------------------- free engines, guarantees and ceilings (R364–R366)

def State.engineFree (s : State) (e : Nat) : Bool := s.engineUp e && (s.engRun e).isNone
/-- The free engines of a quire that may take a leaf. -/
def State.freeIn_ (s : State) (q : Nat) (l : Leaf) : List Nat :=
  ((List.range 16).map (16 * q + ·)).filter (fun e => s.engineFree e && l.exclude != some e)

/-- Free engines of the device. -/
def State.enginesFree (s : State) : Nat := ((List.range 256).filter s.engineFree).length

/-- The guarantee of an instance: in proportion when the engines in service do not cover all of them (R365). -/
def State.guarantee (s : State) (x : Inst) : Nat :=
  let total := s.allotted (·.minEngines)
  if total ≤ s.enginesUp then x.alloc.minEngines else x.alloc.minEngines * s.enginesUp / total

/-- Engines held back for instances other than `i` (R364). -/
def State.heldBack (s : State) (i : Nat) : Nat :=
  (s.insts.map (fun p =>
    let mine := s.leaves.filter (fun l => l.2.inst == p.1)
    if p.1 != i && mine.any (fun l => l.2.state == .ready) then
      s.guarantee p.2 - (mine.filter (fun l => l.2.state == .running)).length
    else 0)).foldl (· + ·) 0

/-- May a leaf take an engine at all: other instances' guarantees leave one (R364), and its instance's energy account
covers its cost (R366)? -/
def State.admits (s : State) (l : Leaf) : Bool :=
  decide (s.heldBack l.inst < s.enginesFree)
  && (match s.inst? l.inst with
      | some x => x.alloc.share == 0 || decide ((s.cost l.cls : Int) ≤ x.energy)
      | none => true)

-- ---------------------------------------------------------------- place (R197)

/-- The candidate with the largest credit, the lower number on ties. -/
def State.richest (s : State) (qs : List Nat) : Option Nat :=
  qs.foldl (fun (b : Option Nat) q => match b with
    | none => some q
    | some p => if (s.quire p).credit < (s.quire q).credit then some q else some p) none

/-- The quire for a leaf among the allowed ones, and the reason of its tier; `free_` leaves credit out of account. -/
def State.choose (s : State) (l : Leaf) (allowed : List Nat) (free_ : Bool) : Option (Nat × Nat) :=
  if !s.admits l then none
  else l.tiers.findSome? (fun t =>
    (s.richest (t.2.filter (fun q => allowed.contains q && s.quireOpen q && s.freeIn_ q l != []
      && (free_ || decide ((s.cost l.cls : Int) ≤ (s.quire q).credit))))).map (fun q => (q, t.1)))

/-- The engine of a quire: one that holds the leaf's code section, else the lowest slot (R197). -/
def State.chooseEngine (s : State) (l : Leaf) (q code : Nat) : Nat :=
  let fs := s.freeIn_ q l
  (fs.find? (fun e => (s.engOf e).code == some (l.inst, l.sub, code))).getD (fs.headD 0)

-- ---------------------------------------------------------------- a leaf enters an engine (R97, R98, R123)

/-- Loads the code section and the constant pool unless the engine holds them, and clears what another instance left. -/
def State.loadEngine (s : State) (e : Nat) (l : Leaf) (image : Bytes) (g : SigInfo) : State :=
  let x := s.engOf e
  let key := fun (k : Nat) => some (l.inst, l.sub, k)
  let code := section_ image g.code
  let s := if x.code = key g.code then s
    else ((s.clearPoison (.imem e) 0 65536).wr (.imem e) 0 code).updEng e (fun x => { x with code := key g.code, codeLen := code.length })
  let s := if x.const = key g.const then s
    else
      let s := (s.clearPoison (.dmem e) 0 0x20000).zero (.dmem e) 0 0x20000
      let s := if g.const = 0xFFFF then s else s.wr (.dmem e) 0 (section_ image g.const)
      s.updEng e (fun x => { x with const := key g.const })
  if x.lastInst = some l.inst then s
  else
    let s := (s.clearPoison (.dmem e) 0x20000 0x40000).zero (.dmem e) 0x20000 0x40000
    let s := (s.clearPoison (.quire (e / 16)) (winOff e) 0x20000).zero (.quire (e / 16)) (winOff e) 0x20000
    s.updEng e (fun x => { x with lastInst := some l.inst })

/-- A leaf enters engine `e`: after a leaf of its own instance the working space is undefined (R98). -/
def State.enter (s : State) (e : Nat) (l : Leaf) : State :=
  match s.run? l.run with
  | none => s
  | some r =>
    let g := sigInfo r.image l.sig
    let same := (s.engOf e).lastInst == some l.inst
    let free := if same then some s.freeCtr else none
    let s := ((s.loadEngine e l r.image g).loadRegion (e / 16) (e % 16) l.inst).pastArrivals
    let s := { s with freeCtr := if same then s.freeCtr + 0x80000 else s.freeCtr }
    let s := s.updEng e (fun x => { x with
      run := some (entryRun l.id g.entry g.limit l.arg g.so g.ko g.ke (quireBase + winOff e) g.vl256 free) })
    let s := s.updLeaf l.id (fun x => { x with state := .running, engine := e, attempts := x.attempts + 1 })
    match l.src with
    | .scan _ _ t => { s with trims := Tab.set s.trims t (let x := Tab.get s.trims t {}; { x with leaves := x.leaves ++ [l.id] }) }
    | _ => s

/-- Does a leaf need a resource that has been mapped out (R212)? -/
def State.needsLost (s : State) (l : Leaf) : Bool :=
  match l.src with
  | .scan _ _ t => s.col.mapChans.contains t
  | .merge _ _ => (((s.run? l.run).bind (fun r => (r.sig l.sig).merger)).map s.col.mapQuires.contains).getD false
  | _ => false

/-- Puts a leaf on a quire: the debits, the engine, the record of the decision. Its group's
reservation ends, so a waiting request may be granted. A leaf that needs a mapped-out resource fails with 0x4002 (R194,
R200, R212, R366). -/
def State.put (s : State) (g : Nat) (l : Leaf) (q reason : Nat) : State :=
  let c := s.cost l.cls
  let code := ((s.sigOfLeaf l).map (·.code)).getD 0
  let e := s.chooseEngine l q code
  let s := s.updQuire q (fun x => { x with credit := x.credit - c })
  let s := s.updInst l.inst (fun x => if x.alloc.share = 0 then x else { x with energy := x.energy - c })
  let s : State := { s with
    groups := Tab.upd s.groups g (fun x => if x.urgent then x else { x with deficit := x.deficit - c })
    coll := s.coll.unreserve g }
  let s := (((s.enter e l).count 0x200018 1).trace reason (some l) (some e) (some q) (some g) (some l.inst)).grantWaiting
  if s.needsLost l then s.failLeaf l.id 0x4002 0 else s

-- ---------------------------------------------------------------- the pass (R197)

/-- A pass: the state, and the groups that have placed a leaf, in order. -/
structure Pass where
  s     : State
  done  : List Nat := []

/-- A leaf has been placed for a group. -/
def Pass.placed (p : Pass) (g : Nat) (s : State) : Pass := { s := s, done := p.done ++ [g] }

/-- The groups that a filter accepts, round-robin from a number. -/
def State.rotate (s : State) (ptr : Nat) (f : Group → Bool) : List Nat :=
  let gs := (s.groups.filter (fun p => f p.2)).map (·.1)
  gs.filter (fun g => decide (ptr ≤ g)) ++ gs.filter (fun g => decide (g < ptr))

/-- An urgent group's turn. -/
def Pass.urgent (p : Pass) (g : Nat) : Pass :=
  match p.s.headOf g with
  | none => p
  | some l =>
    match p.s.choose l (List.range 16) false with
    | some (q, _) => p.placed g (p.s.put g l q 0x04)
    | none => p

/-- A granted reservation's turn. -/
def Pass.reserved (p : Pass) (x : Nat × Nat) : Pass :=
  match p.s.headOf x.1 with
  | none => p
  | some l =>
    let c : Int := p.s.cost l.cls
    if !p.done.contains x.1 && decide (c ≤ (p.s.group x.1).deficit) && decide (c ≤ (p.s.quire x.2).credit)
        && p.s.quireOpen x.2 && p.s.freeIn_ x.2 l != [] && p.s.admits l then
      p.placed x.1 (p.s.put x.1 l x.2 0x05)
    else p

/-- Marks a group's turn of the period. -/
def State.markGroup (s : State) (g : Nat) (f : Group → Group) : State := { s with groups := Tab.upd s.groups g f }

/-- A normal group's turn within its deficit. -/
def Pass.normal (p : Pass) (g : Nat) : Pass :=
  match p.s.headOf g with
  | none => p
  | some l =>
    if p.done.contains g ∨ (p.s.group g).deficit < (p.s.cost l.cls : Int) then p
    else match p.s.choose l p.s.unreserved false with
      | some (q, why) => p.placed g ((p.s.put g l q why).markGroup g (fun x => { x with placed := true }))
      | none =>
        { p with s := (p.s.markGroup g (fun x => { x with skipped := true })).trace 0x10 (some l) none none (some g) (some l.inst) }

/-- Borrowing: the first group whose head fits a quire. -/
def Pass.borrow (p : Pass) (g : Nat) : Pass :=
  if p.done ≠ [] then p
  else match p.s.headOf g with
    | none => p
    | some l =>
      match p.s.choose l p.s.unreserved false with
      | some (q, _) => p.placed g ((p.s.put g l q 0x06).markGroup g (fun x => { x with placed := true }))
      | none => p

/-- Records of leaves passed over (R204, R209). -/
def State.traceHeld (s : State) : State :=
  (s.groups.map (·.1)).foldl (fun s g =>
    ((s.readyOf g).takeWhile s.cqHeld).foldl (fun s l => s.trace 0x11 (some l) none none (some g) (some l.inst)) s) s

/-- A pass that placed nothing: IDLE records, and the period is limited when only credit kept a head from a free engine
(R205, R209). -/
def State.idlePass (s : State) : State :=
  let s := (List.range 16).foldl (fun s q =>
    match ((List.range 16).map (16 * q + ·)).find? s.engineFree with
    | some e =>
      if s.coll.idle.contains q then s
      else ({ s with coll := { s.coll with idle := s.coll.idle ++ [q] } }).trace 0x30 none (some e) (some q) none none
    | none => s) s
  let credit := s.groups.any (fun p => match s.headOf p.1 with
    | some l =>
      let own := (s.coll.grants.filter (fun x => x.1 == p.1)).map (·.2)
      let within := decide ((s.cost l.cls : Int) ≤ p.2.deficit)
      (s.choose l (if p.2.urgent then List.range 16 else s.unreserved ++ (if within then own else [])) true).isSome
    | none => false)
  if credit then { s with coll := { s.coll with limited := true } } else s

/-- One dispatch pass; placement pauses during live activation and waits for the end of Cold Start (R197, R212). -/
def State.dispatchPass (s : State) : State :=
  if !s.serving ∨ s.paused then s
  else
    let s := s.cleanResv.traceHeld
    let p : Pass := (s.rotate s.coll.uptr (·.urgent)).foldl Pass.urgent { s := s }
    let uptr := match p.done.head? with
      | some g => g + 1
      | none => s.coll.uptr
    let p := p.s.coll.grants.foldl Pass.reserved p
    let p := (p.s.rotate s.coll.ptr (fun g => !g.urgent)).foldl Pass.normal p
    let p := (p.s.rotate s.coll.ptr (fun g => !g.urgent)).foldl Pass.borrow p
    let t := if p.done = [] then p.s.idlePass else p.s
    { t with coll := { t.coll with ptr := (p.done.head?.map (· + 1)).getD s.coll.ptr, uptr := uptr } }

/-- DISPATCH_PASS (R197). -/
def execDispatchPass (s : State) : Host.Outcome State Fault Refusal := ok s.dispatchPass

/-- Must a reservation move at the next refill: its quire received a zero refill, or has started draining (R200)? -/
def State.resvStuck (s : State) (x : Nat × Nat) : Bool := !s.quireOpen x.2 || (s.quire x.2).refill == 0

/-- Moves a reservation that still stands. -/
def State.moveResv (s : State) (x : Nat × Nat) : State :=
  if !s.coll.grants.contains x then s
  else match (s.headOf x.1).bind s.selectQuire with
    | none => s
    | some q =>
      let s := { s with coll := { s.coll with grants := s.coll.grants.map (fun p => if p = x then (x.1, q) else p) } }
      s.trace 0x21 none none (some q) (some x.1) (some (s.group x.1).inst)

-- ---------------------------------------------------------------- the refill (R195, R197, R205, R363, R366)

/-- New shares and weights take effect (R363, R212). -/
def State.newShares (s : State) : State :=
  let s := s.shares.foldl (fun s (p : Nat × Nat × List Nat) =>
    let s := s.updInst p.1 (fun x => { x with alloc := { x.alloc with share := p.2.1, weights := p.2.2 } })
    { s with groups := s.groups.map (fun (g : Nat × Group) =>
        if g.2.inst = p.1 then (g.1, { g.2 with weight := p.2.2.getD g.2.local_ g.2.weight }) else g) }) s
  { s with shares := [] }

/-- The end of a period: a limited one leads to CONSTRAINED; 10,000 without a limit lead out of it (R205). -/
def State.endPeriod (s : State) : State :=
  let lim := s.coll.limited
  let s := if lim then s.count 0x200020 1 else s
  let clear := if lim then 0 else s.coll.clear + 1
  let s := { s with coll := { s.coll with limited := false, clear := clear, idle := [] },
                    pwr := { s.pwr with limited := s.pwr.limited || lim } }
  if lim then (if s.dev.constrain then s else s.setDev (fun d => { d with constrain := true }))
  else if s.dev.constrain && decide (10000 ≤ clear) then s.setDev (fun d => { d with constrain := false })
  else s

/-- A group at a refill: its deficit and its skipped periods (R197). -/
def Group.atRefill (g : Group) (backlogged paused : Bool) (add defMax : Nat) : Group :=
  if g.urgent then g
  else if backlogged then
    let d := if paused then g.deficit else min (defMax : Int) (g.deficit + add)
    let k := if g.skipped && !g.placed then min 15 (g.skips + 1) else if g.placed then 0 else g.skips
    { g with deficit := d, skips := k, skipped := false, placed := false }
  else { g with deficit := min g.deficit 0, skips := 0 }

/-- The refill of the quires: credits, energy accounts, deficits, reservations (R195, R197, R200, R366). -/
def State.applyRefill (s : State) (refill : List Nat) : State :=
  let s := s.newShares.endPeriod
  let stuck := s.coll.grants.filter s.resvStuck
  let s := (List.range 16).foldl (fun s q =>
    let r := refill.getD q 0
    s.updQuire q (fun x => { x with credit := min (s.credCap q : Int) (x.credit + r), refill := r })) s
  let total := refill.foldl (· + ·) 0
  let s := { s with insts := s.insts.map (fun (p : Nat × Inst) =>
    if p.2.alloc.share = 0 then p
    else (p.1, { p.2 with energy := min (s.energyCap p.2 : Int) (p.2.energy + (p.2.alloc.share * total / 1000 : Nat)) })) }
  let w := (s.groups.map (fun (p : Nat × Group) => if !p.2.urgent && s.backlogged p.1 then p.2.weight else 0)).foldl (· + ·) 0
  let s := { s with groups := s.groups.map (fun (p : Nat × Group) =>
    (p.1, p.2.atRefill (s.backlogged p.1) s.paused (total * p.2.weight / w) s.defMax)) }
  let s := s.cleanResv
  let periods := s.regField offCollCfg 11 8
  let asks := (s.groups.filter (fun (p : Nat × Group) => !p.2.urgent && s.backlogged p.1 && decide (periods ≤ p.2.skips)
    && !s.coll.grants.any (fun x => x.1 == p.1) && !s.coll.requests.contains p.1)).map (·.1)
  let s := { s with coll := { s.coll with requests := s.coll.requests ++ asks } }
  (stuck.foldl State.moveResv s).grantWaiting

/-- CREDIT_REFILL: the next refill crosses into the Collator and is applied between two placements; then a pass runs. A
POWER_CAP command that it completes ends (R15, R195, R197, R441). -/
def execCreditRefill (s : State) : Host.Outcome State Fault Refusal :=
  match s.pwr.fifo with
  | [] => ok s
  | (refill, cmds) :: rest =>
    if !s.serving then ok s
    else
      let s := { s with pwr := { s.pwr with fifo := rest } }
      let s := (s.applyRefill refill).dispatchPass
      ok (cmds.foldl (fun s no => s.finish no 0 0 0) s)

-- ---------------------------------------------------------------- trace rings (R207, R214, R514)

/-- Enables a ring: its base and size are fixed and its header is written, once its page is in place. -/
def State.ringOpen (s : State) (k : Nat) : State :=
  let base := s.reg (if k = 0 then offTrcBase else offTrcInstBase (k - 1))
  let g : Ring := { base := base, size := bits (s.reg (ringCtl k)) 12 8 }
  (({ s with coll := { s.coll with rings := Tab.set s.coll.rings k g } }).ringHeader k).2

/-- A write of a ring's control register; ENABLE going to 0 ends the ring. -/
def State.writeRing (s : State) (k : Nat) (v : Nat) : State :=
  match regInfo (ringCtl k) with
  | none => s
  | some r =>
    let new := regMerge r (s.reg (ringCtl k)) (ringCtl k) 8 v
    if !regLegal (ringCtl k) new then s
    else
      let s := s.storeReg (ringCtl k) new
      if !bitAt new 0 then
        { s with coll := { s.coll with rings := Tab.del s.coll.rings k, backlog := s.coll.backlog.filter (fun p => p.1 != k) } }
      else if Tab.has s.coll.rings k then (s.ringHeader k).2
      else s.ringOpen k

/-- TRACE_RING_ENABLE: a write of TRC_CTRL, or of TRC_INST_CTRL[i] of an instance that exists (R207, R514). -/
def execTraceRingEnable (ring : Option Nat) (value : Word) (s : State) : Host.Outcome State Fault Refusal :=
  if !s.running then ok s
  else match ring with
    | none => ok (s.writeRing 0 value.toNat)
    | some i => if i < 128 ∧ (s.inst? i).isSome then ok (s.writeRing (i + 1) value.toNat) else ok s

end Sys2Proof.Machine
end

