-- ==== Sys2Proof/Machine/Power.lean ====
section
/-! DEFINITION. The power controller: estimates and telemetry, the refill, voltage targets, thermal factors and the
power brake (R434, R436–R445). -/
namespace Sys2Proof.Machine

def offDiePower (d : Nat) : Nat := 0x700108 + 0x10 * d
def offQTemp (q : Nat) : Nat := 0x700200 + 8 * q

def State.updPwr (s : State) (f : Pwr → Pwr) : State := { s with pwr := f s.pwr }

/-- Replaces the field [hi:lo] of a register. -/
def putField (v hi lo x : Nat) : Nat :=
  v - bits v hi lo * 2 ^ lo + x % 2 ^ (hi + 1 - lo) * 2 ^ lo

def State.setField (s : State) (off hi lo x : Nat) : State := s.setReg off (putField (s.reg off) hi lo x)

/-- Appends to a list of a table and keeps its last `n` values. -/
def keepLast (n : Nat) (t : Tab (List Nat)) (k v : Nat) : Tab (List Nat) :=
  let l := Tab.get t k [] ++ [v]
  Tab.set t k (l.drop (l.length - n))


/-- The voltage of a code in mV (R447). -/
def milliVolts (code : Nat) : Nat := 500 + 5 * code

def State.railTarget (s : State) (d : Nat) : Nat := s.regField (offDie d) 7 0

/-- A voltage command to a rail over AVSBus (R436). -/
def State.railCommand (s : State) (d code : Nat) : State := (s.setField (offDie d) 7 0 code).emit (.avs d code)

/-- A change of AVS_ERR (0) or SAG (1) of a die is recorded (R438, R445, R484). -/
def State.railEvent (s : State) (d what : Nat) (on : Bool) : State :=
  (s.setField (offDie d) (33 - what) (33 - what) (b2n on)).logFh
    { kind := 0x0902, outcome := 7, mech := 13, resType := 0x0B, resIdx := d, data := leBytes 4 what ++ leBytes 4 (b2n on) }

-- ---------------------------------------------------------------- estimates and telemetry (R438, R439, R445)

/-- POWER_ESTIMATE_TICK: the estimate of the last microsecond (R439). -/
def execPowerEstimateTick (milliW : Nat) (s : State) : Host.Outcome State Fault Refusal :=
  if s.running then ok (s.setField 0x700018 31 0 milliW) else ok s

/-- The comparison of a die's voltage with its target: SAG is set after three consecutive reads more than 30 mV below it
and cleared after three within 30 mV (R445). -/
def State.sagCheck (s : State) (d code : Nat) : State :=
  let sag := bitAt (s.reg (offDie d)) 32
  let low := decide (milliVolts code + 30 < milliVolts (s.railTarget d))
  let n := if low == sag then 0 else Tab.get s.pwr.below d 0 + 1
  if n < 3 then s.updPwr (fun p => { p with below := Tab.set p.below d n })
  else
    let s := (s.updPwr (fun p => { p with below := Tab.set p.below d 0 })).railEvent d 1 (!sag)
    if sag then s
    else { s with eng := s.eng.map (fun (p : Nat × Eng) =>
      if p.1 / 64 = d then (p.1, { p.2 with faults := p.2.faults.map (fun f => { f with sag := true }) }) else p) }

/-- One die's telemetry. After three failed transactions its power is the estimate of its activity counters and 10 % (R438). -/
def State.railRead (s : State) (d : Nat) (r : RailRead) : State :=
  let mw := if r.ok then r.milliW else r.milliW * 11 / 10
  let s := s.updPwr (fun p => { p with powers := keepLast 100 p.powers d mw })
  let s := s.setReg (offDiePower d) (mw % 2 ^ 32 + (if r.ok then r.amps % 2 ^ 16 else bits (s.reg (offDiePower d)) 47 32) * 2 ^ 32)
  if r.ok then (s.setField (offDie d) 15 8 (min 255 r.code)).sagCheck d r.code
  else if bitAt (s.reg (offDie d)) 33 then s
  else s.railEvent d 0 true

/-- TELEMETRY_READ: every die's rail is read (R439, R445). -/
def execTelemetryRead (rails : List RailRead) (s : State) : Host.Outcome State Fault Refusal :=
  if !s.running then ok s
  else
    let s := (rails.take 4).zipIdx.foldl (fun s (p : RailRead × Nat) => s.railRead p.2 p.1) s
    ok (s.setField 0x700018 63 32 (sumOf ((List.range 4).map (fun d => s.regField (offDiePower d) 31 0))))

-- ---------------------------------------------------------------- temperature (R442, R443)

/-- The bounds SOFT and THROTTLE. -/
def State.soft (s : State) : Nat := s.regField offTherm 7 0
def State.throttleAt (s : State) : Nat := s.regField offTherm 23 16

/-- Is a sensor ignored at a reading: it reads outside 0 to 150 °C, or has not changed over 100 ms (R442)? -/
def sensorBad (now : Nat) (x : Int) (since : Nat) : Bool :=
  decide (x < 0) || decide (150 < x) || decide (100000000 ≤ now - since)

/-- One reading of sensor `k`: a sensor that becomes ignored is recorded. -/
def State.sensorRead (s : State) (k : Nat) (x : Int) : State :=
  let since := match Tab.find s.pwr.sensors k with
    | some (y, t) => if x = y then t else s.timebase
    | none => s.timebase
  let bad := sensorBad s.timebase x since
  let was := s.pwr.ignored.contains k
  let s := s.updPwr (fun p => { p with
    sensors := Tab.set p.sensors k (x, since)
    ignored := if bad then (if was then p.ignored else p.ignored ++ [k]) else p.ignored.filter (· != k) })
  if bad && !was then
    s.logFh { kind := 0x0901, outcome := 7, mech := 13, resType := 0x0A, resIdx := k, data := leBytes 4 (unsigned x 32) }
  else s

/-- The hottest of some sensors that are not ignored. -/
def State.hottestOf (s : State) (ks : List Nat) : Option Nat :=
  let vs := ks.filterMap (fun k => if s.pwr.ignored.contains k then none else (Tab.find s.pwr.sensors k).map (·.1.toNat))
  if vs = [] then none else some (vs.foldl max 0)

/-- The sensors of a quire and of a compute die. -/
def quireSensors (q : Nat) : List Nat := (List.range 4).map (4 * q + ·)
def dieSensors (d : Nat) : List Nat := (List.range 16).map (16 * d + ·)

/-- A quire's Tj; with its die's sensors all ignored too, a free value (R442; log 35). -/
def State.quireTj (s : State) (q : Nat) : Nat × State :=
  match s.hottestOf (quireSensors q) with
  | some t => (t, s)
  | none => match s.hottestOf (dieSensors (q / 4)) with
    | some t => (t + 5, s)
    | none => let (w, s) := s.fresh; (w.toNat % 151, s)

/-- Four times (THROTTLE − SOFT) times the thermal factor of a quire (R442). -/
def State.factor4 (s : State) (q : Nat) : Nat :=
  let t := s.regField (offQTemp q) 7 0
  let d := s.throttleAt - s.soft
  if s.pwr.hot.contains q then 0 else if t < s.soft then 4 * d else 4 * d - 3 * (t - s.soft)

/-- A quire's Tj, factor and count of ignored sensors are updated. -/
def State.quireThermal (s : State) (q : Nat) : State :=
  let (t, s) := s.quireTj q
  let hot := if s.throttleAt ≤ t then true else if t + 2 < s.throttleAt then false else s.pwr.hot.contains q
  let s := s.updPwr (fun p => { p with hot := if hot then (if p.hot.contains q then p.hot else p.hot ++ [q]) else p.hot.filter (· != q) })
  let s := s.setReg (offQTemp q) (t % 256)
  let f := s.factor4 q * 1000 / (4 * (s.throttleAt - s.soft))
  s.setReg (offQTemp q) (t % 256 + f * 2 ^ 8 + min 3 ((quireSensors q).filter s.pwr.ignored.contains).length * 2 ^ 18)

/-- THERMAL_SENSOR_READ: quire sensors 0–63, I/O-die sensors 64–71, stacks 72–79 (log 36). A reading of 110 °C or more
trips THERMTRIP_N and stops every block (R442, R443); above 85 °C a stack's channels refresh twice as often (R255). -/
def execThermalSensorRead (r : Thermal) (s : State) : Host.Outcome State Fault Refusal :=
  if !s.running then ok s
  else
    let xs : List (Nat × Int) :=
      (r.quire.take 16).zipIdx.flatMap (fun p => (p.1.take 4).zipIdx.map (fun x => (4 * p.2 + x.2, x.1)))
      ++ (r.iod.take 2).zipIdx.flatMap (fun p => (p.1.take 4).zipIdx.map (fun x => (64 + 4 * p.2 + x.2, x.1)))
      ++ (r.stack.take 8).zipIdx.map (fun x => (72 + x.2, x.1))
    if xs.any (fun x => decide (110 ≤ x.2)) then
      ok { s with stopped := true, pins := { s.pins with thermtripN := false } }
    else
      let s := if s.pwr.hot = [] then s else s.count 0x700028 10000
      let s := xs.foldl (fun s x => s.sensorRead x.1 x.2) s
      let s := (List.range 16).foldl State.quireThermal s
      let s := (List.range 4).foldl (fun s d => s.setField (offDie d) 31 24 ((s.hottestOf (dieSensors d)).getD 0)) s
      let alert := s.regField offTherm 15 8
      let top := (s.hottestOf (List.range 80)).getD 0
      let s := if s.securePin 2 then s else if alert ≤ top then { s with pins := { s.pins with thermAlertN := false } }
        else if top + 2 < alert then { s with pins := { s.pins with thermAlertN := true } } else s
      ok ((List.range 8).foldl (fun s h => match s.hottestOf [72 + h] with
        | some t => (List.range 32).foldl (fun s c => 
          s.updChan (32 * h + c) (fun x => { x with twice := decide (85 < t), owedBase := s.owed x, owedAt := s.timebase })) s
        | none => s) s)

-- ---------------------------------------------------------------- the refill (R440, R441, R444)

/-- The refill of a die's quires scaled to a limit. -/
def scaleTo (limit : Nat) (l : List Nat) : List Nat :=
  let t := sumOf l
  if t ≤ limit then l else l.map (fun x => x * limit / t)

/-- The refills of the 16 quires: the budget less the margin and the power of everything else, shared by thermal factor
and held to each die's EDC and TDC (R440). -/
def State.refills (s : State) (otherMilliW : Nat) : List Nat :=
  let w := s.feature 0 1
  let b := if s.pins.pwrbrkN then 1000 * w else 400 * w
  let r := (b * (100 - s.regField offPwrCfg 3 0) - 100 * otherMilliW) / 10
  let fs := (List.range 16).map (fun q => if s.col.mapQuires.contains q then 0 else s.factor4 q)
  let t := sumOf fs
  let share := fs.map (fun f => if t = 0 then 0 else r * f / t)
  (List.range 4).flatMap (fun d =>
    let mv := milliVolts (s.railTarget d)
    let past := Tab.get s.pwr.currents d []
    let tdc := (28500000 - sumOf (past.drop (past.length - 99))) * mv / 100
    scaleTo (min (4560 * mv) tdc) ((share.drop (4 * d)).take 4))

/-- BUDGET_REFILL: computes the refill from the newest cap; it enters the Collator through a synchroniser FIFO. The
POWER_CAP commands that have arrived complete with it (R440, R441, R446). -/
def execBudgetRefill (otherMilliW : Nat) (s : State) : Host.Outcome State Fault Refusal :=
  if !s.serving then ok s
  else
    let l := s.refills otherMilliW
    let busy := s.pwr.fifo.flatMap (·.2)
    let caps := (s.cmds.filter (fun c => c.op == 3 && c.phase == .running && !busy.contains c.no)).map (·.no)
    let s := s.setField 0x700010 31 0 (if s.pins.pwrbrkN then s.feature 0 1 else s.feature 0 1 * 2 / 5)
    let s := s.updPwr (fun p => { p with fifo := p.fifo ++ [(l, caps)] })
    ok ((List.range 4).foldl (fun s d =>
      let n := sumOf ((l.drop (4 * d)).take 4)
      s.updPwr (fun p => { p with
        currents := keepLast 100 p.currents d (ceilDiv (n * 100) (milliVolts (s.railTarget d)))
        refills := keepLast 100 p.refills d n })) s)

-- ---------------------------------------------------------------- voltage targets (R434, R437, R438)

/-- A table of R434 at a voltage between 550 and 850 mV, times 50. -/
def atVolts (t : List Nat) (mv : Nat) : Nat :=
  let v := min 850 (max 550 mv) - 550
  let i := min 5 (v / 50)
  t.getD i 0 * 50 + (t.getD (i + 1) 0 - t.getD i 0) * (v - 50 * i)

/-- Step rates in 10 M steps/s and energies per step in thousandths (R434). -/
def rateTable : List Nat := [120, 155, 190, 220, 250, 275, 300]
def energyTable : List Nat := [538, 640, 751, 871, 1000, 1138, 1284]

/-- Would the die's power of the last millisecond, at a target 25 mV higher, stay within its refills (R437 row 5)? -/
def State.affords (s : State) (d : Nat) : Bool :=
  let mv := milliVolts (s.railTarget d)
  let at_ := fun v => atVolts rateTable v * atVolts energyTable v
  decide (10 * sumOf (Tab.get s.pwr.powers d []) * at_ (mv + 25) ≤ sumOf (Tab.get s.pwr.refills d []) * at_ mv)

/-- The next target of a die, of whose engines in service `u` percent ran leaves (R437). -/
def State.nextTarget (s : State) (d u : Nat) : Nat :=
  let cfg := s.reg offPwrCfg
  let vmax := bits cfg 31 24
  let code := s.railTarget d
  let tj := (List.range 4).map (fun k => s.regField (offQTemp (4 * d + k)) 7 0)
  let new := if tj.any (fun t => decide (s.throttleAt ≤ t)) ∨ s.pwr.limited ∨ u < 50 then code - 5
    else if 90 ≤ u ∧ tj.all (fun t => decide (t < s.soft)) ∧ s.affords d then code + 5 else code
  if !s.pins.pwrbrkN then bits cfg 15 8
  else if bits cfg 5 4 = 1 then vmax
  else min vmax (max (bits cfg 23 16) new)

/-- The revision of one die's target: a failing bus holds the rail and sets AVS_ERR, the first success clears it. -/
def State.reviseDie (s : State) (d u : Nat) (busOk : Bool) : State :=
  let new := s.nextTarget d u
  let err := bitAt (s.reg (offDie d)) 33
  if new = s.railTarget d ∧ !err then s
  else if busOk then
    let s := s.railCommand d new
    if err then s.railEvent d 0 false else s
  else if err then s else s.railEvent d 0 true

/-- VOLTAGE_TARGET_REVISION, every 1 ms (R437, R438). -/
def execVoltageTargetRevision (busOk : List Bool) (usedPercent : List Nat) (s : State) : Host.Outcome State Fault Refusal :=
  if !s.serving then ok s
  else
    let s := (List.range 4).foldl (fun s d => s.reviseDie d (usedPercent.getD d 0) (busOk.getD d true)) s
    ok (s.updPwr (fun p => { p with limited := false }))

-- ---------------------------------------------------------------- the power brake (R444)

/-- PWRBRK_N is asserted: credits fall to at most zero, the rails are commanded to VBRK, the assertion is counted; refills
follow 40 % of the cap. -/
def execPwrbrkNAssert (s : State) : Host.Outcome State Fault Refusal :=
  let edge := s.pins.pwrbrkN
  let s := { s with pins := { s.pins with pwrbrkN := false } }
  if !edge ∨ !s.running then ok s
  else
    let s := { s with quires := s.quires.map (fun (p : Nat × Quire) => (p.1, { p.2 with credit := min p.2.credit 0 })) }
    let s := (List.range 4).foldl (fun s d => s.railCommand d (s.regField offPwrCfg 15 8)) s
    ok (s.count 0x700020 1)

/-- PWRBRK_N is deasserted: the full cap returns with the next refill. -/
def execPwrbrkNDeassert (s : State) : Host.Outcome State Fault Refusal :=
  ok { s with pins := { s.pins with pwrbrkN := true } }

end Sys2Proof.Machine
end

