-- ==== Sys2Proof/Machine/QuireUnits.lean ====
section
/-! DEFINITION. Quire memory under test and its regions, and the Thumb arrays' power: region sets, scrub, marches,
column repair, retention and throttling (R136–R151, R159, R186). -/
namespace Sys2Proof.Machine

-- ---------------------------------------------------------------- region sets (R136, R137)

/-- Do two QM_RSET values that are both valid share a 4 KiB unit? -/
def rsetOverlap (a b : Nat) : Bool :=
  bitAt a 63 && bitAt b 63 && decide (bits a 10 0 ≤ bits b 42 32) && decide (bits b 10 0 ≤ bits a 42 32)

/-- May the region set of an instance be written: a tenant that does not exist, or instance 0 without a READY, RUNNING or
HELD leaf (R136)? -/
def State.rsetOpen (s : State) (i : Nat) : Bool :=
  if i = 0 then !s.leaves.any (fun p => p.2.inst == 0 && p.2.state != .committing) else (s.inst? i).isNone

/-- A write of QM_RSET[i][k] (R136, R137). -/
def State.writeRset (s : State) (i k v : Nat) : State :=
  let v := v &&& 0x807007FF000007FF
  let others := (List.range 128).any (fun j => j != i && (List.range 8).any (fun m => rsetOverlap v (s.reg (offRset j m))))
  if !s.serving || decide (128 ≤ i) || decide (8 ≤ k) || !s.rsetOpen i then s
  else if bits v 42 32 < bits v 10 0 || decide (0x5FF < bits v 42 32) || others then s
  else s.setReg (offRset i k) v

def execQmRsetWrite (i k : Nat) (value : Word) (s : State) : Host.Outcome State Fault Refusal :=
  ok (s.writeRset i k value.toNat)

-- ---------------------------------------------------------------- scrub (R142, R149)

/-- The number of a bit column of a quire: bank, sub-bank, column (R129, R148). -/
def columnNo (bank sub col : Nat) : Nat := (bank * 8 + sub) * 128 + col

/-- The word that the scrub engine reads at an offset: quire memory, and from 8 MiB on the data and instruction
memories of the 16 engines, 576 KiB each (log 37). -/
def scrubSpace (q off : Nat) : Space × Nat :=
  if off < 0x800000 then (.quire q, off / 8 * 8)
  else
    let o := (off - 0x800000) / 8 * 8
    let e := 16 * q + o / 0x90000 % 16
    if o % 0x90000 < 0x80000 then (.dmem e, o % 0x90000) else (.imem e, o % 0x90000 - 0x80000)

/-- A scrub read: a single-bit error is written back and counted against its word, the third in 24 h marks its column;
a word beyond correction is poisoned and recorded (R142, R149, R472). -/
def execQmScrubRead (q off : Nat) (found : CheckOutcome) (s : State) : Host.Outcome State Fault Refusal :=
  if !s.running || decide (16 ≤ q) || decide (0x1100000 ≤ off) then ok s
  else
    let (sp, a) := scrubSpace q off
    let accesses := match found with
      | .corrected _ => 2      -- the read and the write-back
      | _ => 1
    let s := if off < 0x800000 then s.qmCount q 21 accesses else s
    match found with
    | .clean => ok s
    | .corrected col =>
      if 0x800000 ≤ off then ok s
      else
        let c := columnNo (bits a 8 3) (bits a 22 20) (col % 128)
        let (_, hit, s) := s.countEvent 3 (q * 2 ^ 20 + a / 8) 86400000000000 3
        if hit ∧ !s.col.softPending.contains (q, c) then
          ok { s with col := { s.col with softPending := s.col.softPending ++ [(q, c)] } }
        else ok s
    | _ =>
      let s := s.addPoison sp a 8
      ok (s.logFh { kind := 0x0201, status := 0x3001, outcome := 2, mech := 9, resType := 2,
                    resIdx := q + (if off < 0x800000 then bits a 8 3 * 256 else 0), addr := off / 8 * 8,
                    data := leBytes 8 (off / 8 * 8) })

-- ---------------------------------------------------------------- column repair (R148–R150)

/-- Spare columns of a sub-bank, of its two, that neither a fuse nor a soft repair has claimed. -/
def State.freeSpares (s : State) (q bank sub : Nat) : List Nat :=
  [0, 1].filter (fun k => decide (Config.fuseSpares q bank sub % 3 ≤ k)
    && !s.col.softRepairs.any (fun r => r.quire == q && r.bank == bank && r.sub == sub && r.spare == k))

def State.sparesOf (s : State) (q bank sub : Nat) : Nat := (s.freeSpares q bank sub).length

/-- A failing column as the march attributes it: bank, sub-bank, column. A word has 64 data columns, 8 check columns and
two spares, which are columns 72 and 73 (R129, R143, R148; log 51). -/
abbrev FailCol := Nat × Nat × Nat

/-- Claims a free spare that has not failed itself, and records it, if SOFT_REPAIR allows it (R149). -/
def State.softRepair (s : State) (q : Nat) (fails : List FailCol) (f : FailCol) : Bool × State :=
  let (bank, sub, col) := f
  match (s.freeSpares q bank sub).filter (fun k => !fails.contains (bank, sub, 72 + k)) with
  | [] => (false, s)
  | spare :: _ =>
    if !bitAt (s.reg offQmConfig) 0 then (false, s)
    else
      let r : SoftRepair := { quire := q, bank := bank, sub := sub, col := col, spare := spare, time := s.timebase }
      let s := { s with col := { s.col with softRepairs := s.col.softRepairs ++ [r] } }
      (true, s.logFh { kind := 0x0202, outcome := 0, mech := 10, resType := 2, resIdx := q + bank * 256,
                       data := leBytes 4 bank ++ leBytes 4 sub ++ leBytes 4 col ++ leBytes 4 spare ++ leBytes 8 s.timebase })

/-- What a march of a quire's memory found: failing columns, repaired and unrepaired ones. -/
structure MarchCount where
  found : Nat
  fixed : Nat := 0
  left  : Nat := 0

/-- A march of a quire's memory: its failing columns, and those that the scrub has marked, take spares; columns already
replaced do not fail, and a failing spare that nothing has claimed needs none. A mark stays until its column has a
spare (R143, R149, R150). -/
def State.repairQuire (s : State) (q : Nat) (fails : List FailCol) : MarchCount × State :=
  let found := (dedup fails).filter (fun f => decide (f.2.2 < 74) &&
    !s.col.softRepairs.any (fun r => r.quire == q && r.bank == f.1 && r.sub == f.2.1 && r.col == f.2.2))
  let idle := fun (f : FailCol) => decide (72 ≤ f.2.2) && (s.freeSpares q f.1 f.2.1).contains (f.2.2 - 72)
  let marked := (s.col.softPending.filter (fun p => p.1 == q)).map
    (fun (p : Nat × Nat) => ((p.2 / 1024, p.2 / 128 % 8, p.2 % 128) : FailCol))
  (dedup (found.filter (fun f => !idle f) ++ marked)).foldl (fun (a : MarchCount × State) f =>
    let (done, t) := a.2.softRepair q found f
    if done then
      ({ a.1 with fixed := a.1.fixed + 1 },
       { t with col := { t.col with softPending := t.col.softPending.filter (· != (q, columnNo f.1 f.2.1 f.2.2)) } })
    else ({ a.1 with left := a.1.left + 1 }, t)) ({ found := found.length }, s)

-- ---------------------------------------------------------------- marches (R143–R147, R151)

/-- An operation of a march on a cell: reads or writes of the background (`false`) or its inverse. -/
inductive MarchOp where
  | w (inverse : Bool)
  | r (inverse : Bool)

/-- The elements of March C−, each with its address order: `none` either way, `some true` rising (R143). -/
def marchElements : List (Option Bool × List MarchOp) :=
  [(none, [.w false]), (some true, [.r false, .w true]), (some true, [.r true, .w false]),
   (some false, [.r false, .w true]), (some false, [.r true, .w false]), (none, [.r false])]

/-- The four data backgrounds (R143): the bit at a row (word) and a column. -/
def marchBackgrounds : List (Nat → Nat → Bool) :=
  [fun _ _ => false, fun row col => (row + col) % 2 == 1, fun row _ => row % 2 == 1, fun _ col => col % 2 == 1]

/-- Accesses of one word through one port: March C− once on each background. -/
def marchPerWord : Nat := ((marchElements.map (fun e => e.2.length)).foldl (· + ·) 0) * marchBackgrounds.length

/-- Word accesses of a test of quire memory through both ports; the preserving form also saves and restores each word
(R129, R143–R145). -/
def marchAccesses (preserve : Bool) : Nat := 2 * (64 * 16384 * (marchPerWord + if preserve then 2 else 0))

/-- A write of QM_MARCH_CTRL: MODE and TARGET are stored; START begins a test, and is ignored in COLD_START, while a
test waits or runs, and with MODE 2 or 3 (R146); a placement pause defers it (R515). -/
def State.writeMarch (s : State) (q v : Nat) : State :=
  if !s.running || s.dev.cold || decide (16 ≤ q) then s
  else
    let old := s.reg (offMarch q)
    let m := (s.quire q).march
    let s := s.setReg (offMarch q) ((v &&& 0x70) + old % 2)
    if !bitAt v 0 || m.busy || m.wait || decide (2 ≤ bits v 5 4) then s
    else if s.paused then s.deferWrite (offMarch q) (v % 128)
    else
      let s := (s.setReg (offMarch q) ((v &&& 0x70) + 1)).holder 0 true
      s.updQuire q (fun x => { x with
        drain := true
        march := { x.march with wait := true, mode := bits v 5 4, target := bits v 6 6 } })

def execMarchStart (q : Nat) (value : Word) (s : State) : Host.Outcome State Fault Refusal :=
  ok (s.writeMarch q value.toNat)

/-- Does a leaf still run or commit in a quire? -/
def State.quireBusy (s : State) (q : Nat) : Bool :=
  s.leaves.any (fun p => (p.2.state == .running || p.2.state == .committing) && p.2.engine / 16 == q)

/-- A destructive march leaves zeros: quire memory, or the memories of the 16 engines, whose code and constants are then
loaded again (R144). -/
def State.marchZero (s : State) (q target : Nat) : State :=
  if target = 0 then (s.zeroSpace (.quire q)).clearPoison (.quire q) 0 (2 ^ 80)
  else
    (List.range 16).foldl (fun (s : State) k =>
      let e := 16 * q + k
      let s := ((s.zeroSpace (.dmem e)).zeroSpace (.imem e)).clearPoison (.dmem e) 0 (2 ^ 80)
      (s.clearPoison (.imem e) 0 (2 ^ 80)).updEng e (fun x => { x with code := none, const := none, lastInst := none })) s

/-- The drained quire is tested; failing columns of quire memory take spares (R143, R144, R149). -/
def execMarchRun (q : Nat) (fails : List (Nat × Nat × Nat)) (unmaskable : Bool) (s : State) :
    Host.Outcome State Fault Refusal :=
  let m := (s.quire q).march
  if !s.running || !m.wait || s.quireBusy q then ok s
  else
    let s := if m.target = 1 ∨ m.mode = 1 then s.marchZero q m.target else s
    let s := if m.target = 0 then s.qmCount q 21 (marchAccesses (m.mode == 0)) else s
    let (n, s) : MarchCount × State :=
      if m.target = 0 then s.repairQuire q (fails.map (fun f => (f.1 % 64, f.2.1 % 8, f.2.2)))
      else ({ found := (dedup fails).length, left := (dedup fails).length }, s)
    ok (s.updQuire q (fun x => { x with
      march := { x.march with wait := false, busy := true, run := some (n.found, n.fixed, n.left, unmaskable) } }))

/-- A quire beyond repair: the cause QUIRE opens, and its map-out, once recorded, resolves it (R151, R456, R457). -/
def State.mapOutQuire (s : State) (q : Nat) : State :=
  if s.col.mapQuires.contains q then s
  else
    let s := s.openCause 3 2 q
    let s := { s with col := { s.col with mapQuires := s.col.mapQuires ++ [q], optimeSaved := s.col.optime } }
    s.resolveCause 3 2 q

/-- A test ends: RESULT and FAILS are set; a fault that SECDED cannot mask maps the quire out (R151). -/
def State.marchResult (s : State) (q : Nat) (n : MarchCount) (bad : Bool) : State :=
  let res := if bad then 4 else if n.left ≠ 0 then 3 else if n.fixed ≠ 0 then 2 else 1
  let s := s.updQuire q (fun x => { x with
    march := { x.march with busy := false, run := none, result := res, fails := min n.found 65535 } })
  if bad then s.mapOutQuire q else s

/-- MARCH_COMPLETE: START clears, the quire returns to dispatch unless it is mapped out, and MARCH ends with the last test
(R146, R151, R455). -/
def execMarchComplete (q : Nat) (s : State) : Host.Outcome State Fault Refusal :=
  match (s.quire q).march.run with
  | none => ok s
  | some (n, fixed, left, bad) =>
    if !s.running then ok s
    else
      let s := s.updQuire q (fun x => { x with drain := false })
      let s := s.setReg (offMarch q) (s.reg (offMarch q) &&& 0x70)
      let s := s.marchResult q { found := n, fixed := fixed, left := left } bad
      ok (if s.quires.any (fun p => p.2.march.wait || p.2.march.busy) then s else s.holder 0 false)

-- ---------------------------------------------------------------- Thumb banks and throttling (R159, R186)

/-- Does an enabled window with HOLD_AWAKE name a bank of an array (R356)? -/
def State.heldAwake (s : State) (q bank : Nat) : Bool :=
  (List.range 16).any (fun w =>
    let c := s.reg (offWinCfg w)
    bitAt c 63 && bitAt c 62 && bits c 35 32 == q && bitAt (s.reg (offWinMask w)) bank)

/-- An owned bank idle for RETAIN_US enters retention; 0 disables retention (R159, R356). -/
def execThumbBankRetention (q bank : Nat) (s : State) : Host.Outcome State Fault Refusal :=
  if !s.running || decide (64 ≤ bank) || s.regField offThxIdle 15 0 == 0 || s.heldAwake q bank then ok s
  else ok { s with banks := Tab.upd s.banks (q * 64 + bank) (fun b => { b with retained := true }) }

/-- A woken bank is awake (R159); THUMB_BUILD starts that wait for it go on. -/
def execThumbBankWakeComplete (q bank : Nat) (s : State) : Host.Outcome State Fault Refusal :=
  if !s.running || decide (64 ≤ bank) then ok s
  else
    let s := { s with banks := Tab.upd s.banks (q * 64 + bank) (fun b =>
      if b.waking then { b with retained := false, waking := false } else b) }
    ok (((s.runs.filter (fun p => p.2.sigs.any (·.building))).map (·.1)).foldl State.buildStarts s)

/-- The limit that the temperature of an array's die gives under test and recovery (R186). -/
def State.throttleOf (s : State) (q : Nat) : Nat :=
  let t := signed (s.regField (offDie (q / 4)) 31 24) 8
  let th := s.reg offThxThrottle
  if t < (bits th 7 0 : Int) then 0 else if t < (bits th 15 8 : Int) then 1
  else if t < (bits th 23 16 : Int) then 2 else 3

/-- Does R186 limit the arrays: COLD_START, CONTAINMENT, FACTORY, or the MARCH holder? -/
def State.throttles (s : State) : Bool :=
  (match s.dev.mode with
    | .coldStart => true
    | .containment => true
    | .factory => true
    | _ => false) || s.dev.maint.contains 0

def execThumbThrottleUpdate (q : Nat) (s : State) : Host.Outcome State Fault Refusal :=
  if !s.running || decide (16 ≤ q) then ok s
  else ok (s.updQuire q (fun x => { x with throttle := if s.throttles then s.throttleOf q else 0 }))

end Sys2Proof.Machine
end

