-- ==== Sys2Proof/Machine/Slipcase.lean ====
section
/-! DEFINITION. The Slipcase as the host and the board meet it: restarts, SPDM, IDE_KM, TDISP, the XTS reserve, and the
host port's decoders, SMBus and ATS (R312, R346, R376–R399). -/
namespace Sys2Proof.Machine

-- ---------------------------------------------------------------- restarts (R394–R396)

/-- The Slipcase becomes unavailable: sessions end, the restart is counted and announced; the third within an hour boots
the golden component (R395, R396); a live activation before its step 2 ends (R465). `mech`: how it was detected; `cause`: 0 watchdog, 1 lockstep. -/
def State.slcRestart (s : State) (mech cause : Nat) : State :=
  if !s.running || !s.slcUp then s
  else
    let (n, third, s) := s.countEvent 8 0 3600000000000 3
    let s : State := { s with slc := { s.slc with
      state := 2, restarts := s.slc.restarts + 1, golden := s.slc.golden || third, sessions := 0 } }
    let s := s.logFh { kind := 0x0801, outcome := if third then 3 else 1, mech := mech, resType := 9, resIdx := 0, count := n
                       data := leBytes 4 cause }
    (s.raiseAll 7 0 0 0).dropActivation 0x5003

/-- SLIPCASE_WATCHDOG_EXPIRY. -/
def execSlipcaseWatchdogExpiry (s : State) : Host.Outcome State Fault Refusal := ok (s.slcRestart 0 0)

/-- LOCKSTEP_MISMATCH. -/
def execLockstepMismatch (s : State) : Host.Outcome State Fault Refusal := ok (s.slcRestart 7 1)

/-- Create Instance commands that waited for the Slipcase complete with their instance's XTS keys (R362). -/
def State.endCreates (s : State) : State :=
  (s.cmds.filter (fun c => c.op == 0x10 && c.phase == .running)).foldl (fun s c =>
    (s.drawXts (c.fld 0x18 1)).finish c.no 0 0 0) s

/-- SLIPCASE_RESTART_COMPLETE: service returns, the entries whose CLOSE has ended are freed, rekeys that fell due start, and
Create Instance commands that waited complete (R362, R394, R395). -/
def execSlipcaseRestartComplete (s : State) : Host.Outcome State Fault Refusal :=
  if !s.running ∨ s.slc.state ≠ 2 then ok s
  else
    let s : State := { s with slc := { s.slc with state := if s.slc.golden then 3 else 1 } }
    let s := s.raiseAll 7 1 0 0
    let s := ((s.assocs.filter (fun p => p.2.closed)).map (·.1)).foldl State.freeAssoc s
    ok ((s.startRekeys s.assocs.length).endCreates)

-- ---------------------------------------------------------------- answers on the DOE mailbox (R389)

/-- An SPDM 1.3 answer: version, code, and what follows. Codes as DMTF gives them (PRESUMED, log 41). -/
def spdmAnswer (code : Nat) (rest : Bytes) : Output := .spdm (leBytes 1 0x13 ++ leBytes 1 code ++ rest)

/-- SPDM ERROR with an error code: 3 Busy, 1 InvalidRequest, 4 UnexpectedRequest, 7 UnsupportedRequest. -/
def spdmError (e : Nat) : Output := spdmAnswer 0x7F (leBytes 1 e ++ zeros 1)

/-- Is the mailbox answered at all: the Slipcase has booted (R451)? -/
def State.doeUp (s : State) : Bool := s.running && s.slc.state != 0

/-- An answer, or Busy while the Slipcase is unavailable (R394). -/
def State.doe (s : State) (f : State → State) : State :=
  if !s.doeUp then s else if !s.slcUp then s.emit (spdmError 3) else f s

/-- Is a request's secured session open? -/
def State.secured (s : State) (x : Session) : Bool := x.secured && decide (0 < s.slc.sessions)

/-- The data that a measurement block measures (R389). -/
def State.measured (s : State) (i : Nat) : Bytes :=
  let slot := fun (k : Nat) => let x := s.col.slots.getD k {}; leBytes 8 x.version ++ leBytes 2 x.svn ++ leBytes 48 x.digest
  match i with
  | 2 => if s.slc.state = 3 then slot 0 else leBytes 2 s.slc.activeSvn ++ slot s.dev.activeSlot
  | 3 => slot s.dev.activeSlot
  | 4 => slot 0
  | 5 => leBytes 1 (b2n s.col.prodLock) ++ leBytes 2 s.col.fuseSvn
  | 6 => leBytes 8 (s.reg offHbmCfg) ++ leBytes 8 (s.reg offPgrCfg)
         ++ ((List.range 8).map (fun g => leBytes 1 (s.reg (0x610000 + 0x1000 * g)))).flatten
         ++ (s.col.domain.map (fun d => d.domain ++ leBytes 4 d.rekeyHours ++ d.ownerHash)).getD []
  | _ => []

/-- The answer of an SPDM request: code and body; a session opens with FINISH and ends with END_SESSION. -/
def State.spdm (s : State) (r : SpdmReq) : State :=
  let n := s.freeCtr
  let s := { s with freeCtr := n + 1 }
  let say := fun (code : Nat) (req : Bytes) => s.emit (spdmAnswer code (Config.answerBody code req n))
  match r with
  | .getVersion => say 0x04 []
  | .getCapabilities => say 0x61 []
  | .negotiateAlgorithms => say 0x63 []
  | .getDigests => say 0x01 []
  | .getCertificate slot off len =>
    if slot = 0 then say 0x02 (leBytes 4 off ++ leBytes 4 len) else s.emit (spdmError 1)
  | .challenge nonce => say 0x03 nonce
  | .getMeasurements i =>
    if 1 ≤ i ∧ i ≤ 6 then s.emit (spdmAnswer 0x60 (leBytes 1 i ++ Config.measure i (s.measured i)))
    else s.emit (spdmError 1)
  | .keyExchange d => say 0x64 d
  | .finish => { s with slc := { s.slc with sessions := s.slc.sessions + 1 } }.emit
      (spdmAnswer 0x65 (Config.answerBody 0x65 [] n))
  | .endSession => { s with slc := { s.slc with sessions := s.slc.sessions - 1 } }.emit
      (spdmAnswer 0x6C (Config.answerBody 0x6C [] n))
  | .other _ => s.emit (spdmError 7)

/-- SPDM_REQUEST (R389). END_SESSION acts only in an open session. -/
def execSpdmRequest (x : Session) (r : SpdmReq) (s : State) : Host.Outcome State Fault Refusal :=
  ok (s.doe (fun s => if r = .endSession ∧ !s.secured x then s.emit (spdmError 4) else s.spdm r))

/-- Does a session's requester key hash to the policy owner's (R387)? -/
def State.isOwner (s : State) (x : Session) : Bool :=
  match s.col.domain, x.mutualKey with
  | some d, some k => sha384 k == d.ownerHash
  | _, _ => false

/-- SET_DOMAIN_POLICY: any secured session while no policy exists, afterwards the owner's (R387). -/
def execSetDomainPolicy (x : Session) (domain : Bytes) (rekeyHours : Nat) (ownerHash : Bytes) (s : State) :
    Host.Outcome State Fault Refusal :=
  ok (s.doe (fun s =>
    if s.secured x && (s.col.domain.isNone || s.isOwner x) then
      let d : DomainPolicy := { domain := padTo domain 16, rekeyHours := rekeyHours, ownerHash := padTo ownerHash 48 }
      { s with col := { s.col with domain := some d } }.emit (spdmAnswer 0x7E [])
    else s.emit (spdmError 4)))

/-- ADVANCE_FUSE_SVN: the owner's request, forward, up to the SVN of the image in use (R393). -/
def execAdvanceFuseSvn (x : Session) (svn : Nat) (s : State) : Host.Outcome State Fault Refusal :=
  ok (s.doe (fun s =>
    if s.secured x && s.isOwner x && decide (s.col.fuseSvn ≤ svn) && decide (svn ≤ s.slc.activeSvn) && decide (svn ≤ 64) then
      { s with col := { s.col with fuseSvn := svn } }.emit (spdmAnswer 0x7E [])
    else s.emit (spdmError 4)))

-- ---------------------------------------------------------------- IDE_KM (R388)

/-- The slot of a key: stream 0 is the link stream, 1 to 8 the selective ones; two directions, two key sets. -/
def ideSlot (stream dir slot : Nat) : Option Nat :=
  if stream ≤ 8 ∧ dir ≤ 1 ∧ slot ≤ 1 then some (stream * 4 + dir * 2 + slot) else none

/-- An IDE_KM answer: object, stream, direction and key set, status (codes PRESUMED, log 41). -/
def ideAnswer (obj stream dir slot status : Nat) : Output :=
  .spdm (leBytes 1 obj ++ leBytes 1 stream ++ leBytes 1 status ++ leBytes 1 (slot + 2 * dir))

/-- An IDE_KM request acts only in a secured session. -/
def State.ideKm (s : State) (x : Session) (f : State → State) : State :=
  s.doe (fun s => if s.secured x then f s else s.emit (spdmError 4))

/-- IDE_KM_QUERY: the slots that hold keys and those that carry traffic. -/
def execIdeKmQuery (x : Session) (stream : Nat) (s : State) : Host.Outcome State Fault Refusal :=
  ok (s.ideKm x (fun s =>
    let has := fun (f : IdeKey → Bool) => ((List.range 4).map (fun k =>
      match Tab.find s.slc.ide (stream * 4 + k) with
      | some y => if f y then 2 ^ k else 0
      | none => 0)).foldl (· + ·) 0
    s.emit (.spdm (leBytes 1 1 ++ leBytes 1 stream ++ leBytes 1 (has (fun _ => true)) ++ leBytes 1 (has (·.go))))))

/-- IDE_KM_KEY_PROG: the key goes into the IDE engine's key store. -/
def execIdeKmKeyProg (x : Session) (stream dir slot : Nat) (key : Bytes) (s : State) : Host.Outcome State Fault Refusal :=
  ok (s.ideKm x (fun s =>
    match ideSlot stream dir slot with
    | some k => { s with slc := { s.slc with ide := Tab.set s.slc.ide k { key := key } } }.emit (ideAnswer 3 stream dir slot 0)
    | none => s.emit (ideAnswer 3 stream dir slot 2)))

/-- Sets whether a programmed key slot carries traffic; a slot that was never programmed is answered with an error. -/
def State.ideGo (s : State) (stream dir slot : Nat) (on : Bool) : State :=
  match (ideSlot stream dir slot).bind (fun k => (Tab.find s.slc.ide k).map (fun y => (k, y))) with
  | some (k, y) =>
    let other := k / 2 * 2 + (1 - k % 2)
    let ide := Tab.set s.slc.ide k { y with go := on }
    let ide := if on then Tab.upd ide other (fun z => { z with go := false }) else ide
    let set_ := (s.col.ideSettings.filter (· != stream)) ++ (if on then [stream] else [])
    { s with slc := { s.slc with ide := ide }, col := { s.col with ideSettings := set_ } }.emit (ideAnswer 6 stream dir slot 0)
  | none => s.emit (ideAnswer 6 stream dir slot 3)

/-- IDE_KM_KEY_SET_GO. -/
def execIdeKmKeySetGo (x : Session) (stream dir slot : Nat) (s : State) : Host.Outcome State Fault Refusal :=
  ok (s.ideKm x (fun s => s.ideGo stream dir slot true))

/-- IDE_KM_KEY_SET_STOP. -/
def execIdeKmKeySetStop (x : Session) (stream dir slot : Nat) (s : State) : Host.Outcome State Fault Refusal :=
  ok (s.ideKm x (fun s => s.ideGo stream dir slot false))

-- ---------------------------------------------------------------- TDISP (R390)

/-- The state of a VF's TDI: 0 CONFIG_UNLOCKED, 1 CONFIG_LOCKED, 2 RUN, 3 ERROR. -/
def State.tdi (s : State) (vf : Nat) : Nat := ((Tab.find s.slc.tdis vf).map (·.state)).getD 0

/-- A TDISP answer or error (codes PRESUMED, log 41). -/
def tdispAnswer (vf code : Nat) (rest : Bytes) : Output := .tdisp vf (leBytes 1 0x10 ++ leBytes 1 code ++ rest)

/-- A TDISP request: Busy while the Slipcase is unavailable. -/
def State.tdisp (s : State) (vf : Nat) (good : Bool) (f : State → State) : State :=
  if !s.doeUp then s
  else if !s.slcUp then s.emit (spdmError 3)
  else if good then f s
  else s.emit (tdispAnswer vf 0x7F [])

/-- LOCK_INTERFACE: accepted only while the tenant exists and holds no I/O queue. -/
def execLockInterface (vf : Nat) (s : State) : Host.Outcome State Fault Refusal :=
  let good : Bool := match s.inst? vf with
    | some x => vf != 0 && s.tdi vf == 0 && x.sqs.all (fun p => p.1 == 0) && x.cqs.all (fun p => p.1 == 0)
    | none => false
  ok (s.tdisp vf good (fun s =>
    let (nonce, s) := s.freshBytes 32
    { s with slc := { s.slc with tdis := Tab.set s.slc.tdis vf { state := 1 } } }.emit (tdispAnswer vf 0x03 nonce)))

/-- GET_DEVICE_INTERFACE_REPORT: the ranges of the VF's BAR0 instance window, and its Identify CNS 1 allotment. -/
def execGetDeviceInterfaceReport (vf : Nat) (s : State) : Host.Outcome State Fault Refusal :=
  match s.inst? vf with
  | some x => ok (s.tdisp vf (vf != 0) (fun s =>
      s.emit (tdispAnswer vf 0x04 (leBytes 8 0 ++ leBytes 8 0x100000 ++ identifyInst vf x.alloc))))
  | none => ok (s.tdisp vf false id)

/-- TDI_RUN: from CONFIG_LOCKED to RUN, on an IDE stream. -/
def execTdiRun (vf stream : Nat) (s : State) : Host.Outcome State Fault Refusal :=
  ok (s.tdisp vf (s.tdi vf == 1) (fun s =>
    { s with slc := { s.slc with tdis := Tab.set s.slc.tdis vf { state := 2, stream := stream } } }.emit (tdispAnswer vf 0x06 [])))

/-- TDI_REQUEST_REJECTED: the TDI moves to ERROR, and the VF's DMA stops until the reset. -/
def execTdiRequestRejected (vf : Nat) (s : State) : Host.Outcome State Fault Refusal :=
  if s.running && s.tdiLocked vf then
    ok { s with slc := { s.slc with tdis := Tab.upd s.slc.tdis vf (fun t => { t with state := 3 }) } }
  else ok s

-- ---------------------------------------------------------------- the XTS reserve (R382)

/-- XTS_RESERVE_REFILL: a pair for the lowest instance without one, else one more in the reserve. -/
def execXtsReserveRefill (s : State) : Host.Outcome State Fault Refusal :=
  if !s.running || !s.slcUp then ok s
  else match s.insts.find? (fun p => !Tab.has s.xts p.1) with
    | some (i, _) => ok (s.drawXts i).releaseHolds
    | none => ok { s with slc := { s.slc with reserve := min 16 (s.slc.reserve + 1) } }

-- ---------------------------------------------------------------- the host port (R312, R346)

/-- HDM_DECODER_COMMIT: software on PF 0 commits the base and size of one of the 20 decoders. -/
def execHdmDecoderCommit (k base size : Nat) (s : State) : Host.Outcome State Fault Refusal :=
  if s.powerGood && !s.stopped && decide (k < 20) then
    ok { s with hdm := Tab.set s.hdm k { base := base, size := size, committed := true } }
  else ok s

/-- SMBUS_MCTP_MESSAGE: answered with package temperature, power, MODE and fault count; a read of the held event releases
ALERT_N (R312, R503; log 40). -/
def execSmbusMctpMessage (read : Bool) (s : State) : Host.Outcome State Fault Refusal :=
  if !s.running || (s.dev.cold && decide (s.dev.coldStep < 2)) then ok s
  else
    let s := if read && !s.securePin 1 then { s with pins := { s.pins with alertN := true } } else s
    ok (s.emit (.mctp (leBytes 4 s.hottest ++ leBytes 4 (s.regField 0x700018 63 32) ++ leBytes 1 s.dev.mode.code
      ++ leBytes 8 s.col.fhNext)))

/-- ATS_INVALIDATION: no translation stays cached from one access to the next in this model, so it is answered (R312). -/
def execAtsInvalidation (i addr length : Nat) (s : State) : Host.Outcome State Fault Refusal :=
  if s.running then ok (s.emit (.atsDone i addr length)) else ok s

end Sys2Proof.Machine
end

