-- ==== Sys2Proof/Machine/Firmware.lean ====
section
/-! DEFINITION. Firmware: download, commit and live activation (R391, R392, R460–R465). -/
namespace Sys2Proof.Machine

-- ---------------------------------------------------------------- download and commit (R461, R462)

/-- FIRMWARE_IMAGE_DOWNLOAD: OFFSET and DATA_LEN are multiples of 4 KiB, the image at most 32 MiB. -/
def execFirmwareImageDownload (i sq cid : Nat) (s : State) : Host.Outcome State Fault Refusal :=
  match s.takeCmd i sq cid 5 with
  | none => ok s
  | some c =>
    let off := c.fld 0x18 4
    if i ≠ 0 then ok (s.finish c.no 0x1001 0 0)
    else if off % 4096 ≠ 0 ∨ c.dataLen % 4096 ≠ 0 ∨ 33554432 < off + c.dataLen then ok (s.finish c.no 0x1002 0 0)
    else match s.bufRead c c.dataAddr c.dataLen with
      | .wait s => ok s
      | .fail st a s => ok (s.finishAt c.no st 0 0 a)
      | .ok b s =>
        let units := (List.range (c.dataLen / 4096)).map (off / 4096 + ·)
        let s := { s.wr .colophon off b with col := { s.col with staged := dedup (s.col.staged ++ units) } }
        ok (s.finish c.no 0 0 0)

/-- A field of the staged image's header (R391). -/
def State.img (s : State) (off n : Nat) : Nat := s.rdN .colophon off n

/-- Is every 4 KiB unit of the image written since the last erase (R461)? -/
def State.imgWhole (s : State) : Bool := (List.range (ceilDiv (s.img 0x10 4) 4096)).all s.col.staged.contains

/-- Does the Slipcase accept the staged image (R392)? -/
def State.imgGood (s : State) : Bool :=
  let len := s.img 0x10 4
  s.img 0 4 == 0x49574655 && s.img 4 1 == 0xB0 && decide (s.col.fuseSvn ≤ s.img 6 2)
  && (match Config.fwKey (s.img 5 1) with
      | some k => decide (s.img 5 1 ≤ 3) && Config.verify k (s.rd .colophon 0 0x50) (s.rd .colophon 0x50 96)
      | none => false)
  && sha384 (s.rd .colophon 0x100 (len - 0x100)) == s.rd .colophon 0x20 48

/-- FIRMWARE_COMMIT (R461, R462): refused while another activation runs (R343); else verification, the atomic write of the slot,
then what ACTION asks for. -/
def execFirmwareCommit (i sq cid : Nat) (s : State) : Host.Outcome State Fault Refusal :=
  match s.takeCmd i sq cid 6 with
  | none => ok s
  | some c =>
    let action := c.fld 0x18 1
    let slot := c.fld 0x19 1
    if i ≠ 0 then ok (s.finish c.no 0x1001 0 0)
    else if 2 < action ∨ slot = 0 ∨ 2 < slot ∨ slot = s.dev.activeSlot ∨ !s.imgWhole then ok (s.endCommit c.no 0x1002 0)
    else if s.dev.act.isSome ∨ (action = 1 ∧ s.dev.contained) then ok (s.endCommit c.no 0x100A 0)
    else if !s.slcUp then ok (s.endCommit c.no 0x5003 0)
    else if !s.imgGood then ok (s.endCommit c.no 0x5004 0)
    else
      let version := s.img 8 8
      let new : FwSlot := { filled := true, version := version, svn := s.img 6 2, digest := s.img 0x20 48 }
      let s := { s with col := { s.col with slots := s.col.slots.set slot new } }
      if action = 0 then ok (s.endCommit c.no 0 version)
      else if action = 2 then ok ({ s with col := { s.col with nextSlot := slot } }.endCommit c.no 0 version)
      else ok { s.start c.no with dev := { s.dev with act := some { cmd := c.no, slot := slot }, actState := 2 } }

-- ---------------------------------------------------------------- live activation (R463–R465)

/-- ACTIVATION_LOADED: steps 1 to 4. A digest that does not match, or an unavailable Slipcase, ends the command; else the
ACTIVATE holder starts and placement pauses. -/
def execActivationLoaded (digestOk : Bool) (s : State) : Host.Outcome State Fault Refusal :=
  match s.dev.act with
  | none => ok s
  | some a =>
    if !s.serving || a.paused then ok s
    else if !s.slcUp then ok (s.dropActivation 0x5003)
    else if !digestOk then ok (s.dropActivation 0x5004)
    else
      let s := s.holder 2 true
      ok { s with dev := { s.dev with act := some { a with paused := true }, actState := 3 } }

/-- A deferred register write takes effect (R515). -/
def State.applyDeferred (s : State) (d : DeferredWrite) : State :=
  if d.off = offModeCtrl then s.holder 3 (bitAt d.value 0)
  else if isArr d.off 0x610000 0x1000 8 then s.writeGroup ((d.off - 0x610000) / 0x1000) d.value
  else if isArr d.off 0x800000 0x8000 16 then s.writeMarch ((d.off - 0x800000) / 0x8000) d.value
  else s.storeReg d.off d.value

/-- Steps 7 and 8: placement resumes, deferred writes and decisions take effect, CONTAINMENT that fell due is entered, the
holder ends, the command completes, and a device reset that was written runs (R463–R465, R515). -/
def State.endPause (s : State) (a : Activation) (status result : Nat) : State :=
  let writes := s.dev.deferred
  let due := s.dev.resetDue
  let s := { s with dev := { s.dev with act := none, actState := 0, deferred := [], resetDue := none } }
  let s := writes.foldl State.applyDeferred s
  let s := s.setDev (fun d => { d with contained := d.contained || d.containDue, containDue := false })
  let s := s.slowRelease.lateDecisions.holder 2 false
  let s := if status = 0 then s.raiseAll 6 0 4 0 else s
  let s := s.endCommit a.cmd status result
  match due with
  | some _ => s.deviceReset []
  | none => s

/-- ACTIVATION_READY: the new component is ready; the slots switch. -/
def execActivationReady (s : State) : Host.Outcome State Fault Refusal :=
  match s.dev.act with
  | none => ok s
  | some a =>
    if !s.serving || !a.paused then ok s
    else
      let s := { s with dev := { s.dev with activeSlot := a.slot }, col := { s.col with nextSlot := a.slot } }
      ok (s.endPause a 0 (s.slotVersion a.slot))

/-- ACTIVATION_TIMEOUT: the old component is restarted, ROLLBACKS increments, the image is rejected (R464). -/
def execActivationTimeout (s : State) : Host.Outcome State Fault Refusal :=
  match s.dev.act with
  | none => ok s
  | some a =>
    if !s.serving || !a.paused then ok s
    else
      let s := { s with
        dev := { s.dev with rollbacks := min 255 (s.dev.rollbacks + 1) }
        col := { s.col with slots := s.col.slots.modify a.slot (fun x => { x with rejected := true }) } }
      ok (s.endPause a 0x5004 0)

end Sys2Proof.Machine
end

