-- ==== Sys2Proof/Machine/MemCtl.lean ====
section
/-! DEFINITION. HBM and CXL controllers: Cold Start of channels and ports, refresh, patrol scrub, recalibration,
frame retirement, channel map-out, and the expansion links (R255–R273). -/
namespace Sys2Proof.Machine

-- ---------------------------------------------------------------- Cold Start of HBM (R221, R264, R266)

/-- Spreads a stack's 1,024 reserve frames evenly over its in-service channels, the lower ones taking the remainder. -/
def State.spreadReserve (s : State) : State :=
  s.hbm.chans.foldl (fun s c =>
    let mine := s.hbm.chans.filter (fun d => d / 32 == c / 32)
    s.updChan c (fun ch => { ch with reserve := share 1024 mine c })) s

/-- HBM start-up: channels without a working setting are mapped out and lane repairs recorded, the order and the page-table
region are taken from the Colophon, the reserves are held back, retirements are applied and the pool is counted (R221, R254,
R264, R266). HBM is zero, since a Cold Start clears it. -/
def State.coldHbm (s : State) (bad : List Nat) (repairs : List (Nat × Nat)) : State :=
  let s : State := { s with col := { s.col with laneRepairs := dedup (s.col.laneRepairs ++ repairs.filter (fun p => decide (p.1 < 256))) } }
  let newOut := (dedup bad).filter (fun c => decide (c < 256) && !s.col.mapChans.contains c)
  let s := newOut.foldl (fun s c =>
    let s := { s with col := { s.col with mapChans := s.col.mapChans ++ [c] } }
    s.logFh { kind := 0x0303, outcome := 4, resType := 3, resIdx := c, data := leBytes 8 0 }) s
  let chans := (List.range 256).filter (fun c => !s.col.mapChans.contains c)
  let s := { s with hbm := { order := s.regField offHbmCfg 33 32, ptFrames := s.regField offPgrCfg 31 16, chans := chans } }
  let s := (List.range 256).foldl (fun s c =>
    s.updChan c (fun _ => { state := if chans.contains c then 1 else 3, owedAt := s.timebase })) s
  let s := s.spreadReserve
  let s := s.col.retFrames.foldl (fun s f =>
    s.updPager (fun p => { p with frames := Tab.set p.frames f { alloc := false, use := 5 } })) s
  { s with hbm := { s.hbm with pool := s.freeFrames } }

/-- The 32 frames of the log buffer, from instance 0's quota, placed as ANY (R480; log 25). -/
def State.takeLogFrames (s : State) : Nat → State
  | 0 => s
  | n + 1 =>
    match s.pickUnit none none with
    | none => s
    | some u =>
      match s.takeFrame 0 u 2 0 with
      | none => s
      | some (f, s) => State.takeLogFrames (s.updFrame f (fun d => { d with logBuf := true })) n

/-- The expansion ports of Cold Start: resets released, links trained, decoded to at most 4 TiB (R271). -/
def State.coldPorts (s : State) (finds : List (Nat × Nat × Nat)) : State :=
  let mk := fun p => match finds[p]? with
    | some (b, w, sp) => if b = 0 then ({} : CxlPort) else { state := 2, width := w, speed := sp, bytes := min b (2 ^ 42) }
    | none => {}
  { s with ports := [(0, mk 0), (1, mk 1)], pins := { s.pins with cxlPerstN := [true, true] } }

-- ---------------------------------------------------------------- refresh (R255–R258)

/-- One per-bank refresh command, issued when it falls due or up to 8 ahead of time (R255, R256). -/
def execHbmRefresh (c bank : Nat) (s : State) : Host.Outcome State Fault Refusal :=
  if !s.running || decide (256 ≤ c) || decide (128 ≤ bank) then ok s
  else
    let ch := s.chan c
    if (ch.state = 1 ∨ ch.state = 2) ∧ Tab.get ch.refreshed bank 0 < s.owed ch + 8 then
      ok (s.updChan c (fun ch => ch.refresh bank 1))
    else ok s

-- ---------------------------------------------------------------- retirements, reserves and map-out (R266–R269)

/-- The DPA of burst `n`, in DPA order, of a device channel (R253, R262). -/
def scrubAddr (order c n : Nat) : Nat :=
  c / 32 * 2 ^ 36 + (match order with
    | 0 => n % 4 * 2 ^ 6 + c % 32 * 2 ^ 8 + n / 4 * 2 ^ 13
    | 1 => n % 64 * 2 ^ 6 + c % 32 * 2 ^ 12 + n / 64 * 2 ^ 17
    | 3 => n % 512 * 2 ^ 6 + c % 32 * 2 ^ 15 + n / 512 * 2 ^ 20
    | _ => c % 32 * 2 ^ 31 + n * 2 ^ 6)

/-- A scrub read finds a burst bad: a corrected one is written back, an uncorrectable one is recorded and takes the poison
pattern (R262). -/
def State.scrubbed (s : State) (dpa : Nat) (u : Upset) : State :=
  let s := s.dropUpset .hbm dpa
  match u with
  | .corrected => s.hbmCorrected dpa
  | .commandError => s.commandError dpa 0xFF
  | _ => (s.addPoison .hbm dpa 64).hbmUncorrectable dpa 0xFF false

/-- One patrol-scrub read: the row opens, and what the read finds, or what has gone bad there before, is dealt with; the last
burst ends the pass (R262). -/
def execHbmScrubRead (c : Nat) (found : CheckOutcome) (s : State) : Host.Outcome State Fault Refusal :=
  if !s.running || decide (256 ≤ c) || (s.chan c).state != 1 then ok s
  else
    let n := (s.chan c).scrub
    let dpa := scrubAddr s.hbm.order c n
    let s := s.touchRow dpa
    let what := match found with
      | .clean => Tab.find s.upsets (Space.hbm.base + dpa)
      | .corrected _ => some .corrected
      | .uncorrectable => some .uncorrectable
      | .commandError => some .commandError
    let s := ((what.map (s.scrubbed dpa)).getD s).retireFrames
    let last := n + 1 == 33554432
    let s := s.updChan c (fun ch => { ch with scrub := if last then 0 else n + 1 })
    ok (if last then s.setReg (chReg c 0x28) s.timebase else s)

/-- A recalibration: one that finds no working setting starts a map-out (R265, R267). -/
def execHbmRecalibration (c : Nat) (found : Bool) (s : State) : Host.Outcome State Fault Refusal :=
  if !s.running || decide (256 ≤ c) || (s.chan c).state != 1 then ok s
  else ok (if found then s else s.startMapOut c)

/-- The frames of a channel that hold anything: frames of instances and of page tables (R221, R267). -/
def State.usedIn (s : State) (c : Nat) : List Nat :=
  (s.pager.frames.filter (fun p => decide (p.1 / 1024 = c) && p.2.alloc && p.2.use != 4)).map (·.1)
  ++ ((List.range (if s.hbm.order = 2 then s.ptIn c else 0)).map (fun k => 1024 * c + (1023 - k))).filter (fun f => !s.col.retFrames.contains f)

/-- Moves the contents of a frame out of a channel, unless its stack has no frame free now. -/
def State.leaveChannel (s : State) (c f : Nat) : State :=
  match s.moveTarget f c with
  | none => s
  | some nf => (s.moveFrame f nf).updChan c (fun ch => { ch with migrated := ch.migrated + 1 })

/-- The page-table frames of a channel move together, once the stack has room for all of them (R221). -/
def State.tablesLeave (s : State) (c : Nat) : State :=
  let fs := (s.usedIn c).filter s.inRegion
  let room := ((List.range 32).map (fun k => if 32 * (c / 32) + k = c then 0 else s.freeIn (32 * (c / 32) + k))).foldl (· + ·) 0
  if fs = [] ∨ room < fs.length then s
  else
    let s := fs.foldl (fun s f => ((s.moveTarget f c).map (s.moveTable f)).getD s) s
    s.updChan c (fun ch => { ch with ptOut := true, migrated := ch.migrated + fs.length })

/-- Step 3 of a map-out, once the channel's Trimmer is idle: the loss is covered, which frees the reserve for it, and the
contents of every frame move to a frame of the same stack; what finds none stays for a later pass (R266, R267; log 90). -/
def State.migrateChannel (s : State) (c : Nat) : State :=
  let s := s.coverChannel c
  let s := ((s.usedIn c).filter (fun f => !s.inRegion f)).foldl (fun s f => s.leaveChannel c f) s
  (s.tablesLeave c).retireFrames

/-- A frame that is being zeroed joins the free list (R226). -/
def State.zeroFrame (s : State) (f : Nat) : State :=
  ((s.passRows (f * mib2) mib2).wipe .hbm (f * mib2) mib2).updPager (fun p => { p with frames := Tab.del p.frames f })

/-- Is any channel still migrating? -/
def State.migrating (s : State) : Bool := s.chans.any (fun p => p.2.state == 2)

/-- Steps 4 and 5: the frames left are zeroed and released, the channel is MAPPED_OUT and recorded, and MAINTENANCE may end
(R266, R267). -/
def execChannelMapOutComplete (c : Nat) (s : State) : Host.Outcome State Fault Refusal :=
  if !s.running || decide (256 ≤ c) || (s.chan c).state != 2 || s.usedIn c != [] then ok s
  else
    let s := s.coverChannel c
    let s := (s.pager.frames.filter (fun p => decide (p.1 / 1024 = c) && p.2.use == 4)).foldl (fun s p => s.zeroFrame p.1) s
    let moved := (s.chan c).migrated
    let s := s.updChan c (fun ch => { ch with state := 3 })
    let s := { s with col := { s.col with mapChans := dedup (s.col.mapChans ++ [c]), optimeSaved := s.col.optime } }
    let s := s.logFh { kind := 0x0303, outcome := 4, resType := 3, resIdx := c, data := leBytes 8 moved }
    ok (if s.migrating then s else s.holder 1 false)

/-- A frame or T1 unit has been zeroed and joins the free list (R226); numbers from 2^18 name T1 units (log 26). -/
def execFrameZeroComplete (frame : Nat) (s : State) : Host.Outcome State Fault Refusal :=
  if !s.running then ok s
  else if frame < 262144 then
    match s.frame? frame with
    | some d => if d.use = 4 then ok (s.zeroFrame frame).retireFrames else ok s
    | none => ok s
  else
    let u := frame - 262144
    match Tab.find s.pager.t1Tags u with
    | some t =>
      if t.use = 4 then
        let s := (s.wipe .t1 (u * kib64) kib64).updPager (fun p => { p with t1Tags := Tab.del p.t1Tags u })
        -- a CXL_PORT cause is resolved once no T1 unit is left on the mapped-out port (R457)
        let p := u / 2 ^ 47
        ok (if (s.port p).state = 3 ∧ !s.pager.t1Tags.any (fun t => t.1 / 2 ^ 47 == p) then s.resolveCause 2 4 p else s)
      else ok s
    | none => ok s

-- ---------------------------------------------------------------- expansion links (R273)

/-- A port's link goes down in service: it starts retraining, and requests wait (R273). -/
def State.linkDown (s : State) (p : Nat) : State :=
  if (s.port p).state = 2 then
    ({ s with ports := Tab.set s.ports p { s.port p with state := 1, width := 0, speed := 0 } }).count
      (cxlReg p 0x20) 1
  else s

def execCxlLinkDown (p : Nat) (s : State) : Host.Outcome State Fault Refusal :=
  if s.running && decide (p < 2) then ok (s.linkDown p) else ok s

/-- The retrain succeeds: the port is UP again at x16 and 64 GT/s unless its last width was other (R273; log 27). -/
def execCxlLinkRetrainComplete (p : Nat) (s : State) : Host.Outcome State Fault Refusal :=
  if s.running && decide (p < 2) && (s.port p).state == 1 then
    ok ({ s with ports := Tab.set s.ports p { s.port p with state := 2, width := 4, speed := 2 } } : State).releaseHolds
  else ok s

/-- The port is mapped out: its units leave the pool; CONTAINMENT when an instance holds T1 units on it (R273). -/
def State.mapOutPort (s : State) (p : Nat) : State :=
  let s := { s with ports := Tab.set s.ports p { s.port p with state := 3, width := 0, speed := 0 }
                    col := { s.col with mapPorts := dedup (s.col.mapPorts ++ [p]), optimeSaved := s.col.optime } }
  let s := s.logFh { kind := 0x0402, outcome := 4, mech := 8, resType := 4, resIdx := p }
  let s := s.releaseHolds
  if s.pager.t1Tags.any (fun t => t.1 / 2 ^ 47 == p && t.2.use != 4) then s.openCause 2 4 p else s

def execCxlRetrainTimeout (p : Nat) (s : State) : Host.Outcome State Fault Refusal :=
  if s.running && decide (p < 2) && (s.port p).state == 1 then ok (s.mapOutPort p) else ok s

end Sys2Proof.Machine
end

