-- ==== Sys2Proof/Machine/Boot.lean ====
section
/-! DEFINITION. The end of Cold Start, the reference clocks and the pulse-per-second signals (R286, R359, R451–R454, R502,
R503). -/
namespace Sys2Proof.Machine

-- ---------------------------------------------------------------- what Cold Start finds (R451 steps 5–8, R454)

/-- Step 5: engines without a working march leave service; spares stand in (R13, R127). -/
def State.coldEngines (s : State) (bad : List Nat) : State :=
  (dedup bad).foldl (fun s p =>
    if s.col.retiredEng.contains p ∨ 264 ≤ p then s
    else match (List.range 256).find? (fun e => s.phys e == some p) with
      | some e => s.retireEngine e p 0
      | none =>
        { s with col := { s.col with retiredEng := s.col.retiredEng ++ [p], optimeSaved := s.col.optime } }.logFh
          { kind := 0x0102, outcome := 3, resType := 1, resIdx := p, data := leBytes 4 0xFFFF }) s

/-- Step 5: the destructive march of every quire's memory, after the soft repairs on record: failing and marked columns take
spares, RESULT and FAILS tell what it found, and a quire with a fault that SECDED cannot mask is mapped out (R143, R149–R151,
R153). -/
def State.coldQuires (s : State) (fails : List (Nat × Nat × Nat × Nat)) (bad : List Nat) : State :=
  (List.range 16).foldl (fun (s : State) q =>
    let mine := (fails.filter (fun f => f.1 == q)).map (fun f => (f.2.1 % 64, f.2.2.1 % 8, f.2.2.2))
    let (n, s) := (s.marchZero q 0).repairQuire q mine
    s.marchResult q n (bad.contains q)) s

/-- The islands whose clock is lost hold their groups' ports down (R502). -/
def State.fabClockLost (s : State) (g : Nat) : Bool := s.clkLost.any (fun c => match c with
  | .fab k => k.val == g / 2
  | _ => false)

/-- Step 8: lanes without a working setting are retired, and the ports of every group train (R308, R309). -/
def State.coldFabric (s : State) (bad : List Nat) : State :=
  let new := (dedup bad).filter (fun l => decide (l < 128) && !s.col.retLanes.contains l)
  let s := new.foldl (fun s l =>
    { s with col := { s.col with retLanes := s.col.retLanes ++ [l], optimeSaved := s.col.optime } }.logFh
      { kind := 0x0501, outcome := 3, resType := 5, resIdx := l, data := leBytes 4 0 }) s
  let ports := (List.range 8).flatMap (fun g =>
    s.groupPorts g (bits (s.reg (offGroupCfg g)) 2 0) (if s.fabClockLost g then 3 else 2))
  { s with fab := { ports := ports, udp := s.regField offFabCfg 47 32 } }

/-- Steps 9 and 10: the XTS reserve, instance 0 with its allotment, the log buffer, the mode, a held INST_CTRL.EN (R359, R398,
R453, R480). -/
def State.coldEnd (s : State) : State :=
  let s := { s with slc := { s.slc with reserve := 16 } }.makeInst 0 managerAlloc
  let s := { s with slc := { s.slc with reserve := 16 } }.takeLogFrames 32
  let s := s.setDev (fun d => { d with cold := false, coldStep := 0, contained := d.causes != [], serviceAt := s.timebase })
  if s.dev.heldEn then ({ s with dev := { s.dev with heldEn := false } }.setWinReg 0 8 1).openAdmin 0 else s

/-- The host link is up, at what it trained down to; a link that stayed up through a device reset stays as it is (R312, R451,
R459). -/
def State.linkUp (s : State) (l : Nat × Nat) : State := { s with link := s.link.orElse (fun _ => some l) }

/-- COLD_START_COMPLETE: the parallel steps end with what they found, then steps 9 and 10 (R451, R454). -/
def execColdStartComplete (f : ColdFinds) (s : State) : Host.Outcome State Fault Refusal :=
  if !s.running || !s.dev.cold || !s.dev.booted || s.dev.restart || s.dev.coldFail != 0 then ok s
  else ok (((((((s.coldEngines f.badEngines).coldQuires f.marchFails f.badQuires).coldHbm f.badChannels f.laneRepairs).coldPorts f.ports).coldFabric
    f.badLanes).coldEnd).linkUp f.link)

-- ---------------------------------------------------------------- reference clocks (R502)

/-- The number of a clock in its fault-history record (log 42). -/
def clkCode : RefClk → Nat
  | .fab k => k.val
  | .pcie => 4
  | .cxl p => 5 + p.val
  | .hbm => 7
  | .aon => 8

/-- Ports of two groups go down, or train when the clock returns; nothing is charged to a lane (R502). -/
def State.fabClock (s : State) (k : Nat) (lost : Bool) : State :=
  let hit := fun (p : Nat × FabPort) => decide (p.1 / 32 = k) && p.2.state != 4 && (if lost then p.2.state != 3 else p.2.state == 3)
  let s := { s with fab := { s.fab with ports := s.fab.ports.map (fun p =>
    if hit p then (p.1, p.2.goDown (if lost then 3 else 1) []) else p) } }
  if lost then s.portGone (fun l => l / 32 == k) else s

/-- REFCLK_LOSS: recorded, with the effect of that clock's loss. The AON island goes on with its own oscillator; HBM channels
hold their frequency. -/
def execRefclkLoss (c : RefClk) (s : State) : Host.Outcome State Fault Refusal :=
  if !s.running || s.clkLost.contains c then ok s
  else
    let s := { s with clkLost := s.clkLost ++ [c] }.logFh { kind := 0x0902, outcome := 7, resType := 0, resIdx := (clkCode c), data := leBytes 4 (clkCode c) }
    match c with
    | .fab k => ok (s.fabClock k.val true)
    | .pcie => ok (s.hotReset [])
    | .cxl p => ok (s.linkDown p.val)
    | .hbm => ok s
    | .aon => ok s

/-- REFCLK_RETURN: ports train; the cause OTHER that HBM_REFCLK opened is resolved once the channels have recalibrated. -/
def execRefclkReturn (c : RefClk) (s : State) : Host.Outcome State Fault Refusal :=
  if !s.running || !s.clkLost.contains c then ok s
  else
    let s := { s with clkLost := s.clkLost.filter (· != c) }
    match c with
    | .fab k => ok (s.fabClock k.val false)
    | .hbm => ok (s.resolveCause 7 3 0xFFFF)
    | .pcie => ok s
    | .cxl _ => ok s
    | .aon => ok s

/-- HBM_REFCLK_HOLD_EXPIRY: the clock is still lost after 100 µs. -/
def execHbmRefclkHoldExpiry (s : State) : Host.Outcome State Fault Refusal :=
  if s.serving && s.clkLost.contains .hbm then ok (s.openCause 7 3 0xFFFF) else ok s

-- ---------------------------------------------------------------- pulse per second (R286, R503)

/-- PPS_IN_EDGE: the edge is timestamped; ignored before power-good. -/
def execPpsInEdge (s : State) : Host.Outcome State Fault Refusal :=
  if s.running then ok { s with ppsStamp := s.timebase, pins := { s.pins with ppsIn := true } } else ok s

/-- PPS_OUT_EDGE: the AON island drives an edge; PPS_OUT stays as it is while the Slipcase holds the pin (R380). -/
def execPpsOutEdge (s : State) : Host.Outcome State Fault Refusal :=
  if s.serving && !s.securePin 0 then ok ({ s with pins := { s.pins with ppsOut := !s.pins.ppsOut } }.emit .ppsOut) else ok s

end Sys2Proof.Machine
end

