-- ==== Sys2Proof/Machine/Copy.lean ====
section
/-! DEFINITION. The copy engines (R419–R433). -/
namespace Sys2Proof.Machine

def State.copyChan (s : State) (c : Nat) : Option CopyChan := Tab.find s.copies c
def State.updCopy (s : State) (c : Nat) (f : CopyChan → CopyChan) : State := { s with copies := Tab.upd s.copies c f }

/-- The device channel of a local one (R419). -/
def State.copyOf (s : State) (i k : Nat) : Option Nat :=
  (s.copies.find? (fun p => p.2.inst == i && p.2.local_ == k)).map (·.1)

-- ---------------------------------------------------------------- descriptors (R421, R424)

/-- A copy descriptor. -/
structure CopyDesc where
  next  : Nat
  src   : Nat
  dst   : Nat
  len   : Nat
  sbeat : Nat
  dbeat : Nat
  flags : Nat
  iv    : Nat
  tag   : Nat
  zero  : Bool
deriving DecidableEq, Repr

def copyDesc (b : Bytes) : CopyDesc :=
  { next := fld b 0 8, src := fld b 8 8, dst := fld b 0x10 8, len := fld b 0x18 4, sbeat := fld b 0x1C 1,
    dbeat := fld b 0x1D 1, flags := fld b 0x1E 1, iv := fld b 0x1F 1, tag := fld b 0x28 8, zero := zeroAt b 0x30 16 }

def CopyDesc.sspace (d : CopyDesc) : Nat := d.flags % 4
def CopyDesc.dspace (d : CopyDesc) : Nat := d.flags / 4 % 4
def CopyDesc.settle (d : CopyDesc) : Bool := bitAt d.flags 4
def CopyDesc.writeback (d : CopyDesc) : Bool := bitAt d.flags 5
def CopyDesc.intr (d : CopyDesc) : Bool := bitAt d.flags 6
def CopyDesc.fill (d : CopyDesc) : Bool := bitAt d.flags 7

/-- Is an address of NEXT form well formed: bits [5:1] zero, and no descriptor at host address 0 (R421)? -/
def nextOk (n : Nat) : Bool := n / 2 % 32 == 0 && n / 64 != 0 || n == 1

/-- Are bits outside [27:24] and [22:0] of a QUIRE address zero (R421)? -/
def quireAddrOk (a : Nat) : Bool := decide (a < 2 ^ 28) && !bitAt a 23

/-- Does a descriptor pass R424? Ranges that leave the quire's 6 MiB are denied when they are accessed (R139). -/
def CopyDesc.ok (d : CopyDesc) : Bool :=
  (d.next == 0 || nextOk d.next) && decide (1 ≤ d.len)
  && (d.fill || (decide (1 ≤ d.sbeat) && decide (d.sbeat ≤ 64) && d.sspace != 3 && (d.sspace != 2 || quireAddrOk d.src)))
  && decide (1 ≤ d.dbeat) && decide (d.dbeat ≤ 64) && d.dspace != 3 && (d.dspace != 2 || quireAddrOk d.dst)
  && (if d.intr then decide (d.iv ≤ 63) else d.iv == 0) && d.zero

-- ---------------------------------------------------------------- accesses of a channel

/-- A read of `n` bytes at an address of NEXT form. -/
def State.descRead (s : State) (c i a n : Nat) : Acc Bytes :=
  let at_ := a - a % 64
  if bitAt a 0 then s.devRead (.copy c) i at_ n
  else match s.hostRead i at_ n with
    | .ok b => .ok b s
    | .error st => .fail st at_ s

/-- The check of a QUIRE access by master 19: the quire in service, below the windows, granted by the instance's regions;
a denial is recorded (R139, R140). -/
def State.quireFault (s : State) (i a n : Nat) (k : Kind) : Option (Nat × State) :=
  let q := a / 2 ^ 24
  let o := a % 2 ^ 23
  let s := s.loadRegion q 19 i
  if s.col.mapQuires.contains q then some (0x4002, s)
  else if 0x600000 < o + n ∨ !s.regionOk i o n k then
    some (0x5002, s.logFh { kind := 0x0601, status := 0x5002, outcome := 6, mech := 11, inst := i, resType := 2, resIdx := q
                            addr := o, data := leBytes 8 19 })
  else none

/-- A read of `n` source bytes. -/
def State.copyRead (s : State) (c i space a n : Nat) : Acc Bytes :=
  match space with
  | 0 => match s.hostRead i a n with
    | .ok b => .ok b s
    | .error st => .fail st a s
  | 1 => s.devRead (.copy c) i a n
  | _ =>
    match s.quireFault i a n .load with
    | some (st, s) => .fail st a s
    | none =>
      let q := a / 2 ^ 24
      let o := a % 2 ^ 23
      let s := (s.qmTouch q).spineCount q 19 (wordsOf o n) i
      if s.poisoned (.quire q) o n then .fail 0x3001 a s else .ok (s.portRead true q o n) s

/-- A write of destination bytes. -/
def State.copyWrite (s : State) (c i space a : Nat) (b : Bytes) : Acc Unit :=
  match space with
  | 0 => .ok () (s.hostWrite i a b)
  | 1 => s.devWrite (.copy c) i a b
  | _ =>
    match s.quireFault i a b.length .store with
    | some (st, s) => .fail st a s
    | none => .ok () (((s.qmTouch (a / 2 ^ 24)).spineWrite (a / 2 ^ 24) (a % 2 ^ 23) b).spineCount (a / 2 ^ 24) 19 (wordsOf (a % 2 ^ 23) b.length) i)

/-- The FILL pattern from byte `k` on (R422). -/
def fillBytes (pat k n : Nat) : Bytes :=
  let p := leBytes 8 pat
  (List.range n).map (fun j => p.getD ((k + j) % 8) 0)

/-- Do the two ranges of a descriptor overlap so that the destination is undefined (R428)? -/
def CopyDesc.clash (d : CopyDesc) : Bool :=
  !d.fill && d.sspace == d.dspace && decide (d.src < d.dst) && decide (d.dst < d.src + d.len)

-- ---------------------------------------------------------------- the ends of a descriptor (R425–R427)

/-- Ends a channel's work in HALTED (R426). -/
def CopyChan.halted (x : CopyChan) (st : Nat) : CopyChan :=
  { x with state := 3, desc := none, pos := 0, done := false, next := 0, fault := 0, halt := false, last := st }

/-- A late write error: its own record, and HALTED after the descriptor in progress (R427). -/
def State.lateError (s : State) (c desc tag cause : Nat) : State :=
  match s.copyChan c with
  | none => s
  | some x =>
    let s := s.logErr 4 0x3005 x.inst 0 0xFFFF 0 x.local_ desc tag cause
    s.updCopy c (fun x =>
      let x := { x with late := x.late + 1, last := 0x3005 }
      if x.state = 1 ∧ x.desc.isSome ∧ !x.done then { x with halt := true }
      else if x.state = 1 ∨ x.state = 2 then x.halted 0x3005
      else x)

/-- The write-back of STATUS and DONE (R425); `none`: its page must be restored first. A write-back that faults is a late
write error. -/
def State.copyBack (s : State) (c : Nat) (x : CopyChan) (d : CopyDesc) (st : Nat) : Option State × State :=
  if !d.writeback then (some s, s)
  else
    let a := x.cur - x.cur % 64
    let b := leBytes 2 st ++ [1] ++ zeros 5
    if bitAt x.cur 0 then
      match s.devWrite (.copy c) x.inst (a + 0x20) b with
      | .ok _ s => (some s, s)
      | .wait s => (none, s)
      | .fail f _ s => let s := s.lateError c a d.tag f; (some s, s)
    else let s := s.hostWrite x.inst (a + 0x20) b; (some s, s)

/-- A descriptor fails: write-back, error record, HALTED (R426). `d`: the descriptor, when it has been read. -/
def State.copyFail (s : State) (c : Nat) (st : Nat) : State :=
  match s.copyChan c with
  | none => s
  | some x =>
    let d := copyDesc (x.desc.getD [])
    match (if x.desc.isSome then s.copyBack c x d st else (some s, s)) with
    | (none, s) => s.updCopy c (fun x => { x with fault := st })
    | (some s, _) =>
      let s := s.logErr 3 st x.inst 0 0xFFFF 0 x.local_ (x.cur - x.cur % 64) d.tag 0
      (s.forget (.copy c)).updCopy c (·.halted st)

/-- Makes what a failed descriptor has not written undefined, as far as it can be written at once (R426). -/
def State.copyJunk (s : State) (i : Nat) (d : CopyDesc) (pos : Nat) : State :=
  let n := d.len - pos
  let (b, s) := s.freshBytes n
  match d.dspace with
  | 0 => s.hostWrite i (d.dst + pos) b
  | 1 => (piecesOf (d.dst + pos) n).foldl (fun s p =>
      match s.xlate i p.1 true with
      | .t0 _ _ => (s.touchPage i p.1 true).writePiece i p.1 ((b.drop (p.1 - (d.dst + pos))).take p.2)
      | _ => s) s
  | _ =>
    let o := (d.dst + pos) % 2 ^ 23
    if o + n ≤ 0x600000 ∧ s.regionOk i o n .store ∧ !s.col.mapQuires.contains (d.dst / 2 ^ 24) then
      (s.spineWrite (d.dst / 2 ^ 24) o b).spineCount (d.dst / 2 ^ 24) 19 (wordsOf o n) i
    else s

/-- Reads the NEXT of the last completed descriptor again: onwards, or ENDED (R431). -/
def State.nextAgain (s : State) (c : Nat) (x : CopyChan) : State :=
  let s := s.updCopy c (fun y => { y with resume := false })
  match s.descRead c x.inst x.cur 8 with
  | .wait s => s
  | .fail st _ s => (s.updCopy c (fun y => { y with desc := none })).copyFail c st
  | .ok b s =>
    let n := ofLe b
    if n = 0 then s.updCopy c (fun y => { y with state := 2, desc := none, done := false, next := 0 })
    else if nextOk n then s.updCopy c (fun y => { y with desc := none, done := false, next := n })
    else (s.updCopy c (fun y => { y with desc := none })).copyFail c 0x1002

/-- Takes the NEXT of a completed descriptor (R425, R427, R431). -/
def State.takeNext (s : State) (c : Nat) : State :=
  match s.copyChan c with
  | none => s
  | some x =>
    if x.halt then s.updCopy c (·.halted 0x3005)
    else
      let n := (copyDesc (x.desc.getD [])).next
      if n = 0 then s.nextAgain c x
      else s.updCopy c (fun y => { y with desc := none, done := false, next := n })

-- ---------------------------------------------------------------- moving (R422, R426, R428)

/-- Moves a descriptor's bytes from where it stands, in pieces within one 64 KiB page on each side. -/
def State.moveBeats (s : State) (c i : Nat) (d : CopyDesc) : Nat → Nat → State
  | 0, _ => s
  | n + 1, pos =>
    let s := s.updCopy c (fun x => { x with pos := pos })
    if d.len ≤ pos then s
    else
      let k := min (d.len - pos) (min (kib64 - (d.src + pos) % kib64) (kib64 - (d.dst + pos) % kib64))
      let got : Acc Bytes := if d.fill then .ok (fillBytes d.src pos k) s else s.copyRead c i d.sspace (d.src + pos) k
      match got with
      | .wait s => s
      | .fail st _ s => (s.copyJunk i d pos).copyFail c st
      | .ok b s =>
        let (b, s) := if d.clash then s.freshBytes k else (b, s)
        match s.copyWrite c i d.dspace (d.dst + pos) b with
        | .wait s => s
        | .fail st _ s => (s.copyJunk i d pos).copyFail c st
        | .ok _ s => State.moveBeats (s.updCopy c (fun x => { x with bytes := x.bytes + k })) c i d n (pos + k)

-- ---------------------------------------------------------------- rows

/-- COPY: reads and checks the first descriptor; the channel takes the chain, or the command fails and the channel is
HALTED without moving data (R419, R420). -/
def execCopy (i sq cid : Nat) (s : State) : Host.Outcome State Fault Refusal :=
  match s.openCmd i sq cid 0x46 with
  | none => ok s
  | some c =>
    let s := s.start c.no
    let k := c.fld 0x18 1
    let first := c.fld 0x20 8
    match s.copyOf i k with
    | none => ok (s.finish c.no 0x1002 0 0)
    | some ch =>
      let x := (s.copyChan ch).getD { inst := i, local_ := k }
      if bitAt (s.reg 0x110) ch then ok (s.finish c.no 0x5002 0 0)
      else if x.state = 1 then ok (s.finish c.no 0x1002 0 0)
      else
        let bad := fun (s : State) (st a : Nat) => (((s.forget (.cmd c.no)).updCopy ch (·.halted st)).finishAt c.no st 0 0 a)
        if first % 64 ≠ 0 ∨ (first = 0 ∧ !c.devAddr) then ok (bad s 0x1002 first)
        else match s.bufRead c first 64 with
          | .wait s => ok s
          | .fail st a s => ok (bad s st a)
          | .ok b s =>
            if !(copyDesc b).ok then ok (bad s 0x1002 first)
            else
              let s := s.updCopy ch (fun x => { x with
                state := 1, cur := first + b2n c.devAddr, desc := some b, pos := 0, done := false, next := 0, fault := 0
                halt := false, resume := false })
              ok ((s.forget (.cmd c.no)).finish c.no 0 0 0)

/-- COPY_DESCRIPTOR_START: the channel reads its next descriptor if it holds none, and moves the bytes of the one it
holds; a wait for a page keeps its place (R422, R423). -/
def execCopyDescriptorStart (c : Nat) (s : State) : Host.Outcome State Fault Refusal :=
  match s.copyChan c with
  | none => ok s
  | some x =>
    if x.state ≠ 1 ∨ !s.running then ok s
    else if x.fault ≠ 0 then ok (s.copyFail c x.fault)
    else if x.done then ok s
    else match x.desc with
      | some b => let d := copyDesc b; ok (s.moveBeats c x.inst d (d.len / 32768 + 4) x.pos)
      | none =>
        match s.descRead c x.inst x.next 64 with
        | .wait s => ok s
        | .fail st _ s => ok ((s.updCopy c (fun x => { x with cur := x.next })).copyFail c st)
        | .ok b s =>
          let d := copyDesc b
          let s := s.updCopy c (fun x => { x with cur := x.next, next := 0, desc := some b, pos := 0 })
          ok (if d.ok then s.pastArrivals.moveBeats c x.inst d (d.len / 32768 + 4) 0 else s.copyFail c 0x1002)

/-- COPY_DESCRIPTOR_COMPLETE: once the last write has left, the write-back, the interrupt and NEXT, in this order (R425,
R431). -/
def execCopyDescriptorComplete (c : Nat) (s : State) : Host.Outcome State Fault Refusal :=
  match s.copyChan c with
  | none => ok s
  | some x =>
    match x.desc with
    | none => ok s
    | some b =>
      let d := copyDesc b
      if x.state ≠ 1 ∨ x.fault ≠ 0 ∨ x.pos < d.len ∨ !s.running then ok s
      else if x.done then ok (s.takeNext c)
      else match s.copyBack c x d 0 with
        | (none, s) => ok s
        | (some s, _) =>
          let s := if d.intr then s.signal x.inst d.iv else s
          ok (((s.forget (.copy c)).updCopy c (fun x => { x with done := true })).takeNext c)

/-- The status that a failure gives (R426). -/
def copyStatus : CopyCause → Nat
  | .readFault => 0x1006
  | .denied => 0x5002
  | .poison => 0x3001
  | .writeError st => st
  | .mappedOut => 0x4002

/-- COPY_DESCRIPTOR_FAIL: a fault of the descriptor in progress halts its channel (R426). -/
def execCopyDescriptorFail (c : Nat) (cause : CopyCause) (s : State) : Host.Outcome State Fault Refusal :=
  match s.copyChan c with
  | none => ok s
  | some x =>
    if x.state ≠ 1 ∨ x.desc.isNone ∨ x.done ∨ x.fault ≠ 0 ∨ !s.running then ok s
    else ok ((s.copyJunk x.inst (copyDesc (x.desc.getD [])) x.pos).copyFail c (copyStatus cause))

/-- COPY_LATE_WRITE_ERROR (R427). -/
def execCopyLateWriteError (c : Nat) (desc tag : Word) (cause : Nat) (s : State) : Host.Outcome State Fault Refusal :=
  if s.running then ok (s.lateError c desc.toNat tag.toNat cause) else ok s

/-- COPY_RESUME_DOORBELL: RESUME_PENDING on a RUNNING channel; an ENDED one reads its last NEXT again; ignored from the
first step of a quiesce (R430–R432). -/
def execCopyResumeDoorbell (i k : Nat) (stores : HostStores) (s : State) : Host.Outcome State Fault Refusal :=
  let s := s.hostStore i stores
  match s.inst? i, s.copyOf i k with
  | some x, some c =>
    if !s.serving ∨ x.quiescing ∨ x.quiesced then ok s
    else match s.copyChan c with
      | none => ok s
      | some y =>
        if y.state = 1 then ok (s.updCopy c (fun y => { y with resume := true }))
        else if y.state = 2 then
          let s := s.updCopy c (fun y => { y with state := 1, resume := false, desc := some (zeros 64), pos := 64, done := true })
          ok (s.takeNext c)
        else ok s
  | _, _ => ok s

end Sys2Proof.Machine
end

