-- ==== Sys2Proof/Machine/Cutter.lean ====
section
/-! DEFINITION. The Cutter: cutting a started signature's input into leaves and inserting them into ready-leaf slots
(R38, R39, R58, R172, R180, R191, R193, R203, R300). -/
namespace Sys2Proof.Machine

-- ---------------------------------------------------------------- channels and home quires (R58, R193)

/-- The next channel in service at or above one, wrapping from 255 to 0 (R58). -/
def State.chanFrom (s : State) (c : Nat) : Nat :=
  ((((List.range 256).map (fun k => (c + k) % 256)).find? (fun d => !s.col.mapChans.contains d))).getD c

/-- The channel of T0 that holds a byte, under the mapping order in use. -/
def State.t0Channel (s : State) (i va : Nat) : Option Nat :=
  match s.range? i va with
  | some r =>
    if r.direct then none
    else match s.page? i (r.pageOf va) with
      | some g => if g.state == .t0 || g.state == .movingOut then some (mapDpa s.hbm.order (g.loc + va % r.page)).dev else none
      | none => none
  | none => none

/-- The channel of page group `k` of a list, whose stream 0 body lies at `va`, and whether it is its own (R58). -/
def State.groupChannel (s : State) (i va k : Nat) : Nat × Bool :=
  match s.t0Channel i va with
  | some c => (c, true)
  | none =>
    let back := (s.chanFrom (k % 256), false)
    match s.range? i va with
    | some r =>
      if r.direct ∨ r.place = 0 ∨ (r.inPlace ∧ r.home ≠ 0) then back
      else match s.page? i (r.pageOf va) with
        | some g => (s.chanFrom g.channel, true)
        | none => match r.wantChannel (r.pageOf va) with
          | some c => (s.chanFrom c, true)
          | none => back
    | none => back

/-- The quire of the channel that holds a byte in T0 under ORDER_C (R193). -/
def State.homeOf (s : State) (i va : Nat) : Option Nat :=
  if s.hbm.order = 2 then (s.t0Channel i va).map (· / 16) else none

-- ---------------------------------------------------------------- the next leaf of a source

/-- A leaf about to be cut. -/
structure Cut where
  src     : LeafSrc
  home    : Option Nat
  next    : Nat            -- position of the Cutter after it
  drained : Bool
  assoc   : Option Nat := none

/-- What the Cutter finds. -/
inductive Plan where
  | none_ (s : State)      -- nothing to cut now
  | drained (s : State)    -- nothing is left
  | leaf (c : Cut) (s : State)

/-- The descriptors of page group `k`. -/
def State.groupRead (s : State) (r : Run) (g : SigInfo) (w k : Nat) : Acc (List Bytes) :=
  let cnt := min w (g.se - k * w)
  match s.devRead (.cmd r.cmd) r.inst (g.so + 64 * (k * w)) (64 * cnt) with
  | .ok d s => .ok (Machine.groups 64 cnt d) s
  | .wait s => .wait s
  | .fail st a s => .fail st a s

/-- Takes further page groups of one channel while the limits hold; `none`: a page must be restored first. -/
def State.moreGroups (s : State) (r : Run) (g : SigInfo) (w ch : Nat) : Nat → Nat → Nat → Nat → Option Nat × State
  | 0, k, _, _ => (some k, s)
  | n + 1, k, rows, bytes =>
    match s.groupRead r g w k with
    | .wait s => (none, s)
    | .fail _ _ s => (some k, s)
    | .ok ds s =>
      let rows := rows + groupRows ds
      let bytes := bytes + groupBytes r.image g ds
      if g.rows < rows ∨ g.bytes < bytes ∨ (s.groupChannel r.inst (fld (ds.headD []) 0x10 8) k).1 ≠ ch then (some k, s)
      else State.moreGroups s r g w ch n (k + 1) rows bytes

/-- TRIMMER_SCAN: consecutive page groups of one channel; a group whose descriptors cannot be read makes a leaf of its
own, which its Trimmer fails. -/
def State.planScan (s : State) (r : Run) (g : SigInfo) (x : SigRun) : Plan :=
  let w := max 1 (tpStreams (section_ r.image g.trim))
  let total := ceilDiv g.se w
  let k := x.cutAt
  if total ≤ k then .drained s
  else
    let one := fun (ch : Nat) (own : Bool) (next : Nat) =>
      ({ src := .scan (k * w) (min (next * w) g.se - k * w) ch, home := if own then some (ch / 16) else none
         next := next, drained := decide (total ≤ next) } : Cut)
    match s.groupRead r g w k with
    | .wait s => .none_ s
    | .fail _ _ s => .leaf (one (s.chanFrom (k % 256)) false (k + 1)) s
    | .ok ds s =>
      let (ch, own) := s.groupChannel r.inst (fld (ds.headD []) 0x10 8) k
      match s.moreGroups r g w ch (total - k - 1) (k + 1) (groupRows ds) (groupBytes r.image g ds) with
      | (none, s) => .none_ s
      | (some next, s) => .leaf (one ch own next) s

/-- The chunks that a PARTITION_BUFFER source consumes, in order, with their addresses (R178, R180). -/
def Run.bufferChunks (r : Run) (g : SigInfo) : List (Nat × Chunk) :=
  let f := g.so % 65536
  let m := sigMap r.image (sigInfo r.image f)
  let cs := ((r.sig f).chunks.zipIdx).filter (fun c => decide (bits g.so 31 16 ≤ c.1.part) && decide (c.1.part ≤ bits g.so 47 32))
  (sortBy (fun a b => decide (a.1.part ≤ b.1.part)) cs).map (fun c => (m.base + 65536 + c.2 * m.chunk, c.1))

/-- How many units from the front keep both limits, at least one. -/
def unitsThatFit (rows bytes : Nat) : List (Nat × Nat) → Nat → Nat → Nat
  | [], _, _ => 0
  | (n, b) :: r, pr, pb =>
    if rows < pr + n ∨ bytes < pb + b then 0 else 1 + unitsThatFit rows bytes r (pr + n) (pb + b)

/-- PARTITION_BUFFER: whole chunks. -/
def State.planBuffer (s : State) (r : Run) (g : SigInfo) (x : SigRun) : Plan :=
  let all := r.bufferChunks g
  match all.drop x.cutAt with
  | [] => .drained s
  | rest =>
    let n := max 1 (unitsThatFit g.rows g.bytes (rest.map (fun c => (c.2.real, c.2.used - 64))) 0 0)
    let addrs := (rest.take n).map (·.1)
    .leaf { src := .chunks addrs, home := s.homeOf r.inst (addrs.headD 0), next := x.cutAt + n
            drained := decide (all.length ≤ x.cutAt + n) } s

/-- MERGER_OUTPUT: records of the merged sequence; a run table that cannot be read makes one leaf, which the merger
fails. -/
def State.planMerge (s : State) (r : Run) (g : SigInfo) (x : SigRun) : Plan :=
  match s.devRead (.cmd r.cmd) r.inst g.so (32 * g.se) with
  | .wait s => .none_ s
  | .fail _ _ s =>
    if x.drained then .drained s else .leaf { src := .merge x.cutAt 0, home := x.merger, next := x.cutAt, drained := true } s
  | .ok d s =>
    let es := Machine.groups 32 g.se d
    let total := (es.map (fun e => fld e 8 8)).foldl (· + ·) 0
    if total ≤ x.cutAt then .drained s
    else
      let n := min (total - x.cutAt) (max 1 (min g.rows (g.bytes / (fld (es.headD []) 0x10 1 + 8))))
      .leaf { src := .merge x.cutAt n, home := x.merger, next := x.cutAt + n, drained := decide (total ≤ x.cutAt + n) } s

/-- The messages of an association that the Cutter has not taken. -/
def Assoc.uncut (a : Assoc) : List InMsg := a.msgs.filter (fun m => decide (a.cutNo ≤ m.no))

/-- The bytes at which a leaf of an inbox closes: LEAF_BYTES, but no more than each of the inbox's SOURCE_EXTRA associations
may leave uncut while the others complete their partial messages (R299; DESIGN CHOICE, log 33). -/
def State.inboxBytes (s : State) (g : SigInfo) (a : Assoc) : Nat :=
  min g.bytes (((Tab.find s.inboxes a.box).map (·.len)).getD 0 / max 1 g.se - 262144)

/-- The messages of the next leaf of an association, when the leaf can be closed: the next message would break a limit, or it
is the end of the stream (R38, R300; log 33). Where a leaf ends depends on the stream alone, so ordinals are the same on every
run. -/
def State.inboxUnits (s : State) (g : SigInfo) (a : Assoc) : Nat :=
  let most := s.inboxBytes g a
  let body := a.uncut.takeWhile (fun m => !m.eos)
  if body = [] then 0
  else
    let n := max 1 (unitsThatFit g.rows most (body.map (fun m => (m.rows, m.len))) 0 0)
    let part := body.take n
    if n < body.length ∨ body.length < a.uncut.length ∨ g.rows ≤ sumOf (part.map (·.rows)) ∨ most ≤ sumOf (part.map (·.len)) then n
    else 0

/-- EXCHANGE_INBOX: consecutive complete messages of the first association that can close a leaf (R300). -/
def State.planInbox (s : State) (r : Run) (g : SigInfo) (x : SigRun) : Plan :=
  if g.se ≤ x.ended.length then .drained s
  else
    let fs := (s.feeders (boxKey r.inst (g.so % 65536))).filter (fun a => !x.ended.contains a)
    match fs.findSome? (fun a => (s.assoc? a).bind (fun y => let n := s.inboxUnits g y; if n = 0 then none else some (a, y, n))) with
    | none => .none_ s
    | some (a, y, n) =>
      .leaf { src := .inbox a y.cutNo n, home := s.homeOf r.inst (s.boxAddr y ((y.uncut.map (·.off)).headD 0))
              next := x.cutAt + n, drained := false, assoc := some a } s

/-- End-of-stream messages that the Cutter has reached: the association's input ends and its slabs free (R300). -/
def State.takeEnds (s : State) (k sig : Nat) (box : Nat) (se : Nat) : State :=
  (s.feeders box).foldl (fun s a =>
    match s.assoc? a, s.run? k with
    | some y, some r =>
      let x := r.sig sig
      match y.uncut with
      | m :: _ =>
        if m.eos ∧ !x.ended.contains a ∧ x.ended.length < se then
          let s := s.updAssoc a (fun y => { y with cutNo := m.no + 1, msgs := y.msgs.filter (fun z => z.no != m.no) })
          (s.updSig k sig (fun x => { x with ended := x.ended ++ [a] })).freeSlabsOf a
        else s
      | [] => s
    | _, _ => s) s

-- ---------------------------------------------------------------- insertion (R39, R191, R203)

/-- The ordinal of a leaf that is cut: counting per association for an inbox, else per signature (R39, R300). -/
def State.cutOrd (s : State) (r : Run) (g : SigInfo) (x : SigRun) (assoc : Option Nat) : Nat :=
  match assoc with
  | some a =>
    let rank := ((s.feeders (boxKey r.inst (g.so % 65536))).takeWhile (· != a)).length
    (rank * 2 ^ 20 + Tab.get x.assocOrd a 0) % 2 ^ 30
  | none => x.ords % 2 ^ 30

/-- The device group of a local group of an instance. -/
def State.groupOf (s : State) (i loc : Nat) : Nat :=
  ((s.groups.find? (fun p => p.2.inst == i && p.2.local_ == loc)).map (·.1)).getD 0

/-- Inserts a leaf into a slot; the first one of the run sets START_TIME. -/
def State.insertLeaf (s : State) (k sig : Nat) (r : Run) (g : SigInfo) (c : Cut) : State :=
  let x := r.sig sig
  let (seq, s) := s.nextSeq
  let cq := ((s.cmds.find? (fun y => y.no == r.cmd)).map (fun y => s.cqPoolOf y.inst y.sq)).getD 0
  let l : Leaf := { inst := r.inst, sub := r.sub, sig := sig, ord := s.cutOrd r g x c.assoc, group := s.groupOf r.inst g.group
                    cls := g.cls, home := c.home, cq := cq, seq := seq, src := c.src }
  let exceeds := match c.assoc with
    | some a => decide (2 ^ 20 ≤ Tab.get x.assocOrd a 0)
    | none => false
  let s := s.updRun k (fun r => { r with start := if r.start.isNone then some s.timebase else r.start })
  let s := s.updSig k sig (fun x => { x with
    cutAt := c.next
    drained := x.drained || c.drained
    ords := if c.assoc.isNone then x.ords + 1 else x.ords
    assocOrd := match c.assoc with
      | some a => Tab.set x.assocOrd a (Tab.get x.assocOrd a 0 + 1)
      | none => x.assocOrd })
  let s := match c.src with
    | .inbox a first n => s.updAssoc a (fun y => { y with cutNo := first + n })
    | _ => s
  let s := { s with leaves := Tab.set s.leaves l.id l }
  if exceeds then s.recordFail l 0x2002 0 else s

/-- The Cutter's insertions that wait. -/
def State.cutWait (s : State) (i sub sig : Nat) (on : Bool) : State :=
  let l := s.coll.cutters.filter (fun c => c != (i, sub, sig))
  { s with coll := { s.coll with cutters := if on then l ++ [(i, sub, sig)] else l } }

/-- CUT_LEAF: cuts the next leaf of a running signature and inserts it, once a slot is free that no SPAWN waits for; at
the end of its input the signature is exhausted (R37, R38, R203). -/
def execCutLeaf (i sub sig : Nat) (s : State) : Host.Outcome State Fault Refusal :=
  let k := runKey i sub
  let s := if s.running then s.settle k else s
  match s.run? k with
  | none => ok s
  | some r0 =>
    if !s.running ∨ r0.finish.isSome ∨ r0.stop ≠ 0 ∨ r0.cancelled ∨ r0.sigs.length ≤ sig ∨ (r0.sig sig).state ≠ .running
        ∨ (r0.sig sig).drained ∨ (r0.sig sig).building then ok s
    else
      let g := sigInfo r0.image sig
      let s := if g.source = 4 then s.takeEnds k sig (boxKey i (g.so % 65536)) g.se else s
      let r := (s.run? k).getD r0
      let x := r.sig sig
      let plan := match g.source with
        | 1 => s.planScan r g x
        | 2 => s.planBuffer r g x
        | 3 => s.planMerge r g x
        | _ => s.planInbox r g x
      match plan with
      | .none_ s => ok s
      | .drained s => ok ((s.updSig k sig (fun x => { x with drained := true })).settle k)
      | .leaf c s =>
        if s.slotsFree i ≤ (s.spawnsOf i).length then
          let waits := s.coll.cutters.contains (i, sub, sig)
          ok (if waits then s else (s.cutWait i sub sig true).beginSlotWait i none)
        else
          let s := (s.cutWait i sub sig false).insertLeaf k sig r g c
          ok ((s.endSlotWait i).settle k)

end Sys2Proof.Machine
end

