-- ==== Sys2Proof/Machine/EngAlu.lean ====
section
/-! DEFINITION. The scalar instructions of the engines: ALU, immediates, control values, branches and jumps (R99–R101,
R109, R125). -/
namespace Sys2Proof.Machine

-- ---------------------------------------------------------------- scalar functions (MAJOR 0x00)

/-- `g[D] := g[A] + g[B]` modulo 2^64 (R109). -/
def aluAdd (x y : Word) : Word := x + y
def execAdd (e : Nat) (d a b : BitVec 5) (s : State) : Host.Outcome State Fault Refusal :=
  ok (runPure e (.add e d a b) (fun r => r.wg d (aluAdd (r.rg a) (r.rg b))) s)

/-- `g[D] := g[A] − g[B]` modulo 2^64 (R109). -/
def aluSub (x y : Word) : Word := x - y
def execSub (e : Nat) (d a b : BitVec 5) (s : State) : Host.Outcome State Fault Refusal :=
  ok (runPure e (.sub e d a b) (fun r => r.wg d (aluSub (r.rg a) (r.rg b))) s)

/-- Bitwise AND (R109). -/
def aluAnd (x y : Word) : Word := x &&& y
def execAnd (e : Nat) (d a b : BitVec 5) (s : State) : Host.Outcome State Fault Refusal :=
  ok (runPure e (.and e d a b) (fun r => r.wg d (aluAnd (r.rg a) (r.rg b))) s)

/-- Bitwise OR (R109). -/
def aluOr (x y : Word) : Word := x ||| y
def execOr (e : Nat) (d a b : BitVec 5) (s : State) : Host.Outcome State Fault Refusal :=
  ok (runPure e (.or e d a b) (fun r => r.wg d (aluOr (r.rg a) (r.rg b))) s)

/-- Bitwise XOR (R109). -/
def aluXor (x y : Word) : Word := x ^^^ y
def execXor (e : Nat) (d a b : BitVec 5) (s : State) : Host.Outcome State Fault Refusal :=
  ok (runPure e (.xor e d a b) (fun r => r.wg d (aluXor (r.rg a) (r.rg b))) s)

/-- Shift left by g[B] mod 64 (R109). -/
def aluSll (x y : Word) : Word := x <<< (y.toNat % 64)
def execSll (e : Nat) (d a b : BitVec 5) (s : State) : Host.Outcome State Fault Refusal :=
  ok (runPure e (.sll e d a b) (fun r => r.wg d (aluSll (r.rg a) (r.rg b))) s)

/-- Logical shift right by g[B] mod 64 (R109). -/
def aluSrl (x y : Word) : Word := x >>> (y.toNat % 64)
def execSrl (e : Nat) (d a b : BitVec 5) (s : State) : Host.Outcome State Fault Refusal :=
  ok (runPure e (.srl e d a b) (fun r => r.wg d (aluSrl (r.rg a) (r.rg b))) s)

/-- Arithmetic shift right by g[B] mod 64 (R109). -/
def aluSra (x y : Word) : Word := x.sshiftRight (y.toNat % 64)
def execSra (e : Nat) (d a b : BitVec 5) (s : State) : Host.Outcome State Fault Refusal :=
  ok (runPure e (.sra e d a b) (fun r => r.wg d (aluSra (r.rg a) (r.rg b))) s)

/-- Low 64 bits of the product (R109). -/
def aluMul (x y : Word) : Word := x * y
def execMul (e : Nat) (d a b : BitVec 5) (s : State) : Host.Outcome State Fault Refusal :=
  ok (runPure e (.mul e d a b) (fun r => r.wg d (aluMul (r.rg a) (r.rg b))) s)

/-- High 64 bits of the signed product (R109). -/
def aluMulh (x y : Word) : Word := BitVec.ofInt 64 (x.toInt * y.toInt / 2 ^ 64)
def execMulh (e : Nat) (d a b : BitVec 5) (s : State) : Host.Outcome State Fault Refusal :=
  ok (runPure e (.mulh e d a b) (fun r => r.wg d (aluMulh (r.rg a) (r.rg b))) s)

/-- High 64 bits of the unsigned product (R109). -/
def aluMulhu (x y : Word) : Word := BitVec.ofNat 64 (x.toNat * y.toNat / 2 ^ 64)
def execMulhu (e : Nat) (d a b : BitVec 5) (s : State) : Host.Outcome State Fault Refusal :=
  ok (runPure e (.mulhu e d a b) (fun r => r.wg d (aluMulhu (r.rg a) (r.rg b))) s)

/-- Signed quotient toward zero; all ones for a zero divisor; −2^63 ÷ −1 gives −2^63 (R109). -/
def aluDiv (x y : Word) : Word := if y = 0 then BitVec.allOnes 64 else BitVec.ofInt 64 (x.toInt.tdiv y.toInt)
def execDiv (e : Nat) (d a b : BitVec 5) (s : State) : Host.Outcome State Fault Refusal :=
  ok (runPure e (.div e d a b) (fun r => r.wg d (aluDiv (r.rg a) (r.rg b))) s)

/-- Unsigned quotient; all ones for a zero divisor (R109). -/
def aluDivu (x y : Word) : Word := if y = 0 then BitVec.allOnes 64 else BitVec.ofNat 64 (x.toNat / y.toNat)
def execDivu (e : Nat) (d a b : BitVec 5) (s : State) : Host.Outcome State Fault Refusal :=
  ok (runPure e (.divu e d a b) (fun r => r.wg d (aluDivu (r.rg a) (r.rg b))) s)

/-- Remainder with the sign of g[A]; g[A] for a zero divisor (R109). -/
def aluRem (x y : Word) : Word := if y = 0 then x else BitVec.ofInt 64 (x.toInt.tmod y.toInt)
def execRem (e : Nat) (d a b : BitVec 5) (s : State) : Host.Outcome State Fault Refusal :=
  ok (runPure e (.rem e d a b) (fun r => r.wg d (aluRem (r.rg a) (r.rg b))) s)

/-- Unsigned remainder; g[A] for a zero divisor (R109). -/
def aluRemu (x y : Word) : Word := if y = 0 then x else BitVec.ofNat 64 (x.toNat % y.toNat)
def execRemu (e : Nat) (d a b : BitVec 5) (s : State) : Host.Outcome State Fault Refusal :=
  ok (runPure e (.remu e d a b) (fun r => r.wg d (aluRemu (r.rg a) (r.rg b))) s)

/-- 1 if g[A] < g[B] as signed, else 0 (R109). -/
def aluSlt (x y : Word) : Word := if x.toInt < y.toInt then 1 else 0
def execSlt (e : Nat) (d a b : BitVec 5) (s : State) : Host.Outcome State Fault Refusal :=
  ok (runPure e (.slt e d a b) (fun r => r.wg d (aluSlt (r.rg a) (r.rg b))) s)

/-- 1 if g[A] < g[B] as unsigned, else 0 (R109). -/
def aluSltu (x y : Word) : Word := if x.toNat < y.toNat then 1 else 0
def execSltu (e : Nat) (d a b : BitVec 5) (s : State) : Host.Outcome State Fault Refusal :=
  ok (runPure e (.sltu e d a b) (fun r => r.wg d (aluSltu (r.rg a) (r.rg b))) s)

/-- Signed minimum (R109). -/
def aluMin (x y : Word) : Word := if x.toInt ≤ y.toInt then x else y
def execMin (e : Nat) (d a b : BitVec 5) (s : State) : Host.Outcome State Fault Refusal :=
  ok (runPure e (.min e d a b) (fun r => r.wg d (aluMin (r.rg a) (r.rg b))) s)

/-- Signed maximum (R109). -/
def aluMax (x y : Word) : Word := if x.toInt ≤ y.toInt then y else x
def execMax (e : Nat) (d a b : BitVec 5) (s : State) : Host.Outcome State Fault Refusal :=
  ok (runPure e (.max e d a b) (fun r => r.wg d (aluMax (r.rg a) (r.rg b))) s)

/-- Unsigned minimum (R109). -/
def aluMinu (x y : Word) : Word := if x.toNat ≤ y.toNat then x else y
def execMinu (e : Nat) (d a b : BitVec 5) (s : State) : Host.Outcome State Fault Refusal :=
  ok (runPure e (.minu e d a b) (fun r => r.wg d (aluMinu (r.rg a) (r.rg b))) s)

/-- Unsigned maximum (R109). -/
def aluMaxu (x y : Word) : Word := if x.toNat ≤ y.toNat then y else x
def execMaxu (e : Nat) (d a b : BitVec 5) (s : State) : Host.Outcome State Fault Refusal :=
  ok (runPure e (.maxu e d a b) (fun r => r.wg d (aluMaxu (r.rg a) (r.rg b))) s)

/-- Leading zeros of g[A], 64 for zero (R109). -/
def execClz (e : Nat) (d a : BitVec 5) (s : State) : Host.Outcome State Fault Refusal :=
  ok (runPure e (.clz e d a) (fun r => r.wg d (ofN (clz64 (r.rg a)))) s)

/-- Trailing zeros of g[A], 64 for zero (R109). -/
def execCtz (e : Nat) (d a : BitVec 5) (s : State) : Host.Outcome State Fault Refusal :=
  ok (runPure e (.ctz e d a) (fun r => r.wg d (ofN (ctz64 (r.rg a)))) s)

/-- Ones of g[A] (R109). -/
def execPopc (e : Nat) (d a : BitVec 5) (s : State) : Host.Outcome State Fault Refusal :=
  ok (runPure e (.popc e d a) (fun r => r.wg d (ofN (popc64 (r.rg a)))) s)

-- ---------------------------------------------------------------- immediates (MAJOR 0x01–0x0C)

/-- `g[D] := g[A] +` the sign-extended immediate (R109). -/
def execAddi (e : Nat) (d a : BitVec 5) (imm : BitVec 16) (s : State) : Host.Outcome State Fault Refusal :=
  ok (runPure e (.addi e d a imm) (fun r => r.wg d (r.rg a + sx16 imm)) s)

/-- AND with the zero-extended immediate (R109). -/
def execAndi (e : Nat) (d a : BitVec 5) (imm : BitVec 16) (s : State) : Host.Outcome State Fault Refusal :=
  ok (runPure e (.andi e d a imm) (fun r => r.wg d (r.rg a &&& zx16 imm)) s)

/-- OR with the zero-extended immediate (R109). -/
def execOri (e : Nat) (d a : BitVec 5) (imm : BitVec 16) (s : State) : Host.Outcome State Fault Refusal :=
  ok (runPure e (.ori e d a imm) (fun r => r.wg d (r.rg a ||| zx16 imm)) s)

/-- XOR with the zero-extended immediate (R109). -/
def execXori (e : Nat) (d a : BitVec 5) (imm : BitVec 16) (s : State) : Host.Outcome State Fault Refusal :=
  ok (runPure e (.xori e d a imm) (fun r => r.wg d (r.rg a ^^^ zx16 imm)) s)

/-- Signed compare with the sign-extended immediate (R109). -/
def execSlti (e : Nat) (d a : BitVec 5) (imm : BitVec 16) (s : State) : Host.Outcome State Fault Refusal :=
  ok (runPure e (.slti e d a imm) (fun r => r.wg d (aluSlt (r.rg a) (sx16 imm))) s)

/-- Unsigned compare after sign extension (R109). -/
def execSltiu (e : Nat) (d a : BitVec 5) (imm : BitVec 16) (s : State) : Host.Outcome State Fault Refusal :=
  ok (runPure e (.sltiu e d a imm) (fun r => r.wg d (aluSltu (r.rg a) (sx16 imm))) s)

/-- `g[D] := (g[A] << 16) OR` the zero-extended immediate (R109). -/
def execLsh (e : Nat) (d a : BitVec 5) (imm : BitVec 16) (s : State) : Host.Outcome State Fault Refusal :=
  ok (runPure e (.lsh e d a imm) (fun r => r.wg d ((r.rg a <<< 16) ||| zx16 imm)) s)

/-- SHI: IMM[7:6] names SLL, SRL or SRA, IMM[5:0] the count (R109). -/
def shiftImm (x : Word) (imm : BitVec 16) : Word :=
  let n := (imm.extractLsb' 0 6).toNat
  match (imm.extractLsb' 6 2).toNat with
  | 0 => x <<< n
  | 1 => x >>> n
  | _ => x.sshiftRight n
def execShi (e : Nat) (d a : BitVec 5) (imm : BitVec 16) (s : State) : Host.Outcome State Fault Refusal :=
  ok (runPure e (.shi e d a imm) (fun r => r.wg d (shiftImm (r.rg a) imm)) s)

/-- `g[D] :=` the sign-extended immediate (R109). -/
def execLi (e : Nat) (d : BitVec 5) (imm : BitVec 16) (s : State) : Host.Outcome State Fault Refusal :=
  ok (runPure e (.li e d imm) (fun r => r.wg d (sx16 imm)) s)

/-- SETVL: the new EW code, the VLEN choice, then VL := min(g[A], VLEN ÷ EW), which goes to g[D] (R101). -/
def EngRun.setvl (r : EngRun) (d a : BitVec 5) (imm : BitVec 16) : Option EngRun :=
  let ew := (imm.extractLsb' 0 3).toNat
  let ch := (imm.extractLsb' 3 2).toNat
  if 4 < ew ∨ ch = 3 then none
  else
    let vlen := if ch = 1 then 256 else if ch = 2 then 512 else r.vlen
    let vl := min (r.rg a).toNat (vlen / ewBits ew)
    some (({ r with ew := ew, vlen := vlen, vl := vl }).wg d (ofN vl))
def execSetvl (e : Nat) (d a : BitVec 5) (imm : BitVec 16) (s : State) : Host.Outcome State Fault Refusal :=
  ok (runEng e (.setvl e d a imm) (fun r _ s => match r.setvl d a imm with
    | some r => .next r s
    | none => .fail 0x1001 s) s)

/-- The control values of R99. -/
def EngRun.control (r : EngRun) (n : Nat) : Option Word :=
  match n with
  | 0 => some (ofN r.vl)
  | 1 => some (ofN r.ew)
  | 2 => some (ofN r.vlen)
  | 3 => some r.sb
  | 4 => some (ofN r.ffi)
  | 5 => some (ofN (b2n r.ovf))
  | 6 => some (ofN r.leaf)
  | 7 => some (ofN r.steps)
  | 8 => some (ofN r.limit)
  | 9 => some (ofN r.spawns)
  | _ => none

/-- MFC: g[D] := control[IMM16]; an index not listed fails the leaf with 0x1001 (R99). -/
def execMfc (e : Nat) (d : BitVec 5) (imm : BitVec 16) (s : State) : Host.Outcome State Fault Refusal :=
  ok (runEng e (.mfc e d imm) (fun r _ s => match r.control imm.toNat with
    | some v => .next (r.wg d v) s
    | none => .fail 0x1001 s) s)

/-- MTC: SB or OVF := g[A]; any other value cannot be written and fails the leaf with 0x1001 (R99). -/
def execMtc (e : Nat) (a : BitVec 5) (imm : BitVec 16) (s : State) : Host.Outcome State Fault Refusal :=
  ok (runEng e (.mtc e a imm) (fun r _ s =>
    if imm = 3 then .next { r with sb := r.rg a } s
    else if imm = 5 then .next { r with ovf := (r.rg a).getLsbD 0 } s
    else .fail 0x1001 s) s)

-- ---------------------------------------------------------------- branches and jumps (MAJOR 0x18–0x20)

/-- The target of a branch or jump: its offset counts instructions from its own address (R100). -/
def relTarget (pc : Nat) (off : Int) : Word := BitVec.ofInt 64 ((pc : Int) + 4 * off)

/-- A conditional branch. -/
def runBranch (e : Nat) (i : Instr) (a b : BitVec 5) (off : BitVec 16) (c : Word → Word → Bool) (s : State) : State :=
  runEng e i (fun r _ s => if c (r.rg a) (r.rg b) then .jump r (relTarget r.pc off.toInt) s else .next r s) s

/-- Branch when g[A] and g[B] are: equal (R109). -/
def execBeq (e : Nat) (a b : BitVec 5) (off : BitVec 16) (s : State) : Host.Outcome State Fault Refusal :=
  ok (runBranch e (.beq e a b off) a b off (fun x y => x == y) s)

/-- Branch when g[A] and g[B] are: different (R109). -/
def execBne (e : Nat) (a b : BitVec 5) (off : BitVec 16) (s : State) : Host.Outcome State Fault Refusal :=
  ok (runBranch e (.bne e a b off) a b off (fun x y => x != y) s)

/-- Branch when g[A] and g[B] are: less, signed (R109). -/
def execBlt (e : Nat) (a b : BitVec 5) (off : BitVec 16) (s : State) : Host.Outcome State Fault Refusal :=
  ok (runBranch e (.blt e a b off) a b off (fun x y => decide (x.toInt < y.toInt)) s)

/-- Branch when g[A] and g[B] are: greater or equal, signed (R109). -/
def execBge (e : Nat) (a b : BitVec 5) (off : BitVec 16) (s : State) : Host.Outcome State Fault Refusal :=
  ok (runBranch e (.bge e a b off) a b off (fun x y => decide (y.toInt ≤ x.toInt)) s)

/-- Branch when g[A] and g[B] are: less, unsigned (R109). -/
def execBltu (e : Nat) (a b : BitVec 5) (off : BitVec 16) (s : State) : Host.Outcome State Fault Refusal :=
  ok (runBranch e (.bltu e a b off) a b off (fun x y => decide (x.toNat < y.toNat)) s)

/-- Branch when g[A] and g[B] are: greater or equal, unsigned (R109). -/
def execBgeu (e : Nat) (a b : BitVec 5) (off : BitVec 16) (s : State) : Host.Outcome State Fault Refusal :=
  ok (runBranch e (.bgeu e a b off) a b off (fun x y => decide (y.toNat ≤ x.toNat)) s)

/-- J: jump (R109). -/
def execJ (e : Nat) (off : BitVec 26) (s : State) : Host.Outcome State Fault Refusal :=
  ok (runEng e (.j e off) (fun r _ s => .jump r (relTarget r.pc off.toInt) s) s)

/-- JAL: g31 := the address of the next instruction, then jump (R109). -/
def execJal (e : Nat) (off : BitVec 26) (s : State) : Host.Outcome State Fault Refusal :=
  ok (runEng e (.jal e off) (fun r _ s => .jump (r.wg 31 (ofN (r.pc + 4))) (relTarget r.pc off.toInt) s) s)

/-- JALR: target := g[A]; g[D] := the address of the next instruction; jump to target (R109). -/
def execJalr (e : Nat) (d a : BitVec 5) (s : State) : Host.Outcome State Fault Refusal :=
  ok (runEng e (.jalr e d a) (fun r _ s => .jump (r.wg d (ofN (r.pc + 4))) (r.rg a) s) s)

end Sys2Proof.Machine
end

