-- ==== Sys2Proof/Machine/Instances.lean ====
section
/-! DEFINITION. The end of a quiesce, the removal of an instance and the function-level reset (R370–R372, with the tables
across device events of the other chapters). -/
namespace Sys2Proof.Machine

-- ---------------------------------------------------------------- shares of the control blocks (R475)

/-- Is a cause one of a control share or of the Spine, which is mapped out once the instances that depend on it have been
quiesced or reset (R475; log 43)? -/
def controlCause (c : Nat × Nat) : Bool := c.1 == 4 || c.1 == 5 || c.1 == 6 || (c.1 == 7 && c.2 / 2 ^ 24 == 0x0C)

/-- An instance has been quiesced, reset or removed: with the last of those that depend on a faulty control share its map-out
is recorded, and the causes are resolved (R475). -/
def State.leaveControl (s : State) (i : Nat) : State :=
  let left := s.dev.depends.filter (· != i)
  let s := { s with dev := { s.dev with depends := left } }
  if left = [] then
    (s.dev.causes.filter controlCause).foldl (fun s c => s.resolveCause c.1 (c.2 / 2 ^ 24) (c.2 % 2 ^ 24)) s
  else s

-- ---------------------------------------------------------------- quiesce (R370)

/-- Does nothing of an instance run: no fetched I/O command, run, leaf, job, chain, held record? -/
def State.still (s : State) (i : Nat) : Bool :=
  !s.cmds.any (fun c => c.inst == i && c.sq != 0 && c.open_)
  && !s.runs.any (fun p => p.2.inst == i && (p.2.finish.isNone || s.cmds.any (fun c => c.no == p.2.cmd)))
  && !s.leaves.any (fun p => p.2.inst == i)
  && !s.copies.any (fun p => p.2.inst == i && p.2.state == 1)
  && s.assocs.all (fun p => p.2.inst != i || (p.2.out == [] && p.2.flight == []))

/-- QUIESCED is set and the command, if it is still there, completes (R370, R372). -/
def State.endQuiesce (s : State) (i : Nat) : State :=
  match s.inst? i with
  | none => s
  | some x =>
    if !x.quiescing then s
    else
      let s := s.updInst i (fun x => { x with quiescing := false, quiesced := true, quiesceCmd := none })
      match x.quiesceCmd with
      | some no => s.finish no 0 0 0
      | none => s

/-- QUIESCE_COMPLETE: step 3 is reached; it waits out a placement pause (R375). -/
def execQuiesceComplete (i : Nat) (s : State) : Host.Outcome State Fault Refusal :=
  if s.serving && !s.paused && s.still i && ((s.inst? i).map (·.quiescing)).getD false then
    ok ((s.endQuiesce i).leaveControl i)
  else ok s

-- ---------------------------------------------------------------- what a reset and a removal share

/-- Leaves of an instance stop: READY and HELD ones are removed, running attempts are discarded, commits run to their end;
its runs, folios and waits are forgotten (R44, R127, R212). -/
def State.stopLeaves (s : State) (i : Nat) : State :=
  let ks := (s.runs.filter (fun p => p.2.inst == i)).map (·.1)
  let s := ks.foldl (fun s k => s.stopRun k 0x6001) s
  let ls := (s.leaves.filter (fun p => p.2.inst == i)).map (·.2)
  let s := (ls.filter (·.state == .running)).foldl State.voidAttempt s
  let s := (ls.filter (·.state == .committing)).foldl State.applyCommit s
  { s with
    leaves := s.leaves.filter (fun p => p.2.inst != i)
    runs := s.runs.filter (fun p => p.2.inst != i)
    folios := s.folios.filter (fun p => p.1 / 256 != i)
    slotWait := s.slotWait.filter (· != i)
    trims := s.trims.map (fun p => (p.1, { p.2 with dicts := p.2.dicts.filter (fun d => d.leafRun / 2 ^ 17 != i) }))
    coll := { s.coll with cutters := s.coll.cutters.filter (fun c => c.1 != i) } }

/-- Jobs of an instance stop: what they were writing is undefined and no context is updated (R248, R417). -/
def State.stopJobs (s : State) (i : Nat) : State :=
  let mine := s.cmds.filter (fun c => c.inst == i)
  let s := mine.foldl (fun s c =>
    let s := s.forget (.cmd c.no)
    if c.phase != .running then s
    else if c.op = 0x47 ∧ c.prog = 1 then s.junkOut c c.cOut
    else if c.op = 0x48 ∧ s.cry.units.any (fun u => u.2 == c.no) then s.junkOut c (if c.dLast then digLen c.dAlg else 0)
    else if c.op = 0x49 ∧ s.press.units.any (fun u => u.2.cmd == some c.no) then s.junkOut c c.dataLen
    else s) s
  let gone := fun (n : Nat) => mine.any (fun c => c.no == n)
  { s with
    press := { s.press with
      waiting := s.press.waiting.filter (fun j => j.inst != i)
      units := s.press.units.filter (fun u => u.2.inst != i)
      dicts := s.press.dicts.filter (fun d => d.1 / 2 ^ 32 != i)
      streams := s.press.streams.filter (fun x => x.inst != i) }
    cry := { s.cry with
      pages := Tab.del s.cry.pages i
      wait := s.cry.wait.filter (fun n => !gone n)
      units := s.cry.units.filter (fun u => !gone u.2) } }

/-- Copy channels of an instance return to IDLE with RESUME_PENDING clear (R432). -/
def State.stopCopies (s : State) (i : Nat) : State :=
  let mine := s.copies.filter (fun p => p.2.inst == i)
  let s := mine.foldl (fun s p => s.forget (.copy p.1)) s
  { s with copies := s.copies.map (fun p =>
      if p.2.inst = i then
        (p.1, { inst := i, local_ := p.2.local_, cur := p.2.cur, last := p.2.last, bytes := p.2.bytes, late := p.2.late })
      else p) }

/-- Associations of an instance send CLOSE with the reset flag and become FREE without draining; its inboxes are unbound
(R309). -/
def State.dropAssocs (s : State) (i : Nat) : State :=
  let mine := s.assocs.filter (fun p => p.2.inst == i)
  let s := mine.foldl (fun s p =>
    let s := if p.2.state = 4 then s else s.sendSealed p.1 ((s.pickPath p.2 none).getD 0) 6 0 0 0 [1]
    { s.forget (.inbox p.1) with assocs := Tab.del s.assocs p.1 }) s
  { s with inboxes := s.inboxes.filter (fun p => p.2.inst != i) }

/-- The regions of an instance are zeroed in all 16 quires (R153). -/
def State.zeroRegions (s : State) (i : Nat) : State :=
  let vs := ((List.range 8).map (fun k => s.reg (offRset i k))).filter (fun v => bitAt v 63)
  vs.foldl (fun s v =>
    let a := bits v 10 0 * 4096
    let n := (bits v 42 32 + 1 - bits v 10 0) * 4096
    (List.range 16).foldl (fun s q => (s.zero (.quire q) a n).clearPoison (.quire q) a n) s) s

/-- The mailbox page is cleared (R371, R372). -/
def State.clearMailbox (s : State) (i status : Nat) : State :=
  (s.zeroSpace (.mbx i)).updInst i (fun x => { x with mbx := { status := status } })

/-- Ranges, regions, associations, jobs, copy channels, XTS keys and TDI of an instance whose work has stopped. -/
def State.tearDown (s : State) (i : Nat) : State :=
  let s := ((((s.dropAssocs i).removeRanges i).zeroRegions i).thumbClear i (2 ^ 64 - 1)).newXts i
  { s with slc := { s.slc with tdis := Tab.del s.slc.tdis i }
           winRegs := s.winRegs.filter (fun p => p.1 / 2 ^ 20 != i) }

/-- Reservations of an instance's groups end (R212). -/
def State.endReservations (s : State) (i : Nat) : State :=
  let mine := fun (g : Nat) => ((Tab.find s.groups g).map (fun x => x.inst == i)).getD false
  { s with coll := { s.coll with requests := s.coll.requests.filter (fun g => !mine g)
                                 grants := s.coll.grants.filter (fun p => !mine p.1) } }

-- ---------------------------------------------------------------- function-level reset (R372)

/-- FUNCTION_LEVEL_RESET: work stops, completions are posted or logged, the instance's memory, keys and queues go; the
allotment, QUIESCED and the error log stay. On a function without an instance only its window and its MSI-X control are reset
(R312, R371, R516). -/
def execFunctionLevelReset (i : Nat) (s : State) : Host.Outcome State Fault Refusal :=
  if !s.running then ok s
  else match s.inst? i with
    | none => ok { s with winRegs := s.winRegs.filter (fun p => p.1 / 2 ^ 20 != i), msixCtl := Tab.del s.msixCtl i }
    | some _ =>
      let s := ((s.stopLeaves i).stopJobs i).stopCopies i
      let s := (s.abortCmds i 0x6001).settleEvents i
      let s := { ((s.tearDown i).endReservations i).clearMailbox i 256 with msixCtl := Tab.del s.msixCtl i }
      let s := { s with groups := s.groups.map (fun (p : Nat × Group) => if p.2.inst = i then (p.1, { p.2 with deficit := 0 }) else p) }
      let s := s.updInst i (fun x => { x with rdy := false, disabling := false, sqs := [], cqs := [], hold := [], aers := [] })
      ok ((s.endQuiesce i).leaveControl i)

-- ---------------------------------------------------------------- removal (R371)

/-- Completions of an instance that is removed go to the error log: those held, then those of its fetched commands. -/
def State.logRemoved (s : State) (i : Nat) (x : Inst) : State :=
  let s := x.hold.foldl (fun s h => s.logLost i h) s
  let s := (s.cmds.filter (fun c => c.inst == i)).foldl (fun s c => s.logLost i
    { cq := s.cqOf i c.sq, sq := c.sq, cid := c.cid, status := 0x6001, covers := 1, batch := false, result := 0, detail := 0 }) s
  { s with cmds := s.cmds.filter (fun c => c.inst != i) }

/-- Aperture windows bound to an instance read LOST (R357). -/
def State.loseWindows (s : State) (i : Nat) : State :=
  (List.range 16).foldl (fun s w =>
    let v := s.reg (offWinCfg w)
    if bits v 61 60 ≠ 0 ∧ bits v 46 40 = i then s.setReg (offWinCfg w) ((v &&& 0x40007F0F0000003F) + 3 * 2 ^ 60) else s) s

/-- What the device keeps for an instance is given back: groups, banks, copy channels, rings, region set (R371). -/
def State.giveBack (s : State) (i : Nat) : State :=
  let old := fun (k : Option (Nat × Nat × Nat)) => if (k.map (·.1)) = some i then none else k
  let own := s.banks.filter (fun p => p.2.owner == i)
  let inst := fun (off : Nat) => decide (offTrcInstCtrl i ≤ off) && decide (off ≤ offTrcInstBase i)
    || decide (offRset i 0 ≤ off) && decide (off ≤ offRset i 7)
  { s with
    insts := Tab.del s.insts i
    groups := s.groups.filter (fun p => p.2.inst != i)
    banks := s.banks.filter (fun p => p.2.owner != i)
    thumb := s.thumb.filter (fun p => !own.any (fun b => b.1 == p.1 / 1024))
    copies := s.copies.filter (fun p => p.2.inst != i)
    shares := s.shares.filter (fun p => p.1 != i)
    regs := s.regs.filter (fun p => !inst p.1)
    coll := { s.coll with rings := Tab.del s.coll.rings (i + 1), backlog := s.coll.backlog.filter (fun p => p.1 != i + 1) }
    eng := s.eng.map (fun p => (p.1, { p.2 with
      code := old p.2.code, const := old p.2.const, lastInst := if p.2.lastInst = some i then none else p.2.lastInst }))
    dev := { s.dev with leavesFailed := Tab.del s.dev.leavesFailed i, cmdsFailed := Tab.del s.dev.cmdsFailed i } }

/-- REMOVE_INSTANCE: 0x1002 unless QUIESCED; else it runs to its end (R371). -/
def execRemoveInstance (i sq cid : Nat) (s : State) : Host.Outcome State Fault Refusal :=
  match s.takeCmd i sq cid 0x13 with
  | none => ok s
  | some c =>
    let j := c.fld 0x18 1
    if i ≠ 0 then ok (s.finish c.no 0x1001 0 0)
    else match s.inst? j with
      | none => ok (s.finish c.no 0x1002 0 0)
      | some x =>
        if j = 0 ∨ !x.quiesced then ok (s.finish c.no 0x1002 0 0)
        else
          let s := ((s.stopLeaves j).stopJobs j).stopCopies j
          let s := (s.logRemoved j x).settleEvents j
          let s := ((s.tearDown j).endReservations j).clearMailbox j 0
          let s := ((s.loseWindows j).giveBack j).leaveControl j
          ok (s.finish c.no 0 0 0)

-- ---------------------------------------------------------------- channel migration (R89, R267)

/-- CHANNEL_MIGRATION: step 3 of a map-out, once the channel's Trimmer has no leaf. -/
def execChannelMigration (c : Nat) (s : State) : Host.Outcome State Fault Refusal :=
  if s.running && decide (c < 256) && (s.chan c).state == 2 && ((Tab.get s.trims c {}).leaves == []) then ok (s.migrateChannel c)
  else ok s

end Sys2Proof.Machine
end

