-- ==== Sys2Proof/Machine/Faults.lean ====
section
/-! DEFINITION. Faults of shared controllers and of the Spine (R471, R474, R475). -/
namespace Sys2Proof.Machine

/-- A containment cause of a control share: the tenants at work depend on it; with none its map-out is recorded at once
(R475; log 43). -/
def State.openControl (s : State) (code resType resIdx : Nat) : State :=
  let s := s.openCause code resType resIdx
  let dep := (s.insts.filter (fun p => p.1 != 0 && !p.2.quiesced)).map (·.1)
  { s with dev := { s.dev with depends := dep } }.leaveControl 0

-- ---------------------------------------------------------------- progress monitors (R471)

/-- The record of a monitor that fired. -/
def State.logStuck (s : State) (outcome resType resIdx : Nat) : State :=
  s.logFh { kind := 0x0A04, status := 0x4002, outcome := outcome, mech := 14, resType := resType, resIdx := resIdx }

/-- PROGRESS_MONITOR_EXPIRY: the controller's requests fail and it is treated as failing under the rules for its resource. An
access ends within its command here, so a controller holds no request but a Press unit's job (log 42). -/
def execProgressMonitorExpiry (r : Stuck) (s : State) : Host.Outcome State Fault Refusal :=
  if !s.serving then ok s
  else match r with
    | .channel c => if c < 256 then ok ((s.logStuck 4 3 c).startMapOut c) else ok s
    | .port p => if p < 2 ∧ ((s.port p).state = 1 ∨ (s.port p).state = 2) then ok ((s.logStuck 4 4 p).mapOutPort p) else ok s
    | .press u => if u < 32 then ok (((s.logStuck 2 7 u).pressStuck u 0x4002).pressCount u) else ok s
    | .other k => ok ((s.logStuck 5 0x0C k).openControl 7 0x0C k)

-- ---------------------------------------------------------------- control blocks (R475)

/-- The number of a control block in DATA of its record (log 42), and its cause. -/
def blockCode : ControlBlock → Nat
  | .collator => 0
  | .cutter => 1
  | .pager => 2
  | .queueEngine => 3

def blockCause : ControlBlock → Nat
  | .collator => 5
  | .cutter => 5
  | .pager => 6
  | .queueEngine => 5

/-- The requester of an operation receives 0x4002: a run stops, another command ends. -/
def State.failRequester (s : State) (i sq cid : Nat) : State :=
  match s.cmds.find? (fun c => c.inst == i && c.sq == sq && c.cid == cid && c.open_) with
  | none => s
  | some c =>
    match s.runs.find? (fun p => p.2.cmd == c.no) with
    | some p => (s.stopRun p.1 0x4002).settle p.1
    | none => (s.forget (.cmd c.no)).finish c.no 0x4002 0 0

/-- CONTROL_FAULT_DETECTED: the operation is repeated once; a second fault opens a cause. -/
def execControlFaultDetected (b : ControlBlock) (die : Nat) (again : Bool) (req : Option (Nat × Nat × Nat)) (s : State) :
    Host.Outcome State Fault Refusal :=
  if !s.serving || decide (4 ≤ die) then ok s
  else if !again then
    ok (s.logFh { kind := 0x0A04, outcome := 1, mech := 2, resType := 0x0C, resIdx := die, data := leBytes 4 (blockCode b) })
  else
    let s := s.logFh { kind := 0x0A04, status := 0x4002, outcome := 5, mech := 2, resType := 0x0C, resIdx := die, data := leBytes 4 (blockCode b) }
    let s := match req with
      | some (i, sq, cid) => s.failRequester i sq cid
      | none => s
    ok (s.openControl (blockCause b) 0x0C die)

-- ---------------------------------------------------------------- the Spine (R474)

/-- A bridge wire's fault: the second within 1 s steers the spare of its 32 wires in; without one the cause SPINE opens. -/
def State.wireFault (s : State) (bridge wire : Nat) : State :=
  let key := bridge * 2 ^ 16 + wire / 32
  let (n, hit, s) := s.countEvent 9 (bridge * 2 ^ 16 + wire) 1000000000 2
  let record := fun (s : State) (outcome : Nat) =>
    s.logFh { kind := 0x0A04, outcome := outcome, mech := 1, resType := 6, resIdx := bridge, count := n, data := leBytes 4 wire }
  if !hit then record s 0
  else if s.col.spareWires.contains key then (record s 5).openControl 4 6 bridge
  else record { s with col := { s.col with spareWires := s.col.spareWires ++ [key], optimeSaved := s.col.optime } } 3

/-- SPINE_FAULT_DETECTED: a transfer is sent again once, which masks a passing fault; a second failure opens the cause SPINE.
An armed fault of the segment is this one (R488). -/
def execSpineFaultDetected (f : SpineFault) (s : State) : Host.Outcome State Fault Refusal :=
  if !s.serving then ok s
  else match f with
    | .transfer g =>
      let inj := s.armed 5 g
      let s := if inj then s.disarm else s
      ok (s.logFh { kind := 0x0A04, outcome := 0, mech := 3, resType := 6, resIdx := g, flags := if inj then 2 else 0 })
    | .transferAgain g =>
      ok ((s.logFh { kind := 0x0A04, status := 0x4002, outcome := 5, mech := 3, resType := 6, resIdx := g }).openControl 4 6 g)
    | .wire b w => ok (s.wireFault b w)

end Sys2Proof.Machine
end

