-- ==== Sys2Proof/Machine/Mailbox.lean ====
section
/-! DEFINITION. Mailboxes between a tenant and the manager (R367–R369). -/
namespace Sys2Proof.Machine

def State.updMbx (s : State) (i : Nat) (f : Mbx → Mbx) : State := s.updInst i (fun x => { x with mbx := f x.mbx })

/-- Sets a bit of a number. -/
def setBit (v k : Nat) : Nat := v ||| (1 <<< k)
/-- Clears a bit of a number. -/
def clrBit (v k : Nat) : Nat := if bitAt v k then v - 2 ^ k else v

/-- Signals the manager for instance `i`: its pending bit, and PF vector INST_POOL_CFG.MBX_IV (R368). -/
def State.signalManager (s : State) (i : Nat) : State :=
  let off := 0x100038 + 8 * (i / 64)
  (s.setReg off (setBit (s.reg off) (i % 64))).signal 0 (s.regField offMbxIv 5 0)

/-- Signals a tenant on MBX_CTRL.IV when IEN is 1 (R368). -/
def State.signalTenant (s : State) (i : Nat) : State :=
  let c := s.winReg i 0x1F18
  if bitAt c 6 then s.signal i (bits c 5 0) else s

/-- The MBX_STATUS bits of one side as a sender: VALID, WAIT and TIMEOUT of the tenant (up) or the manager. -/
def mbxValid (up : Bool) : Nat := if up then 0 else 1
def mbxWait (up : Bool) : Nat := if up then 2 else 3
def mbxTimedOut (up : Bool) : Nat := if up then 4 else 5

/-- SEQ of a side's waiting request, and of its timed-out request without a response. -/
def Mbx.seqOf (m : Mbx) (up : Bool) : Nat := if up then m.upSeq else m.downSeq
def Mbx.timedOf (m : Mbx) (up : Bool) : Option Nat := if up then m.upTimed else m.downTimed
def Mbx.setTimed (m : Mbx) (up : Bool) (v : Option Nat) : Mbx := if up then { m with upTimed := v } else { m with downTimed := v }
def Mbx.setSeq (m : Mbx) (up : Bool) (v : Nat) : Mbx := if up then { m with upSeq := v } else { m with downSeq := v }

/-- Is a doorbell ignored (R368, R369)? -/
def Mbx.refuses (m : Mbx) (up : Bool) (v : Nat) : Bool :=
  let seq := bits v 31 16
  let resp := bitAt v 15
  bitAt m.status (mbxValid up)
  || decide ((if up then 2047 else 1791) < bits v 11 0)
  || bits v 14 12 != 0 || bits v 63 32 != 0
  || (resp && !(bitAt m.status (mbxWait (!up)) && m.seqOf (!up) == seq) && m.timedOf (!up) != some seq)
  || (!resp && bitAt m.status (mbxWait up))

/-- What a doorbell does to the signals of the page (R368, R369). -/
def Mbx.ring (m : Mbx) (up : Bool) (v : Nat) : Mbx :=
  let seq := bits v 31 16
  if m.refuses up v then { m with status := setBit m.status 7 }
  else
    let m := { m with status := setBit m.status (mbxValid up) }
    if bitAt v 15 then
      if bitAt m.status (mbxWait (!up)) && m.seqOf (!up) == seq then
        { m with status := clrBit m.status (mbxWait (!up)) }
      else { m with status := setBit m.status 6 }.setTimed (!up) none
    else ({ m with status := setBit m.status (mbxWait up) }.setSeq up seq).setTimed up none

/-- A mailbox doorbell: the page's signals change and the receiver is signalled (R368). -/
def State.mbxDoorbell (s : State) (i : Nat) (up : Bool) (v : Nat) : State :=
  match s.inst? i with
  | none => s
  | some x =>
    if !s.serving || i == 0 then s
    else
      let go := !x.mbx.refuses up v
      let s := s.updMbx i (fun m => m.ring up v)
      if !go then s else if up then s.signalManager i else s.signalTenant i

def execMailboxUpDoorbell (i : Nat) (value : Word) (s : State) : Host.Outcome State Fault Refusal :=
  ok (s.mbxDoorbell i true value.toNat)

def execMailboxDownDoorbell (i : Nat) (value : Word) (s : State) : Host.Outcome State Fault Refusal :=
  ok (s.mbxDoorbell i false value.toNat)

/-- A request whose response has not come: WAIT clears, TIMEOUT is set and the requester is signalled (R369). -/
def State.mailboxLate (s : State) (i : Nat) (up : Bool) : State :=
  match s.inst? i with
  | none => s
  | some x =>
    if !s.running || !bitAt x.mbx.status (mbxWait up) then s
    else
      let s := s.updMbx i (fun m =>
        { m with status := setBit (clrBit m.status (mbxWait up)) (mbxTimedOut up) }.setTimed up (some (m.seqOf up)))
      if up then s.signalTenant i else s.signalManager i

/-- MAILBOX_TIMEOUT: the response timeout of a waiting request passes; a response within the same tick is on time
(R16, R369). -/
def execMailboxTimeout (i : Nat) (up : Bool) (s : State) : Host.Outcome State Fault Refusal :=
  match s.inst? i with
  | none => ok s
  | some x => if !s.running || !bitAt x.mbx.status (mbxWait up) then ok s else ok (s.expire (.mailbox i up))

end Sys2Proof.Machine
end

