-- ==== Sys2Proof/Machine/Merger.lean ====
section
/-! DEFINITION. The Collating mergers (R169–R173). -/
namespace Sys2Proof.Machine

/-- A run of a merge (R169). -/
structure MergeRun where
  addr : Nat
  recs : Nat
deriving DecidableEq, Repr

/-- Where a merge stands, with the key at the head of each run (`none`: the run is used up). -/
structure MergeAt where
  pos   : MergePos
  heads : List (Option Nat)

/-- A merged record: run, key, address, and whether it is less than its predecessor in its run. -/
structure Merged where
  run  : Nat
  key  : Nat
  addr : Nat
  bad  : Bool
deriving DecidableEq, Repr

/-- The key at the head of run `k` after `n` of its records. -/
def State.headKey (s : State) (l : Leaf) (kb : Nat) (rs : List MergeRun) (k n : Nat) : Acc (Option Nat) :=
  match rs[k]? with
  | none => .ok none s
  | some r =>
    if r.recs ≤ n then .ok none s
    else match s.devRead (.trimmer l.id) l.inst (r.addr + n * (kb + 8)) kb with
      | .ok b s => .ok (some (ofLe b)) s
      | .wait s => .wait s
      | .fail st a s => .fail st a s

/-- The keys at the heads of all runs. -/
def State.headKeys (s : State) (l : Leaf) (kb : Nat) (rs : List MergeRun) (taken : List Nat) : Nat → List (Option Nat) →
    Acc (List (Option Nat))
  | 0, got => .ok got s
  | n + 1, got =>
    match s.headKey l kb rs got.length (taken.getD got.length 0) with
    | .ok h s => s.headKeys l kb rs taken n (got ++ [h])
    | .wait s => .wait s
    | .fail st a s => .fail st a s

/-- The run whose head is least, the lower run on equal keys (R170). -/
def leastRun : List (Option Nat) → Nat → Option (Nat × Nat) → Option (Nat × Nat)
  | [], _, best => best
  | none :: r, k, best => leastRun r (k + 1) best
  | some x :: r, k, best =>
    match best with
    | some (j, y) => leastRun r (k + 1) (if x < y then some (k, x) else some (j, y))
    | none => leastRun r (k + 1) (some (k, x))

/-- Merges up to `n` records (R170, R171); it stops after a breach unless `through`. -/
def State.mergeSome (s : State) (l : Leaf) (kb : Nat) (rs : List MergeRun) (through : Bool) : Nat → MergeAt → List Merged →
    Acc (MergeAt × List Merged)
  | 0, m, got => .ok (m, got) s
  | n + 1, m, got =>
    match leastRun m.heads 0 none with
    | none => .ok (m, got) s
    | some (k, x) =>
      let t := m.pos.taken.getD k 0
      let bad := match m.pos.last.getD k none with
        | some y => decide (x < y)
        | none => false
      let rec_ : Merged := { run := k, key := x, addr := (rs.getD k { addr := 0, recs := 0 }).addr + t * (kb + 8), bad := bad }
      match s.headKey l kb rs k (t + 1) with
      | .wait s => .wait s
      | .fail st a s => .fail st a s
      | .ok h s =>
        let pos : MergePos := { taken := m.pos.taken.set k (t + 1), last := m.pos.last.set k (some x), done := m.pos.done + 1 }
        let m : MergeAt := { pos := pos, heads := m.heads.set k h }
        if bad && !through then .ok (m, got ++ [rec_]) s
        else s.mergeSome l kb rs through n m (if through then got else got ++ [rec_])

/-- The payloads of merged records. -/
def State.payloads (s : State) (l : Leaf) (kb : Nat) : List Merged → Bytes → Acc Bytes
  | [], got => .ok got s
  | m :: rest, got =>
    match s.devRead (.trimmer l.id) l.inst (m.addr + kb) 8 with
    | .ok b s => s.payloads l kb rest (got ++ b)
    | .wait s => .wait s
    | .fail st a s => .fail st a s

/-- The section of a merged batch (R172). -/
def mergeSection (kb : Nat) (ms : List Merged) (pay : Bytes) : Bytes :=
  let block := fun (b : Bytes) => padTo b (ceilDiv b.length 64 * 64)
  leBytes 1 kb ++ zeros 63 ++ block ((ms.map (fun m => leBytes kb m.key)).flatten) ++ block pay
  ++ block ((ms.map (fun m => leBytes 1 m.run)).flatten)

/-- What came of serving a leaf of a merge. -/
inductive MergeServed where
  | done (s : State)
  | waits (s : State)

/-- The next batch of one leaf of a merge (R171, R172): the merge goes on from the leaf's place, which is found from the
farthest place known before it. -/
def State.serveMerge (s : State) (q k sig id first count : Nat) (r : EngRun) (l : Leaf) (run : Run) : MergeServed :=
  let g := sigInfo run.image sig
  let stop := fun (st a : Nat) (s : State) => MergeServed.done (s.failAt l st a)
  match s.devRead (.trimmer id) l.inst g.so (32 * g.se) with
  | .wait s => .waits s
  | .fail st a s => stop st a s
  | .ok d s =>
    let es := Machine.groups 32 g.se d
    let kb := fld (es.headD []) 0x10 1
    let rs : List MergeRun := es.map (fun e => { addr := fld e 0 8, recs := fld e 8 8 })
    let zero : MergePos := { taken := List.replicate g.se 0, last := List.replicate g.se none }
    let known := (run.sig sig).mpos
    let base : MergePos := if known.taken = [] ∨ first < known.done then zero else known
    let from_ := l.merge.getD base
    match s.headKeys l kb rs from_.taken g.se [] with
    | .wait s => .waits s
    | .fail st a s => stop st a s
    | .ok hs s =>
      match s.mergeSome l kb rs true (first + l.row - from_.done) { pos := from_, heads := hs } [] with
      | .wait s => .waits s
      | .fail st a s => stop st a s
      | .ok (m0, _) s =>
        match s.mergeSome l kb rs false (min 1024 (count - l.row)) m0 [] with
        | .wait s => .waits s
        | .fail st a s => stop st a s
        | .ok (m1, ms) s =>
          let far := fun (s : State) => s.updSig k sig (fun x =>
            { x with mpos := if x.mpos.taken = [] ∨ x.mpos.done < m1.pos.done then m1.pos else x.mpos })
          let c := 0x802000 + 0x8000 * q
          match ms.find? (·.bad) with
          | some b =>
            let s := far ((s.count c ms.length).count (c + 8) 1)
            .done (s.failLeaf id 0x1002 (0x20 * 2 ^ 24 + b.run))
          | none =>
            match s.payloads l kb ms [] with
            | .wait s => .waits s
            | .fail st a s => stop st a s
            | .ok pay s =>
              let last := decide (count ≤ l.row + ms.length)
              match s.deliver 18 l.engine r (plainBatch l.row ms.length last (mergeSection kb ms pay)) last with
              | none => .waits s
              | some (r, s) =>
                let s := far ((s.setRun l.engine r).count c ms.length)
                .done (s.updLeaf id (fun x => { x with
                  row := x.row + ms.length
                  rowsIn := x.rowsIn + ms.length
                  merge := some m1.pos
                  mergeAt := if x.row = 0 then some m0.pos else x.mergeAt }))

/-- The leaves of a merge that run and still await batches, in sequence order. -/
def State.mergeLeaves (s : State) (k sig : Nat) : List Leaf :=
  let ls := (s.leaves.map (·.2)).filter (fun l => l.run == k && l.sig == sig && l.state == .running
    && (match l.src with
        | .merge _ n => decide (l.row < n) || n == 0
        | _ => false))
  sortBy (fun a b => decide (a.ord ≤ b.ord)) ls

/-- Serves the first of some leaves of a merge that can take a batch; one whose merger's quire has been mapped out fails
(R151). -/
def State.serveMergeLeaf (s : State) (q k sig : Nat) : List Leaf → MergeServed
  | [] => .waits s
  | l :: rest =>
    match s.engRun l.engine, s.run? k, l.src with
    | some r, some run, .merge first count =>
      match (if r.leaf ≠ l.id then .waits s
        else if s.col.mapQuires.contains q then .done (s.failLeaf l.id 0x4002 0)
        else s.serveMerge q k sig l.id first count r l run) with
      | .done s => .done s
      | .waits s => s.serveMergeLeaf q k sig rest
    | _, _, _ => s.serveMergeLeaf q k sig rest

/-- The merges of a quire's merger, the first started first: run and signature; four are served at once (R173). -/
def State.merges (s : State) (q : Nat) : List (Nat × Nat) :=
  let all := (s.runs.map (fun p => ((p.2.sigs.zipIdx.filter (fun x => x.1.state == .running && x.1.merger == some q)).map
    (fun x => (x.1.started, p.1, x.2))))).flatten
  ((sortBy (fun (a b : Nat × Nat × Nat) => decide (a.1 ≤ b.1)) all).take 4).map (·.2)

/-- Tries merges in turn until one is served, and remembers it. -/
def State.serveMerges (s : State) (q : Nat) : List (Nat × Nat) → State
  | [] => s
  | (k, sig) :: rest =>
    match s.serveMergeLeaf q k sig (s.mergeLeaves k sig) with
    | .done s => s.updQuire q (fun x => { x with rr := k * 1024 + sig })
    | .waits s => s.serveMerges q rest

/-- MERGER_BATCH: the merger of quire `q` delivers the next batch of one of its merges, round robin (R172, R173). -/
def execMergerBatch (q : Nat) (s : State) : Host.Outcome State Fault Refusal :=
  if !s.running then ok s
  else
    let ms := s.merges q
    let n := ((findIdxFrom (fun (m : Nat × Nat) => m.1 * 1024 + m.2 == (s.quire q).rr) ms 0).map (fun x => x.1 + 1)).getD 0
    ok (s.serveMerges q (ms.drop n ++ ms.take n))

end Sys2Proof.Machine
end

