-- ==== Sys2Proof/Machine/PagerRows.lean ====
section
/-! DEFINITION. The Pager's own events: sweep, eviction, restore, and the diagnostic table walk (R222, R223,
R228–R236, R249). -/
namespace Sys2Proof.Machine

/-- Does a requester of an instance wait for a frame that its quota does not have (R228, R230)? -/
def State.frameWanted (s : State) (i : Nat) : Bool := (s.firstShort i).isSome

/-- The hand of an instance goes back to a frame. -/
def State.handBack (s : State) (i f : Nat) : State :=
  match s.frame? f with
  | some d => s.updPager (fun p => { p with hand := Tab.set p.hand i d.seq })
  | none => s

/-- Is a victim of the sweep of an instance still moving out? The sweep takes the next one after it (R229). -/
def State.evicting (s : State) (i : Nat) : Bool :=
  s.pager.pages.any (fun p => decide (p.1 / 2 ^ 48 = i) && p.2.state == .movingOut)

/-- The sweep of one instance: below LOW_WATER, or for a waiting requester, its hand finds a victim and the pages of
the victim start to move out; a victim without lower-tier room fails the requester, and one whose T1 units are still being
zeroed is taken up again by the next sweep (R228–R231, R233). -/
def execPagerSweep (i : Nat) (s : State) : Host.Outcome State Fault Refusal :=
  if !s.running || (s.inst? i).isNone || s.evicting i then ok s
  else if s.quotaFree i < s.regField offPgrCfg 15 8 ∨ s.frameWanted i then
    match s.sweepVictim i (2 * (s.framesOf i).length + 1) with
    | (none, s) => ok s
    | (some f, s) =>
      match s.pagesIn f with
      | [] => ok (s.releaseFrame f)
      | ps =>
        match s.startEvicts ps with
        | .going s => ok s.retireFrames
        | .soon s => ok (s.handBack i f).retireFrames
        | .full => ok (if s.frameWanted i then s.failForRoom i else s)
  else ok s

/-- An eviction's switch point (R231 step 6). -/
def execPageEvictComplete (i va : Nat) (s : State) : Host.Outcome State Fault Refusal :=
  if s.running then ok (s.finishEvict i va) else ok s

/-- The end of a restore (R234); `badBlocks` are the 64 KiB blocks that the expander or the host answers with poison
(R236). Trace records and authentic payloads that wait for a page are written (R208, R21). -/
def execPageRestoreComplete (i va : Nat) (badBlocks : List Nat) (s : State) : Host.Outcome State Fault Refusal :=
  if s.running then ok ((s.restorePage i va badBlocks).traceRestored.placeRestored i) else ok s

/-- A write of PGR_WALK_CTRL: GO starts a walk (R249). -/
def execPageTableWalk (value : Word) (s : State) : Host.Outcome State Fault Refusal :=
  if s.running && !s.dev.cold && bitAt value.toNat 0 then ok (s.setReg offWalkCtrl (s.reg offWalkCtrl ||| 1)) else ok s

/-- The last entry that a walk of an address reads: its level minus one, and its two words, zero for an entry not in
use (R221, R222). -/
def State.walk (s : State) (i va : Nat) : Nat × Nat × Nat :=
  let rs := s.pager.ranges.filter (fun r => r.inst == i)
  let touches := fun k => rs.any (fun r => decide (r.base / 2 ^ k ≤ va / 2 ^ k) && decide (va / 2 ^ k ≤ (r.base + r.len - 1) / 2 ^ k))
  if !touches 39 then (0, 0, 0)
  else if !touches 30 then (1, 0, 0)
  else
    let small := rs.any (fun r => !r.big && decide (r.base / mib2 ≤ va / mib2) && decide (va / mib2 ≤ (r.base + r.len - 1) / mib2))
    let lvl := if small then 3 else 2
    match s.range? i va with
    | none => (lvl, 0, 0)
    | some r =>
      let g := (s.page? i (r.pageOf va)).getD {}
      let loc := if r.direct then r.pageOf va else g.loc
      (lvl, entryWord0 r g, loc)

/-- The walk ends: VALID, LEVEL and the entry words are final and GO clears (R249); VALID is 0 for an instance whose TDI is
locked (R390). -/
def execPageTableWalkComplete (s : State) : Host.Outcome State Fault Refusal :=
  if s.running && bitAt (s.reg offWalkCtrl) 0 then
    let a := s.reg offWalkAddr
    let (lvl, w0, w1) := if s.tdiLocked (bits a 54 48) then (0, 0, 0) else s.walk (bits a 54 48) (bits a 47 0)
    ok (((s.setReg 0x300040 w0).setReg 0x300048 w1).setReg offWalkCtrl (2 * (w0 / 2 ^ 63) + 16 * lvl))
  else ok s

end Sys2Proof.Machine
end

