-- ==== Sys2Proof/Machine/ConfigSpace.lean ====
section
/-! DEFINITION. What configuration space shows of the host port (R24, R312, R313). The manual gives no offsets: each field is
named (log 93). -/
namespace Sys2Proof.Machine

/-- The fields of a function's configuration space that R312 gives a value. -/
inductive CfgField where
  | vendorId | deviceId | classCode | revisionId | subsystemVendorId | subsystemId
  | initialVfs | vfOffset | vfStride | ariRequired
  | maxPayload | maxReadRequest | tagBits | extendedTagBits | outstanding
  | msixVectors | msixEnable | msixMask | intx | msi
  | atsQueueDepth | pasid | pri
  | ideSelectiveStreams | hdmDecoders
  | linkLanes | linkGeneration
deriving DecidableEq, Repr

/-- The value of a field in the configuration space of function `fn`, 0 for PF 0 and n for VF n: the same with and without an
instance (R313). The link's fields read 0 while it is down. -/
def State.config (s : State) (fn : Nat) : CfgField → Nat
  | .vendorId => 0x1F9C
  | .deviceId => 0x0256
  | .classCode => 0x120000
  | .revisionId => 0xB0
  | .subsystemVendorId => 0x1F9C
  | .subsystemId => 0x0001
  | .initialVfs => 127
  | .vfOffset => 1
  | .vfStride => 1
  | .ariRequired => 1
  | .maxPayload => 512
  | .maxReadRequest => 4096
  | .tagBits => 10
  | .extendedTagBits => 14
  | .outstanding => 1024
  | .msixVectors => 64
  | .msixEnable => b2n (bitAt (s.msixControl fn) 15)
  | .msixMask => b2n (bitAt (s.msixControl fn) 14)
  | .intx => 0
  | .msi => 0
  | .atsQueueDepth => 32
  | .pasid => 0
  | .pri => 0
  | .ideSelectiveStreams => 8
  | .hdmDecoders => 20
  | .linkLanes => (s.link.map (·.1)).getD 0
  | .linkGeneration => (s.link.map (·.2)).getD 0

end Sys2Proof.Machine
end

