-- ==== Sys2Proof/Machine/TrimDecode.lean ====
section
/-! DEFINITION. What a Trimmer makes of a column page: descriptors, packed values, the hybrid, dictionaries, the
encodings, predicates (R58–R76, R90). -/
namespace Sys2Proof.Machine

-- ---------------------------------------------------------------- descriptors (R58–R61, R68, R70, R80)

/-- A segment descriptor (R59). -/
structure Desc where
  enc    : Nat
  typ    : Nat
  width  : Nat
  flags  : Nat
  stream : Nat
  shift  : Nat
  zero   : Nat
  rows   : Nat
  len    : Nat
  addr   : Nat
  valid  : Nat
  aux    : Nat
  auxLen : Nat
  dict   : Nat
  base   : Nat
  check  : Nat
  defLen : Nat
deriving DecidableEq, Repr

def descOf (b : Bytes) : Desc :=
  { enc := fld b 0 1, typ := fld b 1 1, width := fld b 2 1, flags := fld b 3 1, stream := fld b 4 1, shift := fld b 5 1,
    zero := fld b 6 2, rows := fld b 8 4, len := fld b 0xC 4, addr := fld b 0x10 8, valid := fld b 0x18 8,
    aux := fld b 0x20 8, auxLen := fld b 0x28 4, dict := fld b 0x2C 4, base := fld b 0x30 8, check := fld b 0x38 4,
    defLen := fld b 0x3C 4 }

def Desc.last (d : Desc) : Bool := bitAt d.flags 0
def Desc.hasValidity (d : Desc) : Bool := bitAt d.flags 1
def Desc.parquetDef (d : Desc) : Bool := bitAt d.flags 2
def Desc.hasCheck (d : Desc) : Bool := bitAt d.flags 3
/-- DICT or PQ_RLE_DICT. -/
def Desc.isDict (d : Desc) : Bool := d.enc == 5 || d.enc == 6
/-- Bytes of the validity bitmap that hold the page's rows (R70). -/
def Desc.validBytes (d : Desc) : Nat := if d.hasValidity then (d.shift + d.rows + 7) / 8 else 0

/-- Does a TYPE go with an ENCODING (R61)? -/
def pairOk (enc t : Nat) : Bool :=
  (if typeString t then decide (6 ≤ enc) && decide (enc ≤ 9) else decide (enc ≤ 6))
  && (!(typeFloat t || t == 0x04 || t == 0x14) || [0, 4, 5, 6].contains enc)

/-- Is a WIDTH right for its ENCODING (R59, R61)? -/
def widthOk (enc t w : Nat) : Bool :=
  if enc = 0 ∨ enc = 4 then w == typeBytes t
  else if enc ≤ 3 then decide (1 ≤ w) && decide (w ≤ 64)
  else if enc = 5 then decide (1 ≤ w) && decide (w ≤ 16)
  else w == 0

/-- Is a descriptor free of reserved fields and values and of invalid pairings (R59–R61, R68, R70)? AUX_LENGTH without
an AUX buffer and DEF_LENGTH without PARQUET_DEF must be zero too, which R59 does not say (DESIGN CHOICE, log 84). -/
def Desc.ok (d : Desc) : Bool :=
  d.flags / 16 == 0 && d.zero == 0 && decide (d.stream ≤ 3) && decide (d.shift ≤ 7)
  && decide (1 ≤ d.rows) && decide (d.rows ≤ 65536) && decide (1 ≤ d.len) && decide (d.len ≤ 4194304)
  && decide (d.enc ≤ 9) && typeKnown d.typ && pairOk d.enc d.typ && widthOk d.enc d.typ d.width
  && !(d.hasValidity && d.parquetDef)
  && (d.hasValidity || d.valid == 0) && (d.hasCheck || d.check == 0) && (d.parquetDef || d.defLen == 0)
  && (d.isDict || d.enc == 8 || d.enc == 9 || (d.aux == 0 && d.auxLen == 0))
  && d.isDict == (d.dict != 0) && (d.enc == 2 || d.enc == 3 || d.base == 0)
  && (!d.isDict || typeString d.typ || d.auxLen % typeBytes d.typ == 0)

/-- The error that stage 1 finds in the descriptor at stream `s` of a page group of `rows` rows (R58, R91). -/
def Desc.stage1 (d : Desc) (p : Bytes) (s rows : Nat) : Option Nat :=
  let e := tpStream p s
  if !d.ok || d.stream != s || d.rows != rows || d.last != (s + 1 == tpStreams p) then some 1
  else if d.typ ≠ e.typ then some 2
  else if e.role = 2 ∧ (d.enc ≠ 0 ∨ d.parquetDef) then some 7
  else none

/-- The lowest stream with an error of stage 1, and its reason; a list that ends early lacks a descriptor (R58). -/
def stage1 (p : Bytes) (ds : List Desc) : Option (Nat × Nat) :=
  let rows := ((ds.head?).map (·.rows)).getD 0
  (List.range (tpStreams p)).findSome? (fun s =>
    (match ds[s]? with
      | some d => d.stage1 p s rows
      | none => some 1).map (fun r => (s, r)))

-- ---------------------------------------------------------------- packed values and the hybrid (R62, R64)

/-- `w` bits from bit `k` of a byte string, least significant first (R62). -/
def bitsFrom (b : Bytes) (k w : Nat) : Nat := ofLe (slice b (k / 8) (w / 8 + 2)) >>> (k % 8) % 2 ^ w

/-- A run header: the bytes end first, it is longer than 5 bytes, or its value and the position after it (R64). -/
inductive RunHdr where
  | overran
  | long
  | hdr (h pos : Nat)

/-- Reads a ULEB128 header of at most `n` bytes. -/
def runHdr (b : Bytes) (lim : Nat) : Nat → Nat → Nat → Nat → RunHdr
  | 0, _, _, _ => .long
  | n + 1, pos, sh, acc =>
    if lim ≤ pos then .overran
    else
      let x := (b.getD pos 0).toNat
      let acc := acc + x % 128 * 2 ^ sh
      if x < 128 then .hdr acc (pos + 1) else runHdr b lim n (pos + 1) (sh + 7) acc

/-- What a decoder has made: values, the position after the last needed byte, the reason at which it stopped. -/
structure RawVals where
  vals : List Nat
  need : Nat
  stop : Option Nat := none

/-- The hybrid of R64: up to `cnt` values of `bw` bits from `pos`, in a buffer that ends at `lim`. -/
def hybrid (b : Bytes) (lim bw cnt : Nat) : Nat → Nat → Nat → List Nat → RawVals
  | 0, _, need, out => { vals := out, need := need }
  | fuel + 1, pos, need, out =>
    if cnt ≤ out.length then { vals := out, need := need }
    else match runHdr b lim 5 pos 0 0 with
      | .overran => { vals := out, need := need, stop := some 8 }
      | .long => { vals := out, need := need, stop := some 3 }
      | .hdr h pos =>
        let left := cnt - out.length
        if h / 2 = 0 then { vals := out, need := need, stop := some 3 }
        else if h % 2 = 0 then
          let vb := (bw + 7) / 8
          if lim < pos + vb then { vals := out, need := need, stop := some 8 }
          else hybrid b lim bw cnt fuel (pos + vb) (pos + vb) (out ++ List.replicate (min (h / 2) left) (ofLe (slice b pos vb)))
        else
          let take := min (h / 2 * 8) left
          let nb := (take * bw + 7) / 8
          let fits := if pos + nb ≤ lim then take else (lim - pos) * 8 / bw
          let out := out ++ (List.range fits).map (fun i => bitsFrom b (8 * pos + i * bw) bw)
          if fits < take then { vals := out, need := need, stop := some 8 }
          else hybrid b lim bw cnt fuel (pos + h / 2 * bw) (pos + nb) out

-- ---------------------------------------------------------------- values

/-- A value: its bytes at the TYPE width (a string: 16-byte prefix and 4-byte length), its dictionary code, a string's
address, and whether its prefix is still to be read there. -/
structure TVal where
  b    : Bytes
  code : Nat := 0
  loc  : Nat := 0
  far  : Bool := false
deriving DecidableEq, Repr

/-- The bytes of a string value. -/
def strVal (data : Bytes) (len loc : Nat) : TVal := { b := padTo (data.take 16) 16 ++ leBytes 4 len, loc := loc }

/-- Is a value in the range of a TYPE (R63)? -/
def inRange (t : Nat) (v : Int) : Bool :=
  let w := 8 * typeBytes t
  if t = 0x60 then decide (0 ≤ v) && decide (v ≤ 1)
  else if typeSigned t then decide (-(2 ^ (w - 1) : Nat) ≤ v) && decide (v < (2 ^ (w - 1) : Nat))
  else decide (0 ≤ v) && decide (v < (2 ^ w : Nat))

/-- The values of a body: in order, with the errors of single values, the position after the last needed byte, and the
reason that stopped the decoder after them. -/
structure Vals where
  vals : List TVal
  errs : List (Nat × Nat) := []     -- value index and reason
  need : Nat
  stop : Option Nat := none

/-- Values of an integer encoding, checked against the range where a row is not null (R63, R70). -/
def intVals (t : Nat) (live : Nat → Bool) (vs : List Int) (need : Nat) (stop : Option Nat) : Vals :=
  { vals := vs.map (fun v => { b := leBytes (typeBytes t) (unsigned v (8 * typeBytes t)) })
    errs := (vs.zipIdx.filter (fun x => live x.2 && !inRange t x.1)).map (fun x => (x.2, 5))
    need := need, stop := stop }

/-- How many of `n` packed values of `w` bits a body holds from `start`. -/
def packedFits (len start w n : Nat) : Nat := min n ((len - start) * 8 / w)

/-- The RLE runs of R61 and R67: `cut` when the count is not known to be final. A run that is cut off in its value and
would carry the count past `n` has both faults, of which BODY_OVERRUN is the lower reason (R91; log 53). -/
def rleVals (b : Bytes) (w n : Nat) (cut : Bool) : Nat → Nat → List Nat → RawVals
  | 0, pos, out => { vals := out, need := pos }
  | fuel + 1, pos, out =>
    if n ≤ out.length then { vals := out, need := pos }
    else if pos + 4 ≤ b.length ∧ fld b pos 4 = 0 then { vals := out, need := pos, stop := some 3 }
    else if b.length < pos + 4 + w then
      { vals := out, need := pos, stop := some (if pos = b.length then 9 else 8) }
    else
      let run := fld b pos 4
      let v := fld b (pos + 4) w
      if n < out.length + run ∧ !cut then { vals := out, need := pos, stop := some 9 }
      else rleVals b w n cut fuel (pos + 4 + w) (out ++ List.replicate (min run (n - out.length)) v)

/-- The running sums of DELTA, modulo 2^64 (R61). -/
def deltaSums (b : Bytes) (start w : Nat) : Nat → Nat → Nat → List Nat
  | 0, _, _ => []
  | n + 1, i, v =>
    let z := bitsFrom b (8 * start + i * w) w
    let d := if z % 2 = 1 then 2 ^ 64 - 1 - z / 2 else z / 2
    v :: deltaSums b start w n (i + 1) ((v + d) % 2 ^ 64)

/-- Parquet PLAIN byte arrays: length and bytes (R61); the value at each position, as far as the body goes. -/
def byteArrays (b : Bytes) (addr n : Nat) : Nat → Nat → List TVal → Vals
  | 0, pos, out => { vals := out, need := pos }
  | fuel + 1, pos, out =>
    if n ≤ out.length then { vals := out, need := pos }
    else
      let len := fld b pos 4
      if b.length < pos + 4 ∨ b.length < pos + 4 + len then { vals := out, need := pos, stop := some 8 }
      else byteArrays b addr n fuel (pos + 4 + len) (out ++ [strVal ((b.drop (pos + 4)).take len) len (addr + pos + 4)])

/-- Arrow strings: `n + 1` offsets of `w` bytes into the AUX buffer; offsets must stay inside it and must not decrease,
and no string is longer than 2^32 − 1 (R61, R66, R90). Prefixes are read when the batch is made. -/
def arrowVals (b : Bytes) (start w n aux auxLen : Nat) : Vals :=
  let have_ := (b.length - start) / w
  let fits := min n (have_ - 1)
  let off := fun (i : Nat) => fld b (start + i * w) w
  let bad := (List.range fits).map (fun i =>
    let exceeds := off (i + 1) < off i ∨ auxLen < off (i + 1) ∨ auxLen < off i
    (if 0xFFFFFFFF < off (i + 1) - off i then [(i, 5)] else []) ++ (if exceeds then [(i, 8)] else []))
  { vals := (List.range fits).map (fun i =>
      { b := zeros 16 ++ leBytes 4 (off (i + 1) - off i), loc := aux + off i, far := true })
    errs := bad.flatten
    need := start + (n + 1) * w
    stop := if have_ < n + 1 then some 8 else none }

/-- The entries of a dictionary page: TYPE-wide values, or Parquet byte arrays; the Bool says that the page is cut off
inside an entry (R61, R66, R68). -/
def dictEntries (t : Nat) (aux : Bytes) (addr : Nat) : List TVal × Bool :=
  if typeString t then
    let v := byteArrays aux addr aux.length (aux.length + 1) 0 []
    (v.vals, decide (v.need < aux.length))
  else
    let w := typeBytes t
    ((List.range (aux.length / w)).map (fun i => { b := slice aux (i * w) w }), false)

/-- The held size of a dictionary (R68). -/
def dictSize (t : Nat) (aux : Bytes) : Nat :=
  if typeString t then 24 * (dictEntries t aux 0).1.length else aux.length

/-- The codes of a dictionary page as values (R68). -/
def codeVals (es : List TVal × Bool) (live : Nat → Bool) (p : RawVals) : Vals :=
  { vals := p.vals.map (fun c => { es.1.getD c { b := [] } with code := c })
    errs := (if es.2 then [(0, 8)] else [])
      ++ (p.vals.zipIdx.filter (fun x => live x.2 && decide (es.1.length ≤ x.1))).map (fun x => (x.2, 4))
    need := p.need, stop := p.stop }

/-- Decodes `n` values from byte `start` of a body (R61–R68); `live`: the value's row is not null. -/
def pageVals (d : Desc) (b : Bytes) (start n : Nat) (live : Nat → Bool) (cut : Bool) (es : List TVal × Bool) : Vals :=
  let t := d.typ
  let w := d.width
  let len := b.length
  let packed := fun (bw : Nat) =>
    let k := packedFits len start bw n
    ((List.range k).map (fun i => bitsFrom b (8 * start + i * bw) bw), (if k < n then some 8 else none : Option Nat))
  match d.enc with
  | 0 =>
    let k := packedFits len start (8 * w) n
    let raw := (List.range k).map (fun i => slice b (start + i * w) w)
    { vals := raw.map (fun x => { b := x })
      errs := if t = 0x60 then (raw.zipIdx.filter (fun x => live x.2 && decide (1 < ofLe x.1))).map (fun x => (x.2, 5)) else []
      need := start + n * w, stop := if k < n then some 8 else none }
  | 1 => let (vs, st) := packed w; intVals t live (vs.map Int.ofNat) (start + (n * w + 7) / 8) st
  | 2 =>
    let (vs, st) := packed w
    intVals t live (vs.map (fun (v : Nat) => signed d.base 64 + (v : Int))) (start + (n * w + 7) / 8) st
  | 3 =>
    let k := min n ((len - start) * 8 / w + 1)
    let vs := deltaSums b start w k 0 d.base
    intVals t live (vs.map (fun (v : Nat) => if typeSigned t then signed v 64 else (v : Int))) (start + ((n - 1) * w + 7) / 8)
      (if k < n then some 8 else none)
  | 4 =>
    let p := rleVals b w n cut (len + 1) start []
    intVals t live (p.vals.map (fun (v : Nat) => if typeSigned t then signed v (8 * w) else (v : Int))) p.need p.stop
  | 5 => let (vs, st) := packed w; codeVals es live { vals := vs, need := start + (n * w + 7) / 8, stop := st }
  | 6 =>
    -- without values the bit width is not read (DESIGN CHOICE, log 84)
    if n = 0 then { vals := [], need := start }
    else if len ≤ start then { vals := [], need := start, stop := some 8 }
    else
      let bw := (b.getD start 0).toNat
      if 32 < bw then { vals := [], need := start, stop := some 3 }
      else codeVals es live (hybrid b len bw n (len + 1) (start + 1) (start + 1) [])
  | 7 => byteArrays b d.addr n (len + 1) start []
  | 8 => arrowVals b start 4 n d.aux d.auxLen
  | _ => arrowVals b start 8 n d.aux d.auxLen

-- ---------------------------------------------------------------- pages (R67, R70)

/-- A decoded page: its rows (`none`: null) and its errors, each with the row at which it is found. -/
structure Column_ where
  rows : List (Option TVal)
  errs : List (Nat × Nat)

/-- The definition levels of a PARQUET_DEF body: per row non-null, the errors, where the values start (R70). -/
def defLevels (d : Desc) (b : Bytes) : List Bool × List (Nat × Nat) × Bool × Nat :=
  if d.defLen = 0 ∧ b.length < 4 then ([], [(0, 8)], true, 0)
  else
    let lo := if d.defLen = 0 then 4 else 0
    let hi := if d.defLen = 0 then 4 + fld b 0 4 else d.defLen
    let p := hybrid b (min hi b.length) 1 d.rows (b.length + 1) lo lo []
    match findIdxFrom (fun v => decide (1 < v)) p.vals 0 with
    | some (i, _) => ((p.vals.take i).map (· == 1), [(i, 3)], true, hi)
    | none =>
      let lv := p.vals.map (· == 1)
      match p.stop with
      | some r => (lv, [(lv.length, r)], true, hi)
      | none => (lv, if 63 < hi - p.need then [(d.rows - 1, 9)] else [], false, hi)

/-- Puts the values into the rows that are not null. -/
def spread : List Bool → List TVal → List (Option TVal)
  | [], _ => []
  | true :: r, v :: vs => some v :: spread r vs
  | _ :: r, vs => none :: spread r vs

/-- Decodes a page: its body, its validity bitmap, its dictionary (R61–R70). -/
def decodePage (d : Desc) (body bitmap : Bytes) (es : List TVal × Bool) : Column_ :=
  let last := d.rows - 1
  let finish := fun (v : Vals) (start : Nat) (cut : Bool) (rowOf : Nat → Nat) (pre : List (Nat × Nat)) =>
    let errs := pre ++ v.errs.map (fun x => (rowOf x.1, x.2))
      ++ (match v.stop with
          | some r => [(rowOf v.vals.length, r)]
          | none => if !cut && decide (63 < body.length - max v.need start) then [(last, 9)] else [])
    if d.hasCheck && errs == [] && crc32c body != d.check then [(last, 10)] else errs
  if d.parquetDef then
    let (lv, pre, cut, start) := defLevels d body
    let at_ := (lv.zipIdx.filter (·.1)).map (·.2)
    let v := pageVals d body start at_.length (fun _ => true) cut es
    { rows := spread lv v.vals, errs := finish v start cut (fun i => at_.getD i last) pre }
  else
    let live := fun (i : Nat) => !d.hasValidity || bitsFrom bitmap (d.shift + i) 1 == 1
    let v := pageVals d body 0 d.rows live false es
    { rows := v.vals.zipIdx.map (fun x => if live x.2 then some x.1 else none)
      errs := finish v 0 false (fun i => min i last) [] }

-- ---------------------------------------------------------------- predicates (R72–R76)

/-- How a term ends on a row. -/
inductive Verdict where
  | fail
  | pass
  | recheck
deriving DecidableEq, Repr

def Verdict.of (b : Bool) : Verdict := if b then .pass else .fail

/-- All must pass; any that needs a recheck passes with it. -/
def Verdict.and : Verdict → Verdict → Verdict
  | .fail, _ => .fail
  | _, .fail => .fail
  | .pass, .pass => .pass
  | _, _ => .recheck

/-- The order of two strings known by prefix and length, where it is exact: −1, 0 or 1 (R74). -/
def strOrder (p : Bytes) (n : Nat) (q : Bytes) (k : Nat) : Option Int :=
  if p ≠ q then some (if ofBe p < ofBe q then -1 else 1)
  else if n ≤ 16 ∧ k ≤ 16 then some (if n < k then -1 else if k < n then 1 else 0)
  else none

/-- Does an order satisfy a comparison (R72)? -/
def orderHolds (op : Nat) (o : Int) : Bool :=
  match op with
  | 1 => o == 0
  | 2 => o != 0
  | 3 => decide (o < 0)
  | 4 => decide (o ≤ 0)
  | 5 => decide (0 < o)
  | _ => decide (0 ≤ o)

/-- One comparison of a value with a constant (R73, R74). -/
def compareVal (t op : Nat) (x a : Bytes) (alen : Nat) : Verdict :=
  if typeString t then
    match strOrder (x.take 16) (ofLe (x.drop 16)) a alen with
    | some o => .of (orderHolds op o)
    | none => .recheck
  else if typeFloat t then
    let w := 8 * typeBytes t
    .of ((fmtOf w).compare (op - 1) (ofLe x) (ofLe a % 2 ^ w))
  else
    let v : Int := if typeSigned t then signed (ofLe x) (8 * typeBytes t) else ofLe x
    let c : Int := if typeSigned t then signed (ofLe a) 128 else ofLe a
    .of (orderHolds op (v - c))

/-- Is a value an entry of an EXACT set (R75)? -/
def entryIs (t : Nat) (x e : Bytes) : Bool :=
  if typeString t then
    let n := ofLe (x.drop 16)
    decide (n ≤ 15) && ofLe (e.drop 15) == n && x.take 15 == e.take 15
  else if typeFloat t then
    let w := 8 * typeBytes t
    (fmtOf w).compare 0 (ofLe x) (ofLe e % 2 ^ w)
  else compareVal t 1 x e 0 == .pass

/-- Membership of a set: exact, or passing with recheck under a FILTER set (R75). -/
def inSet (p : Bytes) (k t : Nat) (x : Bytes) : Verdict :=
  let (kind, cnt, data) := tpSet p k
  if kind = 1 then .of ((List.range cnt).any (fun i => entryIs t x (slice data (16 * i) 16)))
  else
    let h := sketchHash (canonValue t x)
    if bitsFrom data (h % 4096) 1 = 1 ∧ bitsFrom data (h / 4096 % 4096) 1 = 1 then .recheck else .fail

/-- A term on a row (R72–R75). -/
def Term.eval (m : Term) (p : Bytes) (t : Nat) (x : Option TVal) : Verdict :=
  match x with
  | none => .of (m.op == 9)
  | some v =>
    match m.op with
    | 7 => (compareVal t 6 v.b m.a m.alen).and (compareVal t 4 v.b m.b m.blen)
    | 8 => inSet p m.set t v.b
    | 9 => .fail
    | 10 => .pass
    | 11 => .of (decide (m.alen ≤ ofLe (v.b.drop 16)) && v.b.take m.alen == m.a.take m.alen)
    | op => compareVal t op v.b m.a m.alen

/-- The terms of a stream on a row. -/
def streamVerdict (p : Bytes) (s : Nat) (x : Option TVal) : Verdict :=
  (tpTermsOf p s).foldl (fun v m => v.and (m.eval p (tpStream p s).typ x)) .pass

/-- Does a program hold a STRING comparison or a FILTER set, so that its batches carry a recheck bitmap (R78)? The
operators 1 to 7, which R74 rechecks, count as comparisons; PREFIX and an EXACT set do not (DESIGN CHOICE, log 84). -/
def tpRecheck (p : Bytes) : Bool :=
  (List.range (tpStreams p)).any (fun s => typeString (tpStream p s).typ && (tpTermsOf p s).any (fun m => decide (m.op ≤ 7)))
  || (List.range (tpSets p)).any (fun k => (tpSet p k).1 == 2)

end Sys2Proof.Machine
end

