-- ==== Sys2Proof/Machine/Trimmer.lean ====
section
/-! DEFINITION. The Trimmers: serving leaves one batch at a time, dictionaries, batches, sketches, decode errors
(R57, R58, R68, R69, R77–R81, R88–R92). -/
namespace Sys2Proof.Machine

/-- The register block of a Trimmer (R92). -/
def trimReg (t : Nat) : Nat := 0x408000 + 0x10000 * (t / 32) + 0x100 * (t % 32)

def State.trim (s : State) (t : Nat) : Trim := Tab.get s.trims t {}
def State.updTrim (s : State) (t : Nat) (f : Trim → Trim) : State := { s with trims := Tab.set s.trims t (f (s.trim t)) }

/-- The status of a decode error (R90). -/
def decodeStatus (reason : Nat) : Nat := if reason ≤ 7 then 0x1002 else if reason ≤ 9 then 0x3002 else 0x3003

/-- A decode error: counted, and the leaf fails without retry (R90, R92). -/
def State.decodeError (s : State) (t : Nat) (l : Leaf) (stream reason : Nat) : State :=
  let s := (s.count (trimReg t + 0x20) 1).updTrim t (fun x => { x with reason := reason })
  s.failLeaf l.id (decodeStatus reason) (reason * 2 ^ 24 + stream * 2 ^ 16 + l.unit_ % 65536)

-- ---------------------------------------------------------------- dictionaries (R68, R69)

/-- Reads `n` bytes for a leaf. -/
def State.trimRead (s : State) (l : Leaf) (va n : Nat) : Acc Bytes := s.devRead (.trimmer l.id) l.inst va n

def HeldDict.tagged (d : HeldDict) (l : Leaf) (stream id : Nat) : Bool :=
  d.leafRun == l.run && d.sig == l.sig && d.stream == stream && d.id == id

/-- How the dictionaries of a page group end: all held, one too large, or waiting. -/
inductive DictEnd where
  | ready (s : State)
  | wait (s : State)
  | large (stream : Nat) (s : State)
  | fail (status addr : Nat) (s : State)

/-- Drops dictionaries that no leaf needs, least recently used first, while `need` bytes do not fit. -/
def dropUnused (need : Nat) : Nat → List HeldDict → List HeldDict
  | 0, ds => ds
  | n + 1, ds =>
    if (ds.map (·.size)).foldl (· + ·) 0 + need ≤ 65536 then ds
    else match findIdxFrom (fun (d : HeldDict) => d.users == []) ds 0 with
      | some (k, _) => dropUnused need n (ds.take k ++ ds.drop (k + 1))
      | none => ds

/-- The held dictionary of a page, with its tag; `none`: it must be loaded. -/
def State.heldDict (s : State) (t : Nat) (l : Leaf) (k : Nat) (d : Desc) : Option HeldDict :=
  (s.trim t).dicts.find? (fun h => h.tagged l k d.dict)

/-- What the dictionaries of a page group are: those to be held, in stream order, or how the loading ends. -/
inductive DictPlan where
  | group (hs : List HeldDict) (s : State)
  | stop (e : DictEnd)

/-- Reads the dictionaries of a page group in stream order, those held already under their tag among them; `hs` are the
group's so far. One that takes the group over 64 KiB ends it (R68, R69). -/
def State.planDicts (s : State) (t : Nat) (l : Leaf) : List (Nat × Desc) → List HeldDict → DictPlan
  | [], hs => .group hs s
  | (k, d) :: rest, hs =>
    let used := (hs.map (·.size)).foldl (· + ·) 0
    let add := fun (s : State) (h : HeldDict) =>
      if 65536 < used + h.size then DictPlan.stop (.large k s) else s.planDicts t l rest (hs ++ [h])
    if !d.isDict then s.planDicts t l rest hs
    else match s.heldDict t l k d with
      | some h => add s h
      | none =>
        if !typeString d.typ && decide (65536 < used + d.auxLen) then .stop (.large k s)
        else match s.trimRead l d.aux d.auxLen with
          | .wait s => .stop (.wait s)
          | .fail st a s => .stop (.fail st a s)
          | .ok aux s => add s { leafRun := l.run, sig := l.sig, stream := k, id := d.dict, aux := aux
                                 size := dictSize d.typ aux, users := [] }

/-- Holds a page group's dictionaries for a leaf beside those that other leaves in service need; the group takes none of
them until all fit (R69). -/
def State.loadDicts (s : State) (t : Nat) (l : Leaf) (ds : List (Nat × Desc)) : DictEnd :=
  match s.planDicts t l ds [] with
  | .stop e => e
  | .group hs s =>
    let size := (hs.map (·.size)).foldl (· + ·) 0
    let held := (s.trim t).dicts
    let rest := dropUnused size 256 (held.filter (fun h => !hs.contains h))
    if 65536 < (rest.map (·.size)).foldl (· + ·) 0 + size then .wait s
    else
      let fresh := ((hs.filter (fun h => !held.contains h)).map (·.aux.length)).foldl (· + ·) 0
      let own := hs.map (fun h => { h with users := if h.users.contains l.id then h.users else h.users ++ [l.id] })
      .ready ((s.updTrim t (fun x => { x with dicts := rest ++ own })).count (trimReg t + 0x18) fresh)

/-- The entries of a page's dictionary as held; their addresses lie in the dictionary page that the page's own descriptor
names, since a held string keeps its offset within AUX (R68, R79; log 53). -/
def State.heldEntries (s : State) (t : Nat) (l : Leaf) (k : Nat) (d : Desc) : List TVal × Bool :=
  if !d.isDict then ([], false)
  else ((s.heldDict t l k d).map (fun h => dictEntries d.typ h.aux d.aux)).getD ([], false)

-- ---------------------------------------------------------------- reading a page group

/-- HBM_TRIM_BYTES counts the reads of a page group once, though a wait repeats them: read 0 is the descriptors, read
1 + k the page of stream k (R92). -/
def State.countRead (s : State) (t : Nat) (l : Leaf) (read bytes : Nat) : State :=
  let n := 8 * l.unit_ + read
  if ((s.leaf? l.id).map (·.fetched)).getD 0 ≤ n then
    (s.count (trimReg t + 0x18) bytes).updLeaf l.id (fun x => { x with fetched := n + 1 })
  else s

/-- The bytes that a page makes its Trimmer read besides its dictionary (R87, R92). -/
def pageBytes (p : Bytes) (k : Nat) (d : Desc) : Nat :=
  (if tpUnread p k d.flags then 0 else d.len) + d.validBytes + (if d.enc = 8 ∨ d.enc = 9 then d.auxLen else 0)

/-- Bodies and validity bitmaps of a group's pages, read whole before its first batch (log 84). -/
def State.readPages (s : State) (t : Nat) (l : Leaf) (p : Bytes) :
    List (Nat × Desc) → List (Bytes × Bytes) → Acc (List (Bytes × Bytes))
  | [], got => .ok got s
  | (k, d) :: rest, got =>
    let body : Acc Bytes := if tpUnread p k d.flags then .ok (zeros d.len) s else s.trimRead l d.addr d.len
    match body with
    | .wait s => .wait s
    | .fail st a s => .fail st a s
    | .ok b s =>
      match s.trimRead l d.valid d.validBytes with
      | .wait s => .wait s
      | .fail st a s => .fail st a s
      | .ok v s => (s.countRead t l (1 + k) (pageBytes p k d)).readPages t l p rest (got ++ [(b, v)])

/-- Reads the prefixes of Arrow strings in the rows of a batch (R61, R79). -/
def State.prefixes (s : State) (l : Leaf) : List (Option TVal) → List (Option TVal) → Acc (List (Option TVal))
  | [], got => .ok got s
  | none :: rest, got => s.prefixes l rest (got ++ [none])
  | some v :: rest, got =>
    if !v.far then s.prefixes l rest (got ++ [some v])
    else
      let len := ofLe (v.b.drop 16)
      match s.trimRead l v.loc (min 16 len) with
      | .ok b s => s.prefixes l rest (got ++ [some { v with b := padTo b 16 ++ v.b.drop 16, far := false }])
      | .wait s => .wait s
      | .fail st a s => .fail st a s

/-- The prefixes of every column's rows of a batch. -/
def State.prefixesAll (s : State) (l : Leaf) : List (List (Option TVal)) → List (List (Option TVal)) →
    Acc (List (List (Option TVal)))
  | [], got => .ok got s
  | c :: rest, got =>
    match s.prefixes l c [] with
    | .ok c s => s.prefixesAll l rest (got ++ [c])
    | .wait s => .wait s
    | .fail st a s => .fail st a s

-- ---------------------------------------------------------------- batches (R77–R79)

/-- A bitmap of at most 1,024 rows. -/
def rowBitmap (f : Nat → Bool) : Bytes :=
  (List.range 128).map (fun j => BitVec.ofNat 8 (((List.range 8).map (fun k => if f (8 * j + k) then 2 ^ k else 0)).foldl (· + ·) 0))

/-- Zeros up to whole 64-byte blocks. -/
def padBlock (b : Bytes) : Bytes := padTo b (ceilDiv b.length 64 * 64)

/-- The section of a stream (R79): `col` are the batch's rows, `sel` the selected ones, `row` the page row of batch
row 0. LATE_BASE of an EARLY section, to which R79 gives no value, is zero (DESIGN CHOICE, log 84). -/
def streamSection (e : TrimStream) (d : Desc) (col : List (Option TVal)) (sel : List Nat) (row : Nat) : Bytes :=
  let codes := e.codes && d.isDict
  let at_ := fun (j : Nat) => (col.getD j none)
  let head := fun (late form : Nat) => leBytes 8 late ++ leBytes 1 e.typ ++ leBytes 1 form ++ zeros 54
  if e.role = 2 then head (d.addr + row * d.width) 2 ++ rowBitmap (fun j => (at_ j).isSome)
  else
    let valid := rowBitmap (fun k => match sel[k]? with
      | some j => (at_ j).isSome
      | none => false)
    let each := fun (f : TVal → Bytes) (w : Nat) =>
      padBlock ((sel.map (fun j => match at_ j with
        | some v => f v
        | none => zeros w)).flatten)
    head 0 (b2n codes) ++ valid ++
      (if codes then each (fun v => leBytes 4 v.code) 4
       else if typeString e.typ then
         each (fun v => v.b.take 16) 16 ++ each (fun v => v.b.drop 16) 4 ++ each (fun v => leBytes 8 v.loc) 8
       else each (·.b) (typeBytes e.typ))

/-- Sections one after the other behind a header: their offsets, 0 for an empty one, and their bytes. -/
def layOut : List Bytes → Nat → List Nat × Bytes
  | [], _ => ([], [])
  | b :: r, off =>
    let b := padBlock b
    let (os, bs) := layOut r (off + b.length)
    ((if b = [] then 0 else off) :: os, b ++ bs)

/-- A batch (R77, R78). -/
def trimBatch (p : Bytes) (l : Leaf) (ds : List (Nat × Desc)) (cols : List (List (Option TVal))) (vs : List Verdict)
    (last : Bool) : Bytes :=
  let sel := (vs.zipIdx.filter (fun x => x.1 != .fail)).map (·.2)
  let flags := b2n last + 2 * b2n (tpPositions p) + 4 * b2n (tpRecheck p && sel != []) + 8 * b2n (l.row == 0)
  if sel = [] then batchHeader (l.rowBase + l.row) vs.length 0 flags l.unit_ 64 0 0 []
  else
    let pick := if tpPositions p then (sel.map (leBytes 2)).flatten else rowBitmap (fun j => sel.contains j)
    let again := if tpRecheck p then rowBitmap (fun j => vs.getD j .fail == .recheck) else []
    let secs := ds.map (fun x =>
      let e := tpStream p x.1
      if e.role = 0 then [] else streamSection e x.2 (cols.getD x.1 []) sel l.row)
    let (offs, body) := layOut (pick :: again :: secs) 64
    batchHeader (l.rowBase + l.row) vs.length sel.length flags l.unit_ (64 + body.length) (offs.getD 0 0) (offs.getD 1 0)
      (offs.drop 2) ++ body

/-- The partial sketches of a leaf after a batch (R81, R84). -/
def sketchBatch (p : Bytes) (cols : List (List (Option TVal))) (vs : List Verdict) (t : Tab Sketch) : Tab Sketch :=
  let sel := (vs.zipIdx.filter (fun x => x.1 != .fail)).map (·.2)
  ((List.range (tpStreams p)).filter (bitAt (tpSketch p))).foldl (fun t k =>
    let e := tpStream p k
    let col := cols.getD k []
    let live := sel.filterMap (fun j => col.getD j none)
    let m := live.foldl (fun (m : Sketch) v => m.measure e (canonValue e.typ v.b)) (Tab.get t k {})
    Tab.set t k { m with scanned := m.scanned + vs.length
                         selected := m.selected + sel.length
                         nulls := m.nulls + (sel.length - live.length)
                         recheck := m.recheck + (vs.filter (· == .recheck)).length }) t

-- ---------------------------------------------------------------- serving a leaf

/-- A leaf's answer to being served: its batch is done (delivered, skipped, or the leaf has failed), or it waits. -/
inductive Served where
  | done (s : State)
  | waits (s : State)

/-- After a batch: counters, sketches, the position in the source; the last batch takes the leaf off its Trimmer. -/
def State.afterBatch (s : State) (t : Nat) (l : Leaf) (p : Bytes) (cols : List (List (Option TVal))) (vs : List Verdict)
    (rows : Nat) (last : Bool) : State :=
  let k := vs.length
  let sel := (vs.filter (· != .fail)).length
  let c := trimReg t
  let s := (s.count (c + 8) k).count (c + 0x10) sel
  let ends := decide (rows ≤ l.row + k)
  let s := s.updLeaf l.id (fun x => { x with
    sketches := sketchBatch p cols vs x.sketches
    rowsIn := x.rowsIn + k
    unit_ := if ends then x.unit_ + 1 else x.unit_
    row := if ends then 0 else x.row + k
    rowBase := if ends then x.rowBase + rows else x.rowBase })
  if last then s.leaveTrim l.id
  else
    let s := if ends then s.updTrim t (fun x => { x with
        dicts := x.dicts.map (fun d => { d with users := d.users.filter (· != l.id) }) }) else s
    s.updTrim t (fun x => { x with leaves := x.leaves.filter (· != l.id) |>.insertIdx (min 3 (x.leaves.length - 1)) l.id })

/-- Decodes, filters and delivers the next batch of a leaf (R77, R91). -/
def State.serveScan (s : State) (t : Nat) (l : Leaf) (r : EngRun) (run : Run) (first count : Nat) : Served :=
  let g := sigInfo run.image l.sig
  let p := section_ run.image g.trim
  let w := max 1 (tpStreams p)
  let stop := fun (st a : Nat) (s : State) => Served.done (s.failAt l st a)
  let have_ := min w (count - l.unit_ * w)
  match s.trimRead l (g.so + 64 * (first + l.unit_ * w)) (64 * have_) with
  | .wait s => .waits s
  | .fail st a s => stop st a s
  | .ok raw s =>
    let s := s.countRead t l 0 (64 * have_)
    let list := (Machine.groups 64 have_ raw).map descOf
    let ds := list.zipIdx.map (fun x => (x.2, x.1))
    match stage1 p list with
    | some (k, why) => .done (s.decodeError t l k why)
    | none =>
      match s.loadDicts t l ds with
      | .wait s => .waits s
      | .fail st a s => stop st a s
      | .large k s => .done (s.decodeError t l k 6)
      | .ready s =>
        match s.readPages t l p ds [] with
        | .wait s => .waits s
        | .fail st a s => stop st a s
        | .ok pages s =>
          let rows := ((list.head?).map (·.rows)).getD 0
          let k := min 1024 (rows - l.row)
          let made := (ds.zip pages).map (fun x => decodePage x.1.2 x.2.1 x.2.2 (s.heldEntries t l x.1.1 x.1.2))
          let errs := (made.zipIdx.map (fun c => (c.1.errs.filter (fun x => decide (x.1 < l.row + k))).map (fun x => (c.2, x.2)))).flatten
          match sortBy (fun (a b : Nat × Nat) => decide (a.1 * 256 + a.2 ≤ b.1 * 256 + b.2)) errs with
          | (str, why) :: _ => .done (s.decodeError t l str why)
          | [] =>
            match s.prefixesAll l (made.map (fun c => (List.range k).map (fun j => c.rows.getD (l.row + j) none))) [] with
            | .wait s => .waits s
            | .fail st a s => stop st a s
            | .ok cols s =>
              let vs := (List.range k).map (fun j =>
                (cols.zipIdx.map (fun c => streamVerdict p c.2 (c.1.getD j none))).foldl Verdict.and .pass)
              let last := decide (rows ≤ l.row + k) && decide (count ≤ (l.unit_ + 1) * w)
              if tpSkipEmpty p && !last && vs.all (· == .fail) then .done (s.afterBatch t l p cols vs rows last)
              else match s.deliver 16 l.engine r (trimBatch p l ds cols vs last) last with
                | none => .waits s
                | some (r, s) => .done ((s.setRun l.engine r).afterBatch t l p cols vs rows last)

/-- Serves one leaf of a Trimmer. -/
def State.serveLeaf (s : State) (t id : Nat) : Served :=
  match s.leaf? id with
  | none => .waits s
  | some l =>
    match s.engRun l.engine, s.run? l.run, l.src with
    | some r, some run, .scan first count _ =>
      if r.leaf = id ∧ l.state = .running then s.serveScan t l r run first count else .waits s
    | _, _, _ => .waits s

/-- Tries the leaves in service in turn until one is served (R57, R77, R88). -/
def State.serveFirst (s : State) (t : Nat) : List Nat → State
  | [] => s
  | id :: rest =>
    match s.serveLeaf t id with
    | .done s => s
    | .waits s => s.serveFirst t rest

/-- TRIMMER_BATCH: the Trimmer of device channel `t` serves one of its four leaves in service, round robin, one batch. -/
def execTrimmerBatch (t : Nat) (s : State) : Host.Outcome State Fault Refusal :=
  if s.running then ok (s.serveFirst t ((s.trim t).leaves.take 4)) else ok s

end Sys2Proof.Machine
end

