-- ==== Sys2Proof/Machine/RegView.lean ====
section
/-! DEFINITION. What the registers of PF BAR0 read: those that hold a value of their own read it; the others show the state
they describe (R453, R514, R518 and the register tables of the chapters). -/
namespace Sys2Proof.Machine

/-- Fields of a register: each value at its lowest bit. -/
def fields (l : List (Nat × Nat)) : Nat := l.foldl (fun n p => n + p.2 * 2 ^ p.1) 0

-- ---------------------------------------------------------------- identity, modes, Slipcase (R399, R467, R519)

def State.viewDev (s : State) (off : Nat) : Nat :=
  match off with
  | 0x00 => 0x00B0025600011F9C
  | 0x08 => if s.dev.cold then 0
    else fields [(0, s.enginesUp), (12, s.sparesFree), (16, s.channelsUp), (32, s.lanesUp), (40, s.portsUp)]
  | 0x10 => fields [(0, s.dev.mode.code), (8, b2n s.dev.constrain), (16, sumOf (s.dev.maint.map (2 ^ ·))), (24, s.dev.coldStep),
      (28, s.dev.coldFail), (32, (s.dev.causes.head?.map (·.1)).getD 0), (40, s.dev.causes.length)]
  | 0x18 => b2n s.dev.maintHold
  | 0x20 => s.dev.modeSince
  | 0x28 => s.dev.serviceAt
  | 0x30 => fields [(0, s.dev.activeSlot), (8, s.col.nextSlot), (16, s.dev.actState), (24, s.dev.rollbacks)]
  | 0x38 => s.timebase
  | 0x40 => ofLe (serialBytes.take 8)
  | 0x48 => ofLe (serialBytes.drop 8)
  | 0x50 => s.dev.badAccess
  | 0x58 => s.dev.badLast
  | 0x100 => fields [(0, b2n s.col.prodLock), (1, b2n s.col.domain.isSome), (8, s.slc.state), (16, s.slc.reserve),
      (24, s.slc.activeSvn), (32, s.col.fuseSvn), (40, s.slc.restarts)]
  | 0x118 => s.slc.denied
  | _ => s.reg off

-- ---------------------------------------------------------------- instances (R367, R374)

/-- The pools; before instance 0 takes its allotment they show their Reset column. -/
def State.viewPools (s : State) (off : Nat) : Nat :=
  match off with
  | 0x100008 => if s.dev.cold then 0x01F80100 else fields [(0, 256 - s.allotted (·.minEngines)), (16, 512 - s.groups.length)]
  | 0x100010 => if s.dev.cold then 0x0FC00FC0 else fields [(0, 4096 - s.allotted (·.sqs)), (16, 4096 - s.allotted (·.cqs))]
  | 0x100018 => if s.dev.cold then 0x3C000 else 262144 - s.allotted (·.slotLimit)
  | 0x100020 => s.t0Pool - s.allotted (·.t0)
  | 0x100028 => s.t1Pool - s.allotted (·.t1)
  | 0x100030 => if s.dev.cold then 0x3C1000FF00
    else fields [(0, 65536 - s.allotted (·.assocs)), (24, 16 - s.allotted (·.aperture)), (32, s.freeCopies.length)]
  | _ => s.reg off

/-- INST_STATE[i] (0) and INST_SHARE[i] (8). -/
def State.viewInst (s : State) (i r : Nat) : Nat :=
  match s.inst? i with
  | none => 0
  | some x =>
    if r = 0 then fields [(0, 1), (1, b2n x.rdy), (2, b2n x.quiesced), (3, b2n x.quiescing), (4, b2n x.resetting), (5, b2n x.removing)]
    else fields [(0, x.alloc.share), (16, x.alloc.mbxTimeout), (32, unsigned (x.energy / 1024) 32)]

/-- A mailbox page: areas from their bytes, MBX_STATUS, MBX_CTRL; doorbells read zero. The manager's own page reads zero. -/
def State.viewMbx (s : State) (i r : Nat) : Nat :=
  match s.inst? i with
  | none => 0
  | some x =>
    if i = 0 then 0
    else if r < 0xF00 then s.rdN (.mbx i) r 8
    else if r = 0xF10 then x.mbx.status
    else if r = 0xF18 then s.winReg i 0x1F18
    else 0

-- ---------------------------------------------------------------- Collator (R213)

def State.viewColl (s : State) (off : Nat) : Nat :=
  if off = 0x200008 then
    fields [(0, s.leaves.length), (19, b2n s.paused), (20, b2n s.coll.limited), (32, s.coll.grants.length)]
  else if 0x201000 ≤ off ∧ off < 0x201200 then
    let q := (off - 0x201000) / 0x20
    match (off - 0x201000) % 0x20 with
    | 0 => unsigned (s.quire q).credit 64
    | 0x10 => (s.quire q).refill
    | 0x18 => ((s.coll.grants.find? (fun p => p.2 == q)).map (·.1)).getD 0xFFFF
    | _ => s.reg off
  else if 0x202000 ≤ off ∧ off < 0x204000 then
    let g := (off - 0x202000) / 0x10
    if off % 0x10 = 0 then
      match Tab.find s.groups g with
      | some x => fields [(0, x.weight), (8, x.local_), (24, x.inst), (31, b2n x.urgent), (32, 1)]
      | none => 0
    else
      let quire := ((s.coll.grants.find? (fun p => p.1 == g)).map (·.2)).getD 0x1F
      fields [(0, (s.leaves.filter (fun p => p.2.group == g && p.2.state == .ready)).length), (23, min 15 (s.group g).skips),
        (27, quire), (32, unsigned (s.group g).deficit 32)]
  else if 0x204000 ≤ off then
    let i := (off - 0x204000) / 8
    match s.inst? i with
    | some x => fields [(0, x.alloc.slotLimit), (31, b2n (s.slotWait.contains i)), (32, s.slotsUsed i)]
    | none => 0
  else s.reg off

-- ---------------------------------------------------------------- Pager and Press (R249)

def State.viewPager (s : State) (off : Nat) : Nat :=
  match off with
  | 0x300008 => fields [(0, s.freeFrames), (20, b2n (decide ((s.tableRoom - allTableBytes s.pager.ranges) * 100 < s.tableRoom)))]
  | 0x300010 => s.t0Pool
  | 0x300018 => s.t1Pool
  | 0x300028 => s.ownerData (s.reg offOwnerSel)
  | _ =>
    if off < 0x301000 then s.reg off
    else
      let i := (off - 0x301000) / 0x40
      match s.inst? i with
      | none => 0
      | some x => match (off - 0x301000) % 0x40 with
        | 0x00 => x.alloc.t0
        | 0x08 => fields [(0, x.alloc.t1), (32, x.alloc.t2)]
        | 0x10 => fields [(0, s.heldFrames i), (32, (s.pager.frames.filter (fun p =>
            p.2.alloc && p.2.inst == i && p.2.use != 4 && p.2.use != 5 && p.2.use != 3 && p.2.pins != 0)).length)]
        | 0x18 => fields [(0, s.t1Used i), (32, s.t2UsedBy i)]
        | _ => s.reg off

def State.viewPress (s : State) (off : Nat) : Nat :=
  if off = 0xC00008 then s.press.waiting.length
  else if 0xC00100 ≤ off ∧ off % 0x20 = 0 then
    match Tab.find s.press.units ((off - 0xC00100) / 0x20) with
    | some j => fields [(0, j.fmt), (8, 1), (9, b2n j.page.isSome), (16, j.inst)]
    | none => 0
  else s.reg off

-- ---------------------------------------------------------------- HBM, Trimmers, expansion ports (R92, R275)

def State.viewHbm (s : State) (off : Nat) : Nat :=
  let k := (off - 0x400000) / 0x10000
  let r := (off - 0x400000) % 0x10000
  if r = 0 then
    fields [(0, sumOf ((List.range 32).map (fun c => if (s.chan (32 * k + c)).state = 1 then 2 ^ c else 0))),
      (32, (s.hottestOf [72 + k]).getD 0)]
  else if r < 0x3000 then
    let c := 32 * k + (r - 0x1000) / 0x100
    match r % 0x100 with
    | 0x00 => fields [(4, (s.chan c).state), (8, b2n (s.chan c).twice), (16, (s.chan c).reserve)]
    | 0x20 => s.retiredIn c
    | _ => s.reg off
  else if r = 0x7000 then (if k = 0 then fields [(0, s.reg off), (34, s.hbm.order)] else 0)
  else
    let c := 32 * k + (r - 0x8000) / 0x100
    if r % 0x100 = 0 then
      fields [(0, min 4 (s.trim c).leaves.length), (3, b2n (decide ((s.chan c).state = 3))),
        (8, ceilDiv (sumOf ((s.trim c).dicts.map (·.size))) 1024), (24, (s.trim c).reason)]
    else s.reg off

/-- A port's first HDM decoder covers what it decodes; the others are unused. -/
def State.viewCxl (s : State) (off : Nat) : Nat :=
  let p := (off - 0x500000) / 0x1000
  match (off - 0x500000) % 0x1000 with
  | 0x00 => fields [(0, (s.port p).speed), (8, (s.port p).width), (12, (s.port p).state)]
  | 0x08 => (s.port p).bytes
  | 0x108 => (s.port p).bytes
  | _ => s.reg off

-- ---------------------------------------------------------------- fabric (R310)

/-- FAB_ASSOC_STATE of the selected association. -/
def State.viewAssoc (s : State) : Nat :=
  match s.assoc? (s.reg offAssocSel) with
  | none => 0
  | some x => fields [(0, x.inst), (8, x.state), (20, b2n x.rekeyDue), (21, x.txEpoch), (22, (x.paths.filter s.eligible).length),
      (32, x.group), (48, x.local_)]

/-- FAB_LANE_STATUS of a lane. -/
def State.viewLane (s : State) (l : Nat) : Nat :=
  let n := (s.col.counts.filter (fun e => e.kind == 5 && e.idx == l && decide (s.col.optime < e.at_ + 3600000000000))).length
  let port := s.fab.ports.find? (fun p => decide (p.1 ≤ l) && decide (l < p.1 + p.2.lanes))
  let st := if s.col.retLanes.contains l then 2 else match port with
    | none => 3
    | some p => if p.2.state = 1 then 1 else 0
  fields [(0, min 2 n), (8, st)]

/-- The registers of the fabric (R310). At the offsets that FAB_PORT_STATUS and the counters of k = 12–15 share with the address
registers of k = 0–3, a read gives the address register, which software writes (DESIGN CHOICE, log 91). -/
def State.viewFab (s : State) (off : Nat) : Nat :=
  if off = 0x600020 then s.viewAssoc
  else if off = 0x600028 then ((s.assoc? (s.reg offAssocSel)).map (·.txSeq)).getD 0
  else if off < 0x610000 then s.reg off
  else
    let g := (off - 0x610000) / 0x1000
    let r := (off - 0x610000) % 0x1000
    if 0x800 ≤ r then s.viewLane (16 * g + (r - 0x800) / 8)
    else if 0x100 ≤ r ∧ r < 0x400 ∧ (r - 0x100) % 0x40 = 0 then
      match s.fabPort? (16 * g + (r - 0x100) / 0x40) with
      | some p => fields [(0, p.state), (8, p.lanes)]
      | none => 0
    else s.reg off

-- ---------------------------------------------------------------- quires and Thumb arrays (R138, R152, R187)

/-- QM_REGION[m][k]: the region set of the instance that the master serves, or served last (R138). -/
def State.viewRegion (s : State) (q m k : Nat) : Nat :=
  (Tab.get (s.quire q).region m []).getD k 0

def State.viewQm (s : State) (off : Nat) : Nat :=
  if 0x882000 ≤ off then s.reg off
  else if 0x880000 ≤ off then s.reg off + (off - 0x880000) / 0x40 * 2 ^ 55
  else
    let q := (off - 0x800000) / 0x8000
    let r := (off - 0x800000) % 0x8000
    let m := (s.quire q).march
    if r = 8 then fields [(0, b2n m.busy), (1, b2n m.wait), (4, m.result), (16, m.fails)]
    else if r = 0x20 then
      fields [(0, (s.col.softRepairs.filter (fun x => x.quire == q)).length),
        (16, sumOf ((List.range 512).map (fun x => s.sparesOf q (x / 8) (x % 8))))]
    else if 0x1000 ≤ r ∧ r < 0x2000 then s.viewRegion q ((r - 0x1000) / 0x40) ((r - 0x1000) % 0x40 / 8)
    else s.reg off

def State.viewThumb (s : State) (off : Nat) : Nat :=
  if 0x910000 ≤ off then s.reg off
  else
    let q := (off - 0x900000) / 0x1000
    let r := (off - 0x900000) % 0x1000
    if r = 0 then
      let cursors := sumOf ((List.range 16).map (fun k => ((s.engOf (16 * q + k)).cursors.filter (·.open_)).length))
      fields [(0, (s.banks.filter (fun p => p.1 / 64 == q)).length), (16, cursors), (24, (s.quire q).throttle)]
    else if 0x800 ≤ r then
      match Tab.find s.banks (q * 64 + (r - 0x800) / 8) with
      | some b => fields [(0, b.owner), (7, 1), (8, b2n b.retained)]
      | none => 0
    else s.reg off

-- ---------------------------------------------------------------- copy, cipher, power, faults (R418, R433, R447, R488)

def State.viewCopy (s : State) (off : Nat) : Nat :=
  let c := (off - 0xB01000) / 0x20
  let sec := b2n (bitAt (s.reg 0x110) c)
  match s.copyChan c, (off - 0xB01000) % 0x20 with
  | some x, 0x00 => fields [(0, x.state), (4, b2n x.resume), (16, x.last), (40, x.local_), (47, x.inst), (54, 1), (55, sec)]
  | some x, 0x08 => x.cur
  | some x, 0x10 => x.bytes
  | some x, 0x18 => x.late
  | none, 0x00 => fields [(55, sec)]
  | _, _ => 0

/-- The command whose job a cipher page runs. -/
def State.cipherBusy (s : State) (i : Nat) : Bool :=
  s.cmds.any (fun c => c.inst == i && c.op == 0x47 && c.phase == .running && c.prog == 1)

def State.viewCry (s : State) (off : Nat) : Nat :=
  match off with
  | 0xD00000 =>
    let open_ := (s.cry.pages.filter (fun p => match p.2.msg with
      | some m => m.mode == 3
      | none => false)).length
    let moves := (s.pager.pages.filter (fun p => p.2.state == .movingOut || (p.2.state == .movingIn && p.2.origin != .zero))).length
    fields [(0, ((List.range 128).filter s.cipherBusy).length + min 8 moves), (8, open_), (16, s.cry.units.length), (32, 0x640)]
  | 0xD00008 => s.cry.wait.length
  | _ =>
    if off < 0xD01000 then s.reg off
    else
      let p := s.cryPage ((off - 0xD01000) / 0x20)
      match (off - 0xD01000) % 0x20 with
      | 0x00 => fields [(0, b2n (p.bits != 0)), (4, b2n (p.bits == 256)), (5, b2n p.pair), (8, (p.msg.map (·.mode)).getD 0),
          (11, b2n p.msg.isSome)]
      | 0x08 => p.msgCtr
      | _ => s.reg off

def State.viewPwr (s : State) (off : Nat) : Nat :=
  if off = 0x700010 then fields [(0, s.regField off 31 0), (32, b2n (!s.pins.pwrbrkN)), (33, b2n s.coll.limited)] else s.reg off

def State.viewFlt (s : State) (off : Nat) : Nat :=
  match off with
  | 0xF00000 => fields [(8, s.col.retiredEng.length), (17, s.sparesFree), (21, s.log.err.length + s.log.fh.length)]
  | 0xF00008 => s.col.optime
  | 0xF00010 => s.col.boots
  | 0xF00018 => s.col.errNext
  | 0xF00020 => s.col.fhNext
  | 0xF00028 => fields [(0, s.log.lostErr), (32, s.log.lostFh)]
  | 0xF00030 => fields [(0, s.col.wear), (16, s.col.retBlocks), (32, s.col.spareBlocks)]
  | _ => s.reg off

/-- Instance rings of instances that do not exist read zero (R514). -/
def State.viewTrace (s : State) (off : Nat) : Nat :=
  match regInst off with
  | some i => if (s.inst? i).isSome then s.reg off else 0
  | none => s.reg off

/-- Is a register one that work of a Cold Start changes, but that reads its Reset column until it ends (R453): the refused accesses,
DEV_SLC_DENIED, FLT_STATUS and the power registers? -/
def coldReset (off : Nat) : Bool :=
  off == 0x50 || off == 0x58 || off == 0x118 || off == 0xF00000 || (decide (0x700000 ≤ off) && decide (off < 0x800000))

/-- What an 8-byte read at an 8-aligned offset of PF BAR0 returns. -/
def State.regRead (s : State) (off : Nat) : Nat :=
  (if s.dev.cold && coldReset off then s.regReset off
   else if 0x180000 ≤ off ∧ off < 0x200000 then s.viewMbx ((off - 0x180000) / 0x1000) (off % 0x1000)
   else if !regAssigned off then 0
   else if off < 0x100000 then s.viewDev off
   else if off < 0x101000 then s.viewPools off
   else if off < 0x200000 then s.viewInst ((off - 0x101000) / 0x10) (off % 0x10)
   else if off < 0x300000 then s.viewColl off
   else if off < 0x400000 then s.viewPager off
   else if off < 0x500000 then s.viewHbm off
   else if off < 0x600000 then s.viewCxl off
   else if off < 0x700000 then s.viewFab off
   else if off < 0x800000 then s.viewPwr off
   else if off < 0x900000 then s.viewQm off
   else if off < 0xA00000 then s.viewThumb off
   else if off < 0xB00000 then s.viewTrace off
   else if off < 0xC00000 then s.viewCopy off
   else if off < 0xD00000 then s.viewPress off
   else if off < 0xE00000 then s.viewCry off
   else if off < 0xF00000 then s.reg off
   else s.viewFlt off) % 2 ^ 64

/-- What an 8-byte read at an 8-aligned offset of the window of function `i` returns (R315, R367, R430, R520, R521): the control
registers, the tenant's mailbox page, a doorbell's current pointer, STATE and LAST_STATUS of a copy channel, and the MSI-X table
and pending bits. A push window reads zeros. -/
def State.winRead (s : State) (i off : Nat) : Nat :=
  if off = 0 then i % 128
  else if off = 0x10 then match s.inst? i with
    | some x => fields [(0, b2n x.rdy), (1, b2n x.quiesced), (5, s.dev.mode.code)]
    | none => fields [(5, s.dev.mode.code)]
  else if off = 0x30 then s.timebase % 2 ^ 64
  else if off < 0x40 then s.winReg i off
  else if 0x1000 ≤ off ∧ off < 0x2000 then s.viewMbx i (off - 0x1000)
  else if 0x10000 ≤ off ∧ off < 0x12000 then ((s.sq? i ((off - 0x10000) / 8)).map (·.tail)).getD 0
  else if 0x12000 ≤ off ∧ off < 0x14000 then ((s.cq? i ((off - 0x12000) / 8)).map (·.head)).getD 0
  else if 0x80000 ≤ off ∧ off < 0x80200 then
    match s.copies.find? (fun p => p.2.inst == i && p.2.local_ == (off - 0x80000) / 8) with
    | some p => fields [(0, p.2.state), (4, b2n p.2.resume), (16, p.2.last)]
    | none => 0
  else if 0xC0000 ≤ off ∧ off < 0xC0400 ∨ off = 0xC1000 then s.winReg i off
  else 0

end Sys2Proof.Machine
end

