-- ==== Sys2Proof/Machine/RegRow.lean ====
section
/-! DEFINITION. Reads and writes of registers: each write goes to the block that its register belongs to (R8–R10, R198,
R367, R453, R509–R521). -/
namespace Sys2Proof.Machine

-- ---------------------------------------------------------------- refused accesses (R510, R519)

/-- The SIZE code of DEV_BAD_LAST. -/
def sizeCode (n : Nat) : Nat := if n = 1 then 0 else if n = 2 then 1 else if n = 4 then 2 else if n = 8 then 3 else 4

/-- Is an offset of a mailbox page assigned (R367)? -/
def mbxAssigned (r : Nat) : Bool := decide (r < 0xF20)

/-- Is an offset assigned to a register that exists: one of an instance that does not exist is not (R514, R518, R520)? -/
def State.assigned (s : State) (sp : RegSpace) (off : Nat) : Bool :=
  match sp with
  | .bar0 =>
    if 0x180000 ≤ off ∧ off < 0x200000 then (s.inst? ((off - 0x180000) / 0x1000)).isSome && mbxAssigned (off % 0x1000)
    else regAssigned off && (match regInst (off - off % 8) with
      | some i => (s.inst? i).isSome
      | none => true)
  | .window _ =>
    decide (off < 0x38) || (decide (0x1000 ≤ off) && decide (off < 0x2000) && mbxAssigned (off - 0x1000))
      || (decide (0x10000 ≤ off) && decide (off < 0x14000)) || (decide (0x20000 ≤ off) && decide (off < 0x60000))
      || (decide (0x80000 ≤ off) && decide (off < 0x80200)) || (decide (0xC0000 ≤ off) && decide (off < 0xC0400))
      || (decide (0xC1000 ≤ off) && decide (off < 0xC1008))

/-- May an offset be written in any size: a message area of a mailbox page, or a push window (R510)? -/
def anySize (sp : RegSpace) (off : Nat) : Bool :=
  match sp with
  | .bar0 => decide (0x180000 ≤ off) && decide (off < 0x200000) && decide (off % 0x1000 < 0xF00)
  | .window _ => (decide (0x1000 ≤ off) && decide (off < 0x1F00)) || (decide (0x20000 ≤ off) && decide (off < 0x60000))

/-- An access of a kind that the E256 does not accept: a read returns zeros and a write is discarded. At an assigned offset it is
counted, and DEV_BAD_LAST keeps the last one in PF BAR0 (R510, R514). -/
def State.badAccess (s : State) (sp : RegSpace) (off size : Nat) (write : Bool) : State :=
  let s := if s.assigned sp off then { s with dev := { s.dev with badAccess := s.dev.badAccess + 1 } } else s
  let s := match sp with
    | .bar0 => if s.assigned sp off then
        { s with dev := { s.dev with badLast := fields [(0, off % 2 ^ 28), (32, b2n write), (33, sizeCode size)] } } else s
    | .window _ => s
  if write then s
  else
    let s := match sp with
      | .bar0 => { s with dev := { s.dev with latch := none } }
      | .window _ => s
    s.emit (.readData off 0)

/-- Is an access of a kind that the E256 accepts: 4 or 8 bytes, naturally aligned (R510)? -/
def sizeOk (off size : Nat) : Bool := (size == 4 || size == 8) && off % size == 0

def execBadRegisterAccess (sp : RegSpace) (off size : Nat) (write : Bool) (s : State) : Host.Outcome State Fault Refusal :=
  if s.running && !sizeOk off size && !(write && anySize sp off) then ok (s.badAccess sp off size write) else ok s

-- ---------------------------------------------------------------- reads (R512)

/-- LATCHED_LOW_HALF_READ: a 4-byte read of PF BAR0. The low half latches the upper one for the next read; the upper half
comes from the latch if it is of the same register. -/
def execLatchedLowHalfRead (off : Nat) (s : State) : Host.Outcome State Fault Refusal :=
  if !s.running then ok s
  else if off % 4 ≠ 0 then ok (s.badAccess .bar0 off 4 false)
  else if off % 8 = 0 then
    let v := s.regRead off
    ok ({ s with dev := { s.dev with latch := some (off, v / 2 ^ 32) } }.emit (.readData off (BitVec.ofNat 64 (v % 2 ^ 32))))
  else
    let base := off - 4
    let v := match s.dev.latch with
      | some (o, h) => if o = base then h else s.regRead base / 2 ^ 32
      | none => s.regRead base / 2 ^ 32
    ok ({ s with dev := { s.dev with latch := none } }.emit (.readData off (BitVec.ofNat 64 v)))

-- ---------------------------------------------------------------- writes of PF BAR0

/-- The bits that a write covers, in the place of its register (R511). -/
def writeMask (off size : Nat) : Nat :=
  if size = 8 then allOnes else if off % 8 = 4 then 0xFFFFFFFF00000000 else 0xFFFFFFFF

/-- The written bits in the place of their register; the other half is zero, so W1S and W1C bits there are not written. -/
def writeBits (off size v : Nat) : Nat :=
  if size = 8 then v % 2 ^ 64 else if off % 8 = 4 then v % 2 ^ 32 * 2 ^ 32 else v % 2 ^ 32

/-- The written bits with the register's own RW bits in the other half. -/
def State.mergeWrite (s : State) (base off size v : Nat) : Nat :=
  let rw := ((regInfo base).map (·.rw)).getD 0
  writeBits off size v + (without (s.reg base) (writeMask off size) &&& rw)

/-- The limits of COLL_COST and COLL_Q_CAP, and those they put on each other, on the whole value written (R198, R213). -/
def State.costOk (s : State) (base off size v : Nat) : Bool :=
  let whole := writeBits off size v + without (s.reg base) (writeMask off size)
  let sane := decide (1 ≤ whole) && decide (whole < 2 ^ 31)
  if isArr base 0x200100 8 8 then sane && (List.range 16).all (fun q => decide (whole ≤ s.credCap q))
  else if isArr base 0x201008 0x20 16 then sane && decide (s.largestCost ≤ whole)
  else true

/-- A write of a register that only stores its fields: it takes effect, or is ignored where a field breaks its range or the
register's instance does not exist (R8, R9, R513, R514). A placement pause defers QM_CONFIG's feature (R515). -/
def State.plainWrite (s : State) (base off size v : Nat) : State :=
  match regInfo base with
  | none => s
  | some r =>
    let new := regMerge r (s.reg base) off size v
    let exists_ := match regInst base with
      | some i => (s.inst? i).isSome
      | none => true
    if !regLegal base new || !s.costOk base off size v || !exists_ then s
    else if s.paused && base == offQmConfig then s.deferWrite base new
    else s.storeReg base new

/-- The fields of a window that is enabled are locked but for the write that clears ENABLE (R347). -/
def State.windowLocked (s : State) (base : Nat) : Bool :=
  decide (0xE00000 ≤ base) && decide (base < 0xE00400) && base % 0x40 != 0 && bitAt (s.reg (base - base % 0x40)) 63

/-- A manager write of mailbox page `i` at offset `r`: DOWN_MSG, its doorbell, and the W1C bits that are the manager's (R367). -/
def State.mbxManagerWrite (s : State) (i r size v : Nat) : State :=
  if i = 0 ∨ (s.inst? i).isNone then s
  else if 0x800 ≤ r ∧ r + size ≤ 0xF00 then s.wr (.mbx i) r (leBytes size v)
  else if r = 0xF08 then s.mbxDoorbell i false (v % 2 ^ (8 * size))
  else if r = 0xF10 then s.updMbx i (fun m => { m with status := without m.status (v &&& 0x1E1) })
  else s

/-- A write of one register of PF BAR0. -/
def State.barWrite (s : State) (off size v : Nat) : State :=
  let base := off - off % 8
  let w := writeBits off size v
  let m := s.mergeWrite base off size v
  if base = offInject then s.writeInject m
  else if base = offWalkCtrl then (if bitAt w 0 then s.setReg offWalkCtrl (s.reg offWalkCtrl ||| 1) else s)
  else if base = offTrcCtrl then s.writeRing 0 m
  else match inArr base 0xA01000 0x10 128, inArr base 0x800000 0x8000 16, inArr base 0x880000 8 1024, inArr base 0x610000 0x1000 8,
      inArr base 0xE00000 0x40 16 with
    | some i, _, _, _, _ => if (s.inst? i).isSome then s.writeRing (i + 1) m else s
    | _, some q, _, _, _ => s.writeMarch q m
    | _, _, some k, _, _ => s.writeRset (k / 8) (k % 8) m
    | _, _, _, some g, _ =>
      if !regLegal base (m &&& 0x37) then s
      else if s.paused then s.deferWrite base (m &&& 0x37) else s.writeGroup g (m &&& 0x37)
    | _, _, _, _, some k => s.winCfgWrite k m
    | none, none, none, none, none =>
      if base = offHbmw then s.hbmwWrite m
      else if s.windowLocked base then s
      else match portAddrReg base with
        | some (g, k, _) => if s.portInUse (16 * g + k) then s else (s.plainWrite base off size v).reholdAll
        | none => s.plainWrite base off size v

/-- A write of PF BAR0: during COLD_START and FACTORY only MAINT_HOLD is written (R453, R468); a write of the wrong size is
refused (R510, R511). -/
def State.barRow (s : State) (off size v : Nat) : State :=
  let base := off - off % 8
  if anySize .bar0 off then
    if s.serving then s.mbxManagerWrite ((off - 0x180000) / 0x1000) (off % 0x1000) size v else s
  else if !sizeOk off size || (size == 4 && ((regInfo base).map (·.wide)).getD false) then s.badAccess .bar0 off size true
  else if base = offModeCtrl then
    if off = base then s.writeModeCtrl (v % 2 ^ (8 * size)) [] else s
  else if !s.serving then s
  else if 0x180000 ≤ off ∧ off < 0x200000 then s.mbxManagerWrite ((off - 0x180000) / 0x1000) (off % 0x1000) size v
  else s.barWrite off size v

-- ---------------------------------------------------------------- writes of an instance window (R314, R315, R520, R521)

/-- A tenant's write of its mailbox page (R367). -/
def State.mbxTenantWrite (s : State) (i r size v : Nat) : State :=
  if i = 0 ∨ (s.inst? i).isNone then s
  else if r + size ≤ 0x800 then s.wr (.mbx i) r (leBytes size v)
  else if r = 0xF00 then s.mbxDoorbell i true (v % 2 ^ (8 * size))
  else if r = 0xF10 then s.updMbx i (fun m => { m with status := without m.status (v &&& 0xD2) })
  else if r = 0xF18 then s.setWinReg i 0x1F18 (v &&& 0x7F)
  else s

/-- A write of the MSI-X table: an entry that is unmasked sends its pending message. -/
def State.msixWrite (s : State) (i off size v : Nat) : State :=
  let base := off - off % 8
  let s := s.setWinReg i base (without (s.winReg i base) (writeMask off size) + writeBits off size v)
  s.signalPending i ((base - 0xC0000) / 16)

/-- The writable bits of the admin queue registers. -/
def adminMask (base : Nat) : Nat :=
  if base = 0x18 then 0x0FFF0FFF else if base = 0x20 ∨ base = 0x28 then 0xFFFFFFFFFFFFF000 else 0

/-- A write of INST_AQA, INST_ASQ or INST_ACQ, ignored while RDY is 1 (R315, R316). -/
def State.adminWrite (s : State) (i off size v : Nat) : State :=
  let base := off - off % 8
  if ((s.inst? i).map (·.rdy)).getD false then s
  else
    let m := writeMask off size
    s.setWinReg i base (without (s.winReg i base) m + (writeBits off size v &&& adminMask base))

/-- INST_CTRL.EN (R316, R453). -/
def State.enWrite (s : State) (i v : Nat) : State :=
  match (if bitAt v 0 then execEnableAdminQueues i s else execDisableAdminQueues i s) with
  | .next t => t
  | _ => s

/-- A resume doorbell (R430). -/
def State.resumeWrite (s : State) (i k : Nat) : State :=
  match execCopyResumeDoorbell i k {} s with
  | .next t => t
  | _ => s

/-- A write of an instance window. -/
def State.windowRow (s : State) (i off size v : Nat) : State :=
  if 0x1000 ≤ off ∧ off < 0x1F00 then (if s.serving then s.mbxTenantWrite i (off - 0x1000) size v else s)
  else if 0x20000 ≤ off ∧ off < 0x60000 then
    if s.serving then s.pushWrite i ((off - 0x20000) / 256) (off % 256) (leBytes size v) else s
  else if !sizeOk off size || (size == 4 && decide (0x20 ≤ off) && decide (off < 0x30)) then s.badAccess (.window i) off size true
  else
    let base := off - off % 8
    let low := off == base
    if base = 8 then (if low then s.enWrite i v else s)
    else if base = 0x18 ∨ base = 0x20 ∨ base = 0x28 then s.adminWrite i off size v
    else if 0xC0000 ≤ off ∧ off < 0xC0400 then s.msixWrite i off size v
    else if !s.serving then s
    else if 0x1F00 ≤ off ∧ off < 0x2000 then s.mbxTenantWrite i (off - 0x1000) size v
    else if !low then s
    else if 0x10000 ≤ off ∧ off < 0x12000 then s.tailDoorbell i ((off - 0x10000) / 8) (v % 2 ^ (8 * size))
    else if 0x12000 ≤ off ∧ off < 0x14000 then s.headDoorbell i ((off - 0x12000) / 8) (v % 2 ^ (8 * size))
    else if 0x80000 ≤ off ∧ off < 0x80200 then s.resumeWrite i ((off - 0x80000) / 8)
    else s

/-- REGISTER_WRITE (R513). -/
def execRegisterWrite (sp : RegSpace) (off size : Nat) (value : Word) (s : State) : Host.Outcome State Fault Refusal :=
  if !s.running ∨ 8 < size then ok s
  else match sp with
    | .bar0 => ok (s.barRow off size value.toNat)
    | .window i => if i < 128 then ok (s.windowRow i off size value.toNat) else ok s

end Sys2Proof.Machine
end

