-- ==== Sys2Proof/Machine/Dispatch.lean ====
section
/-! DEFINITION. The dispatch: one arm per command, each one call of its meaning. -/
namespace Sys2Proof.Machine

/-- The effect of a command on everything but the queue. -/
def exec (i : Instr) (s : State) : Host.Outcome State Fault Refusal :=
  match i with
  | .invalidInstruction e => Sys2Proof.Machine.execInvalidInstruction e s
  | .add e d a b => Sys2Proof.Machine.execAdd e d a b s
  | .sub e d a b => Sys2Proof.Machine.execSub e d a b s
  | .and e d a b => Sys2Proof.Machine.execAnd e d a b s
  | .or e d a b => Sys2Proof.Machine.execOr e d a b s
  | .xor e d a b => Sys2Proof.Machine.execXor e d a b s
  | .sll e d a b => Sys2Proof.Machine.execSll e d a b s
  | .srl e d a b => Sys2Proof.Machine.execSrl e d a b s
  | .sra e d a b => Sys2Proof.Machine.execSra e d a b s
  | .mul e d a b => Sys2Proof.Machine.execMul e d a b s
  | .mulh e d a b => Sys2Proof.Machine.execMulh e d a b s
  | .mulhu e d a b => Sys2Proof.Machine.execMulhu e d a b s
  | .div e d a b => Sys2Proof.Machine.execDiv e d a b s
  | .divu e d a b => Sys2Proof.Machine.execDivu e d a b s
  | .rem e d a b => Sys2Proof.Machine.execRem e d a b s
  | .remu e d a b => Sys2Proof.Machine.execRemu e d a b s
  | .slt e d a b => Sys2Proof.Machine.execSlt e d a b s
  | .sltu e d a b => Sys2Proof.Machine.execSltu e d a b s
  | .min e d a b => Sys2Proof.Machine.execMin e d a b s
  | .max e d a b => Sys2Proof.Machine.execMax e d a b s
  | .minu e d a b => Sys2Proof.Machine.execMinu e d a b s
  | .maxu e d a b => Sys2Proof.Machine.execMaxu e d a b s
  | .clz e d a => Sys2Proof.Machine.execClz e d a s
  | .ctz e d a => Sys2Proof.Machine.execCtz e d a s
  | .popc e d a => Sys2Proof.Machine.execPopc e d a s
  | .addi e d a imm => Sys2Proof.Machine.execAddi e d a imm s
  | .andi e d a imm => Sys2Proof.Machine.execAndi e d a imm s
  | .ori e d a imm => Sys2Proof.Machine.execOri e d a imm s
  | .xori e d a imm => Sys2Proof.Machine.execXori e d a imm s
  | .slti e d a imm => Sys2Proof.Machine.execSlti e d a imm s
  | .sltiu e d a imm => Sys2Proof.Machine.execSltiu e d a imm s
  | .shi e d a imm => Sys2Proof.Machine.execShi e d a imm s
  | .li e d imm => Sys2Proof.Machine.execLi e d imm s
  | .lsh e d a imm => Sys2Proof.Machine.execLsh e d a imm s
  | .setvl e d a imm => Sys2Proof.Machine.execSetvl e d a imm s
  | .mfc e d imm => Sys2Proof.Machine.execMfc e d imm s
  | .mtc e a imm => Sys2Proof.Machine.execMtc e a imm s
  | .lds e t a sz sx off => Sys2Proof.Machine.execLds e t a sz sx off s
  | .sts e t a sz off => Sys2Proof.Machine.execSts e t a sz off s
  | .vld e t a m mk ff off => Sys2Proof.Machine.execVld e t a m mk ff off s
  | .vst e t a m mk ff off => Sys2Proof.Machine.execVst e t a m mk ff off s
  | .aadd e a b => Sys2Proof.Machine.execAadd e a b s
  | .aswp e a b => Sys2Proof.Machine.execAswp e a b s
  | .fetch e d a b m mk => Sys2Proof.Machine.execFetch e d a b m mk s
  | .ths e d a b => Sys2Proof.Machine.execThs e d a b s
  | .thn e d a => Sys2Proof.Machine.execThn e d a s
  | .thw e a b => Sys2Proof.Machine.execThw e a b s
  | .mld e d a => Sys2Proof.Machine.execMld e d a s
  | .mst e a b => Sys2Proof.Machine.execMst e a b s
  | .beq e a b off => Sys2Proof.Machine.execBeq e a b off s
  | .bne e a b off => Sys2Proof.Machine.execBne e a b off s
  | .blt e a b off => Sys2Proof.Machine.execBlt e a b off s
  | .bge e a b off => Sys2Proof.Machine.execBge e a b off s
  | .bltu e a b off => Sys2Proof.Machine.execBltu e a b off s
  | .bgeu e a b off => Sys2Proof.Machine.execBgeu e a b off s
  | .j e off => Sys2Proof.Machine.execJ e off s
  | .jal e off => Sys2Proof.Machine.execJal e off s
  | .jalr e d a => Sys2Proof.Machine.execJalr e d a s
  | .vadd e d a b m mk sb => Sys2Proof.Machine.execVadd e d a b m mk sb s
  | .vsub e d a b m mk sb => Sys2Proof.Machine.execVsub e d a b m mk sb s
  | .vmul e d a b m mk sb => Sys2Proof.Machine.execVmul e d a b m mk sb s
  | .vand e d a b m mk sb => Sys2Proof.Machine.execVand e d a b m mk sb s
  | .vor e d a b m mk sb => Sys2Proof.Machine.execVor e d a b m mk sb s
  | .vxor e d a b m mk sb => Sys2Proof.Machine.execVxor e d a b m mk sb s
  | .vsll e d a b m mk sb => Sys2Proof.Machine.execVsll e d a b m mk sb s
  | .vsrl e d a b m mk sb => Sys2Proof.Machine.execVsrl e d a b m mk sb s
  | .vsra e d a b m mk sb => Sys2Proof.Machine.execVsra e d a b m mk sb s
  | .vmin e d a b m mk sb => Sys2Proof.Machine.execVmin e d a b m mk sb s
  | .vmax e d a b m mk sb => Sys2Proof.Machine.execVmax e d a b m mk sb s
  | .vminu e d a b m mk sb => Sys2Proof.Machine.execVminu e d a b m mk sb s
  | .vmaxu e d a b m mk sb => Sys2Proof.Machine.execVmaxu e d a b m mk sb s
  | .vaddcS e d a b m mk sb => Sys2Proof.Machine.execVaddcS e d a b m mk sb s
  | .vaddcU e d a b m mk sb => Sys2Proof.Machine.execVaddcU e d a b m mk sb s
  | .vsubcS e d a b m mk sb => Sys2Proof.Machine.execVsubcS e d a b m mk sb s
  | .vsubcU e d a b m mk sb => Sys2Proof.Machine.execVsubcU e d a b m mk sb s
  | .vmulcS e d a b m mk sb => Sys2Proof.Machine.execVmulcS e d a b m mk sb s
  | .vmv e d a m mk => Sys2Proof.Machine.execVmv e d a m mk s
  | .vbcast e d b m mk => Sys2Proof.Machine.execVbcast e d b m mk s
  | .vfadd e d a b m mk sb => Sys2Proof.Machine.execVfadd e d a b m mk sb s
  | .vfsub e d a b m mk sb => Sys2Proof.Machine.execVfsub e d a b m mk sb s
  | .vfmul e d a b m mk sb => Sys2Proof.Machine.execVfmul e d a b m mk sb s
  | .vfdiv e d a b m mk sb => Sys2Proof.Machine.execVfdiv e d a b m mk sb s
  | .vfmin e d a b m mk sb => Sys2Proof.Machine.execVfmin e d a b m mk sb s
  | .vfmax e d a b m mk sb => Sys2Proof.Machine.execVfmax e d a b m mk sb s
  | .vfabs e d a m mk => Sys2Proof.Machine.execVfabs e d a m mk s
  | .vfneg e d a m mk => Sys2Proof.Machine.execVfneg e d a m mk s
  | .vcmp e d a b m mk sb kind cond => Sys2Proof.Machine.execVcmp e d a b m mk sb kind cond s
  | .mand e d a b => Sys2Proof.Machine.execMand e d a b s
  | .mor e d a b => Sys2Proof.Machine.execMor e d a b s
  | .mxor e d a b => Sys2Proof.Machine.execMxor e d a b s
  | .mandn e d a b => Sys2Proof.Machine.execMandn e d a b s
  | .mnot e d a => Sys2Proof.Machine.execMnot e d a s
  | .mset e d => Sys2Proof.Machine.execMset e d s
  | .mpop e d a => Sys2Proof.Machine.execMpop e d a s
  | .mffs e d a => Sys2Proof.Machine.execMffs e d a s
  | .mfromg e d a => Sys2Proof.Machine.execMfromg e d a s
  | .mtog e d a => Sys2Proof.Machine.execMtog e d a s
  | .vcmprs e d a m mk => Sys2Proof.Machine.execVcmprs e d a m mk s
  | .vexpnd e d a m mk => Sys2Proof.Machine.execVexpnd e d a m mk s
  | .vscan e d a m mk => Sys2Proof.Machine.execVscan e d a m mk s
  | .vsort e d a m mk => Sys2Proof.Machine.execVsort e d a m mk s
  | .vsortp e d a m mk => Sys2Proof.Machine.execVsortp e d a m mk s
  | .vunpk e d a b m mk sb => Sys2Proof.Machine.execVunpk e d a b m mk sb s
  | .vext e d a b => Sys2Proof.Machine.execVext e d a b s
  | .vins e d a b => Sys2Proof.Machine.execVins e d a b s
  | .vwidenS e d a m mk => Sys2Proof.Machine.execVwidenS e d a m mk s
  | .vwidenU e d a m mk => Sys2Proof.Machine.execVwidenU e d a m mk s
  | .vnarrow e d a m mk => Sys2Proof.Machine.execVnarrow e d a m mk s
  | .vcvtIf e d a m mk => Sys2Proof.Machine.execVcvtIf e d a m mk s
  | .vcvtFi e d a m mk => Sys2Proof.Machine.execVcvtFi e d a m mk s
  | .vcvtSd e d a m mk => Sys2Proof.Machine.execVcvtSd e d a m mk s
  | .vcvtDs e d a m mk => Sys2Proof.Machine.execVcvtDs e d a m mk s
  | .hashc e d a b m mk sb => Sys2Proof.Machine.execHashc e d a b m mk sb s
  | .hashm e d a b m mk sb => Sys2Proof.Machine.execHashm e d a b m mk sb s
  | .xclr e d => Sys2Proof.Machine.execXclr e d s
  | .xaddf e d a m mk => Sys2Proof.Machine.execXaddf e d a m mk s
  | .xaddi e d a m mk => Sys2Proof.Machine.execXaddi e d a m mk s
  | .xmacf e d a b m mk sb => Sys2Proof.Machine.execXmacf e d a b m mk sb s
  | .xmrg e d a => Sys2Proof.Machine.execXmrg e d a s
  | .xrnd e d a => Sys2Proof.Machine.execXrnd e d a s
  | .xrnds e d a => Sys2Proof.Machine.execXrnds e d a s
  | .xrdw e d a b => Sys2Proof.Machine.execXrdw e d a b s
  | .xpost e a b => Sys2Proof.Machine.execXpost e a b s
  | .xld e d a => Sys2Proof.Machine.execXld e d a s
  | .xst e a b => Sys2Proof.Machine.execXst e a b s
  | .bnext e d => Sys2Proof.Machine.execBnext e d s
  | .emit e a b m mk => Sys2Proof.Machine.execEmit e a b m mk s
  | .emitend e => Sys2Proof.Machine.execEmitend e s
  | .spawn e a b => Sys2Proof.Machine.execSpawn e a b s
  | .commit e => Sys2Proof.Machine.execCommit e s
  | .powerGoodRise badSlots => Sys2Proof.Machine.execPowerGoodRise badSlots s
  | .powerGoodFall => Sys2Proof.Machine.execPowerGoodFall s
  | .perstNAssert => Sys2Proof.Machine.execPerstNAssert s
  | .perstNDeassert badSlots => Sys2Proof.Machine.execPerstNDeassert badSlots s
  | .hotReset badSlots => Sys2Proof.Machine.execHotReset badSlots s
  | .efuraStartTimeout => Sys2Proof.Machine.execEfuraStartTimeout s
  | .coldStartComplete finds => Sys2Proof.Machine.execColdStartComplete finds s
  | .refclkLoss c => Sys2Proof.Machine.execRefclkLoss c s
  | .refclkReturn c => Sys2Proof.Machine.execRefclkReturn c s
  | .hbmRefclkHoldExpiry => Sys2Proof.Machine.execHbmRefclkHoldExpiry s
  | .pwrbrkNAssert => Sys2Proof.Machine.execPwrbrkNAssert s
  | .pwrbrkNDeassert => Sys2Proof.Machine.execPwrbrkNDeassert s
  | .ppsInEdge => Sys2Proof.Machine.execPpsInEdge s
  | .ppsOutEdge => Sys2Proof.Machine.execPpsOutEdge s
  | .deviceReset value badSlots => Sys2Proof.Machine.execDeviceReset value badSlots s
  | .maintHoldWrite value => Sys2Proof.Machine.execMaintHoldWrite value s
  | .registerWrite sp off size value => Sys2Proof.Machine.execRegisterWrite sp off size value s
  | .latchedLowHalfRead off => Sys2Proof.Machine.execLatchedLowHalfRead off s
  | .badRegisterAccess sp off size write => Sys2Proof.Machine.execBadRegisterAccess sp off size write s
  | .settingsPersist flash => Sys2Proof.Machine.execSettingsPersist flash s
  | .enableAdminQueues inst => Sys2Proof.Machine.execEnableAdminQueues inst s
  | .disableAdminQueues inst => Sys2Proof.Machine.execDisableAdminQueues inst s
  | .sqTailDoorbell inst k value stores => Sys2Proof.Machine.execSqTailDoorbell inst k value stores s
  | .cqHeadDoorbell inst k value => Sys2Proof.Machine.execCqHeadDoorbell inst k value s
  | .pushWindowWrite inst k off data => Sys2Proof.Machine.execPushWindowWrite inst k off data s
  | .fetchEntries => Sys2Proof.Machine.execFetchEntries s
  | .interruptCoalesceTimer inst k => Sys2Proof.Machine.execInterruptCoalesceTimer inst k s
  | .identify inst sq cid => Sys2Proof.Machine.execIdentify inst sq cid s
  | .getLogPage inst sq cid => Sys2Proof.Machine.execGetLogPage inst sq cid s
  | .setFeatures inst sq cid => Sys2Proof.Machine.execSetFeatures inst sq cid s
  | .getFeatures inst sq cid => Sys2Proof.Machine.execGetFeatures inst sq cid s
  | .firmwareImageDownload inst sq cid => Sys2Proof.Machine.execFirmwareImageDownload inst sq cid s
  | .firmwareCommit inst sq cid => Sys2Proof.Machine.execFirmwareCommit inst sq cid s
  | .activationLoaded digestOk => Sys2Proof.Machine.execActivationLoaded digestOk s
  | .activationReady => Sys2Proof.Machine.execActivationReady s
  | .activationTimeout => Sys2Proof.Machine.execActivationTimeout s
  | .createSubmissionQueue inst sq cid => Sys2Proof.Machine.execCreateSubmissionQueue inst sq cid s
  | .deleteSubmissionQueue inst sq cid => Sys2Proof.Machine.execDeleteSubmissionQueue inst sq cid s
  | .createCompletionQueue inst sq cid => Sys2Proof.Machine.execCreateCompletionQueue inst sq cid s
  | .deleteCompletionQueue inst sq cid => Sys2Proof.Machine.execDeleteCompletionQueue inst sq cid s
  | .asynchronousEventRequest inst sq cid => Sys2Proof.Machine.execAsynchronousEventRequest inst sq cid s
  | .createInstance inst sq cid => Sys2Proof.Machine.execCreateInstance inst sq cid s
  | .quiesceInstance inst sq cid => Sys2Proof.Machine.execQuiesceInstance inst sq cid s
  | .quiesceComplete inst => Sys2Proof.Machine.execQuiesceComplete inst s
  | .resumeInstance inst sq cid => Sys2Proof.Machine.execResumeInstance inst sq cid s
  | .removeInstance inst sq cid => Sys2Proof.Machine.execRemoveInstance inst sq cid s
  | .setInstanceShare inst sq cid => Sys2Proof.Machine.execSetInstanceShare inst sq cid s
  | .functionLevelReset inst => Sys2Proof.Machine.execFunctionLevelReset inst s
  | .loadFolio inst sq cid => Sys2Proof.Machine.execLoadFolio inst sq cid s
  | .submitFolio inst sq cid => Sys2Proof.Machine.execSubmitFolio inst sq cid s
  | .cancelFolio inst sq cid => Sys2Proof.Machine.execCancelFolio inst sq cid s
  | .loadSegments inst sq cid => Sys2Proof.Machine.execLoadSegments inst sq cid s
  | .readResults inst sq cid => Sys2Proof.Machine.execReadResults inst sq cid s
  | .thumbLoad inst sq cid => Sys2Proof.Machine.execThumbLoad inst sq cid s
  | .copy inst sq cid => Sys2Proof.Machine.execCopy inst sq cid s
  | .cipher inst sq cid => Sys2Proof.Machine.execCipher inst sq cid s
  | .cipherJobComplete page coreFaults => Sys2Proof.Machine.execCipherJobComplete page coreFaults s
  | .digest inst sq cid => Sys2Proof.Machine.execDigest inst sq cid s
  | .digestJobStart => Sys2Proof.Machine.execDigestJobStart s
  | .digestJobComplete unit fault => Sys2Proof.Machine.execDigestJobComplete unit fault s
  | .pressCompress inst sq cid => Sys2Proof.Machine.execPressCompress inst sq cid s
  | .pressDecompress inst sq cid => Sys2Proof.Machine.execPressDecompress inst sq cid s
  | .pressRegisterDictionary inst sq cid => Sys2Proof.Machine.execPressRegisterDictionary inst sq cid s
  | .pressJobStart => Sys2Proof.Machine.execPressJobStart s
  | .pressJobComplete unit fault => Sys2Proof.Machine.execPressJobComplete unit fault s
  | .associationBind inst sq cid => Sys2Proof.Machine.execAssociationBind inst sq cid s
  | .associationUnbind inst sq cid => Sys2Proof.Machine.execAssociationUnbind inst sq cid s
  | .associationOpen inst sq cid => Sys2Proof.Machine.execAssociationOpen inst sq cid s
  | .associationClose inst sq cid => Sys2Proof.Machine.execAssociationClose inst sq cid s
  | .associationRekey inst sq cid => Sys2Proof.Machine.execAssociationRekey inst sq cid s
  | .flush inst sq cid => Sys2Proof.Machine.execFlush inst sq cid s
  | .cutLeaf inst sub sig => Sys2Proof.Machine.execCutLeaf inst sub sig s
  | .dispatchPass => Sys2Proof.Machine.execDispatchPass s
  | .traceRingEnable ring value => Sys2Proof.Machine.execTraceRingEnable ring value s
  | .budgetRefill otherMilliW => Sys2Proof.Machine.execBudgetRefill otherMilliW s
  | .creditRefill => Sys2Proof.Machine.execCreditRefill s
  | .powerEstimateTick milliW => Sys2Proof.Machine.execPowerEstimateTick milliW s
  | .telemetryRead rails => Sys2Proof.Machine.execTelemetryRead rails s
  | .thermalSensorRead r => Sys2Proof.Machine.execThermalSensorRead r s
  | .voltageTargetRevision busOk usedPercent => Sys2Proof.Machine.execVoltageTargetRevision busOk usedPercent s
  | .stepLimitReached e => Sys2Proof.Machine.execStepLimitReached e s
  | .stallWatchdogExpiry e => Sys2Proof.Machine.execStallWatchdogExpiry e s
  | .engineFaultDetected e mech => Sys2Proof.Machine.execEngineFaultDetected e mech s
  | .engineFaultCount e => Sys2Proof.Machine.execEngineFaultCount e s
  | .commitApplied leaf => Sys2Proof.Machine.execCommitApplied leaf s
  | .completionReportWrite inst sub => Sys2Proof.Machine.execCompletionReportWrite inst sub s
  | .trimmerBatch t => Sys2Proof.Machine.execTrimmerBatch t s
  | .mergerBatch q => Sys2Proof.Machine.execMergerBatch q s
  | .fetchDeliver e => Sys2Proof.Machine.execFetchDeliver e s
  | .pagerSweep inst => Sys2Proof.Machine.execPagerSweep inst s
  | .pageEvictComplete inst va => Sys2Proof.Machine.execPageEvictComplete inst va s
  | .pageRestoreComplete inst va badBlocks => Sys2Proof.Machine.execPageRestoreComplete inst va badBlocks s
  | .frameZeroComplete frame => Sys2Proof.Machine.execFrameZeroComplete frame s
  | .pageTableWalk value => Sys2Proof.Machine.execPageTableWalk value s
  | .pageTableWalkComplete => Sys2Proof.Machine.execPageTableWalkComplete s
  | .qmRsetWrite inst k value => Sys2Proof.Machine.execQmRsetWrite inst k value s
  | .qmScrubRead q off found => Sys2Proof.Machine.execQmScrubRead q off found s
  | .marchStart q value => Sys2Proof.Machine.execMarchStart q value s
  | .marchRun q fails unmaskable => Sys2Proof.Machine.execMarchRun q fails unmaskable s
  | .marchComplete q => Sys2Proof.Machine.execMarchComplete q s
  | .thumbBankRetention q bank => Sys2Proof.Machine.execThumbBankRetention q bank s
  | .thumbBankWakeComplete q bank => Sys2Proof.Machine.execThumbBankWakeComplete q bank s
  | .thumbThrottleUpdate q => Sys2Proof.Machine.execThumbThrottleUpdate q s
  | .hbmRefresh c bank => Sys2Proof.Machine.execHbmRefresh c bank s
  | .hbmScrubRead c found => Sys2Proof.Machine.execHbmScrubRead c found s
  | .hbmRecalibration c found => Sys2Proof.Machine.execHbmRecalibration c found s
  | .channelMigration c => Sys2Proof.Machine.execChannelMigration c s
  | .channelMapOutComplete c => Sys2Proof.Machine.execChannelMapOutComplete c s
  | .cxlLinkDown p => Sys2Proof.Machine.execCxlLinkDown p s
  | .cxlRetrainTimeout p => Sys2Proof.Machine.execCxlRetrainTimeout p s
  | .receiveData f => Sys2Proof.Machine.execReceiveData f s
  | .receiveAck f => Sys2Proof.Machine.execReceiveAck f s
  | .receiveProbe f => Sys2Proof.Machine.execReceiveProbe f s
  | .receiveProbeReply f => Sys2Proof.Machine.execReceiveProbeReply f s
  | .receiveRekey f => Sys2Proof.Machine.execReceiveRekey f s
  | .receiveClose f => Sys2Proof.Machine.execReceiveClose f s
  | .receiveCloseAck f => Sys2Proof.Machine.execReceiveCloseAck f s
  | .receiveEstablish f => Sys2Proof.Machine.execReceiveEstablish f s
  | .receiveSlowPathFrame f => Sys2Proof.Machine.execReceiveSlowPathFrame f s
  | .receiveOtherFrame f => Sys2Proof.Machine.execReceiveOtherFrame f s
  | .receivePfcFrame port prio pause => Sys2Proof.Machine.execReceivePfcFrame port prio pause s
  | .pfcWatchdogExpiry port prio => Sys2Proof.Machine.execPfcWatchdogExpiry port prio s
  | .pfcIgnoreEnd port prio => Sys2Proof.Machine.execPfcIgnoreEnd port prio s
  | .sendData a => Sys2Proof.Machine.execSendData a s
  | .ackDelayTimer a => Sys2Proof.Machine.execAckDelayTimer a s
  | .backlogAckTimer a => Sys2Proof.Machine.execBacklogAckTimer a s
  | .retransmitTimeout a => Sys2Proof.Machine.execRetransmitTimeout a s
  | .rateControlPeriod a => Sys2Proof.Machine.execRateControlPeriod a s
  | .pathProbeTimer a path => Sys2Proof.Machine.execPathProbeTimer a path s
  | .assocNoPathTimeout a => Sys2Proof.Machine.execAssocNoPathTimeout a s
  | .assocOpenTimeout a => Sys2Proof.Machine.execAssocOpenTimeout a s
  | .establishHelloRepeat a => Sys2Proof.Machine.execEstablishHelloRepeat a s
  | .unpairedHelloExpiry n => Sys2Proof.Machine.execUnpairedHelloExpiry n s
  | .rekeyPolicyTimer a => Sys2Proof.Machine.execRekeyPolicyTimer a s
  | .rekeyKeyEraseTimer a => Sys2Proof.Machine.execRekeyKeyEraseTimer a s
  | .portAlignmentLoss port lanes => Sys2Proof.Machine.execPortAlignmentLoss port lanes s
  | .portRetrainComplete port badLanes => Sys2Proof.Machine.execPortRetrainComplete port badLanes s
  | .fabGroupModeWrite g value => Sys2Proof.Machine.execFabGroupModeWrite g value s
  | .portAddressWrite off value => Sys2Proof.Machine.execPortAddressWrite off value s
  | .apertureRead w off => Sys2Proof.Machine.execApertureRead w off s
  | .apertureAnswer a => Sys2Proof.Machine.execApertureAnswer a s
  | .apertureDeadline n => Sys2Proof.Machine.execApertureDeadline n s
  | .apertureWrite w off => Sys2Proof.Machine.execApertureWrite w off s
  | .apertureSpeculativeRead w off => Sys2Proof.Machine.execApertureSpeculativeRead w off s
  | .apertureWindowConfigWrite w value => Sys2Proof.Machine.execApertureWindowConfigWrite w value s
  | .hbmWindowAccess off size store => Sys2Proof.Machine.execHbmWindowAccess off size store s
  | .mailboxUpDoorbell inst value => Sys2Proof.Machine.execMailboxUpDoorbell inst value s
  | .mailboxDownDoorbell inst value => Sys2Proof.Machine.execMailboxDownDoorbell inst value s
  | .mailboxTimeout inst up => Sys2Proof.Machine.execMailboxTimeout inst up s
  | .copyDescriptorStart c => Sys2Proof.Machine.execCopyDescriptorStart c s
  | .copyDescriptorComplete c => Sys2Proof.Machine.execCopyDescriptorComplete c s
  | .copyDescriptorFail c cause => Sys2Proof.Machine.execCopyDescriptorFail c cause s
  | .copyLateWriteError c desc tag cause => Sys2Proof.Machine.execCopyLateWriteError c desc tag cause s
  | .copyResumeDoorbell inst k stores => Sys2Proof.Machine.execCopyResumeDoorbell inst k stores s
  | .slipcaseWatchdogExpiry => Sys2Proof.Machine.execSlipcaseWatchdogExpiry s
  | .lockstepMismatch => Sys2Proof.Machine.execLockstepMismatch s
  | .slipcaseRestartComplete => Sys2Proof.Machine.execSlipcaseRestartComplete s
  | .setDomainPolicy sb domain rekeyHours ownerHash => Sys2Proof.Machine.execSetDomainPolicy sb domain rekeyHours ownerHash s
  | .advanceFuseSvn sb svn => Sys2Proof.Machine.execAdvanceFuseSvn sb svn s
  | .spdmRequest sb r => Sys2Proof.Machine.execSpdmRequest sb r s
  | .ideKmQuery sb stream => Sys2Proof.Machine.execIdeKmQuery sb stream s
  | .ideKmKeyProg sb stream dir slot key => Sys2Proof.Machine.execIdeKmKeyProg sb stream dir slot key s
  | .ideKmKeySetGo sb stream dir slot => Sys2Proof.Machine.execIdeKmKeySetGo sb stream dir slot s
  | .ideKmKeySetStop sb stream dir slot => Sys2Proof.Machine.execIdeKmKeySetStop sb stream dir slot s
  | .lockInterface vf => Sys2Proof.Machine.execLockInterface vf s
  | .getDeviceInterfaceReport vf => Sys2Proof.Machine.execGetDeviceInterfaceReport vf s
  | .tdiRequestRejected vf => Sys2Proof.Machine.execTdiRequestRejected vf s
  | .progressMonitorExpiry r => Sys2Proof.Machine.execProgressMonitorExpiry r s
  | .controlFaultDetected b die again req => Sys2Proof.Machine.execControlFaultDetected b die again req s
  | .spineFaultDetected f => Sys2Proof.Machine.execSpineFaultDetected f s
  | .faultInjectArm value => Sys2Proof.Machine.execFaultInjectArm value s
  | .logRecordFlush flash => Sys2Proof.Machine.execLogRecordFlush flash s
  | .optimeSave flash => Sys2Proof.Machine.execOptimeSave flash s
  | .cxlLinkRetrainComplete p => Sys2Proof.Machine.execCxlLinkRetrainComplete p s
  | .hdmDecoderCommit k base size => Sys2Proof.Machine.execHdmDecoderCommit k base size s
  | .smbusMctpMessage read => Sys2Proof.Machine.execSmbusMctpMessage read s
  | .atsInvalidation inst addr length => Sys2Proof.Machine.execAtsInvalidation inst addr length s
  | .tdiRun vf stream => Sys2Proof.Machine.execTdiRun vf stream s
  | .xtsReserveRefill => Sys2Proof.Machine.execXtsReserveRefill s

end Sys2Proof.Machine
end

