-- ==== Sys2Proof/Machine/Tick.lean ====
section
/-! DEFINITION. The end of a tick of the timebase (R16, R18): the timers that ran out in it act, then the timebase
counts. -/
namespace Sys2Proof.Machine

/-- A timer acts, if the answer that R16 prefers has not come in its tick. -/
def State.late (s : State) : Expiry → State
  | .aperture n => s.apertureLate n
  | .mailbox i up => s.mailboxLate i up
  | .retransmit a => s.retransmitLate a

/-- The timers that ran out in this tick act, in the order in which they ran out, and Efura firmware and the
receive buffers send what they have to send (R16, R285, R287). -/
def State.endTick (s : State) : State :=
  if s.running then (s.expired.foldl State.late { s with expired := [] }).pfcSweep.efuraSends else s

end Sys2Proof.Machine
end

