-- ==== Sys2Proof/Machine/Step.lean ====
section
/-! DEFINITION. One step of the block: the command at the front of the queue runs with the queue's rest; on an
empty queue the block idles for one nanosecond of its timebase. -/
namespace Sys2Proof.Machine

/-- One step: take the front command, run it with the rest of the queue; with no command waiting, one idle
nanosecond passes (log 4). -/
def step (s : State) : Host.Outcome State Fault Refusal :=
  match s.pending with
  | c :: rest => exec c { s with pending := rest }
  | [] => .next (idleTick s.endTick)

/-- `s` with the command that a word spells put at the front of its queue; the table gives no row bits, so no word
spells one and `s` is unchanged. -/
def State.withFetchWord (s : State) (nbits w : Nat) : State :=
  match decodeTableWord nbits w with
  | some c => { s with pending := c :: s.pending }
  | none => s

end Sys2Proof.Machine
end

