-- ==== Sys2Proof/WellFormed.lean ====
section
/-! DEFINITION. Which commands are well formed: the numbers that a command carries name things the part has, and an
engine instruction keeps the fields of R100. Decoding yields only well-formed engine instructions; a command that is
not well formed stands for no event of the part. -/
namespace Sys2Proof

/-- PF BAR0, or the window of one of the 128 functions (R24, R520). -/
def RegSpace.wf : RegSpace → Bool
  | .bar0 => true
  | .window i => decide (i < 128)

/-- A frame comes in through one of the 128 lanes and carries 6 bytes of address and a 16-bit
port (R279–R283). -/
def Frame.wf (f : Frame) : Bool :=
  decide (f.port < 128) && decide (f.dstMac < 2 ^ 48) && decide (f.etherType < 2 ^ 16) && decide (f.udpPort < 2 ^ 16)

/-- Is a command well formed? -/
def Instr.wf (i : Instr) : Bool :=
  match i with
  | .invalidInstruction e => decide (e < 256)
  | .add e d a b => decide (e < 256) && Machine.engineWf (.add e d a b)
  | .sub e d a b => decide (e < 256) && Machine.engineWf (.sub e d a b)
  | .and e d a b => decide (e < 256) && Machine.engineWf (.and e d a b)
  | .or e d a b => decide (e < 256) && Machine.engineWf (.or e d a b)
  | .xor e d a b => decide (e < 256) && Machine.engineWf (.xor e d a b)
  | .sll e d a b => decide (e < 256) && Machine.engineWf (.sll e d a b)
  | .srl e d a b => decide (e < 256) && Machine.engineWf (.srl e d a b)
  | .sra e d a b => decide (e < 256) && Machine.engineWf (.sra e d a b)
  | .mul e d a b => decide (e < 256) && Machine.engineWf (.mul e d a b)
  | .mulh e d a b => decide (e < 256) && Machine.engineWf (.mulh e d a b)
  | .mulhu e d a b => decide (e < 256) && Machine.engineWf (.mulhu e d a b)
  | .div e d a b => decide (e < 256) && Machine.engineWf (.div e d a b)
  | .divu e d a b => decide (e < 256) && Machine.engineWf (.divu e d a b)
  | .rem e d a b => decide (e < 256) && Machine.engineWf (.rem e d a b)
  | .remu e d a b => decide (e < 256) && Machine.engineWf (.remu e d a b)
  | .slt e d a b => decide (e < 256) && Machine.engineWf (.slt e d a b)
  | .sltu e d a b => decide (e < 256) && Machine.engineWf (.sltu e d a b)
  | .min e d a b => decide (e < 256) && Machine.engineWf (.min e d a b)
  | .max e d a b => decide (e < 256) && Machine.engineWf (.max e d a b)
  | .minu e d a b => decide (e < 256) && Machine.engineWf (.minu e d a b)
  | .maxu e d a b => decide (e < 256) && Machine.engineWf (.maxu e d a b)
  | .clz e d a => decide (e < 256) && Machine.engineWf (.clz e d a)
  | .ctz e d a => decide (e < 256) && Machine.engineWf (.ctz e d a)
  | .popc e d a => decide (e < 256) && Machine.engineWf (.popc e d a)
  | .addi e d a imm => decide (e < 256) && Machine.engineWf (.addi e d a imm)
  | .andi e d a imm => decide (e < 256) && Machine.engineWf (.andi e d a imm)
  | .ori e d a imm => decide (e < 256) && Machine.engineWf (.ori e d a imm)
  | .xori e d a imm => decide (e < 256) && Machine.engineWf (.xori e d a imm)
  | .slti e d a imm => decide (e < 256) && Machine.engineWf (.slti e d a imm)
  | .sltiu e d a imm => decide (e < 256) && Machine.engineWf (.sltiu e d a imm)
  | .shi e d a imm => decide (e < 256) && Machine.engineWf (.shi e d a imm)
  | .li e d imm => decide (e < 256) && Machine.engineWf (.li e d imm)
  | .lsh e d a imm => decide (e < 256) && Machine.engineWf (.lsh e d a imm)
  | .setvl e d a imm => decide (e < 256) && Machine.engineWf (.setvl e d a imm)
  | .mfc e d imm => decide (e < 256) && Machine.engineWf (.mfc e d imm)
  | .mtc e a imm => decide (e < 256) && Machine.engineWf (.mtc e a imm)
  | .lds e t a sz sx off => decide (e < 256) && Machine.engineWf (.lds e t a sz sx off)
  | .sts e t a sz off => decide (e < 256) && Machine.engineWf (.sts e t a sz off)
  | .vld e t a m mk ff off => decide (e < 256) && Machine.engineWf (.vld e t a m mk ff off)
  | .vst e t a m mk ff off => decide (e < 256) && Machine.engineWf (.vst e t a m mk ff off)
  | .aadd e a b => decide (e < 256) && Machine.engineWf (.aadd e a b)
  | .aswp e a b => decide (e < 256) && Machine.engineWf (.aswp e a b)
  | .fetch e d a b m mk => decide (e < 256) && Machine.engineWf (.fetch e d a b m mk)
  | .ths e d a b => decide (e < 256) && Machine.engineWf (.ths e d a b)
  | .thn e d a => decide (e < 256) && Machine.engineWf (.thn e d a)
  | .thw e a b => decide (e < 256) && Machine.engineWf (.thw e a b)
  | .mld e d a => decide (e < 256) && Machine.engineWf (.mld e d a)
  | .mst e a b => decide (e < 256) && Machine.engineWf (.mst e a b)
  | .beq e a b off => decide (e < 256) && Machine.engineWf (.beq e a b off)
  | .bne e a b off => decide (e < 256) && Machine.engineWf (.bne e a b off)
  | .blt e a b off => decide (e < 256) && Machine.engineWf (.blt e a b off)
  | .bge e a b off => decide (e < 256) && Machine.engineWf (.bge e a b off)
  | .bltu e a b off => decide (e < 256) && Machine.engineWf (.bltu e a b off)
  | .bgeu e a b off => decide (e < 256) && Machine.engineWf (.bgeu e a b off)
  | .j e off => decide (e < 256) && Machine.engineWf (.j e off)
  | .jal e off => decide (e < 256) && Machine.engineWf (.jal e off)
  | .jalr e d a => decide (e < 256) && Machine.engineWf (.jalr e d a)
  | .vadd e d a b m mk s => decide (e < 256) && Machine.engineWf (.vadd e d a b m mk s)
  | .vsub e d a b m mk s => decide (e < 256) && Machine.engineWf (.vsub e d a b m mk s)
  | .vmul e d a b m mk s => decide (e < 256) && Machine.engineWf (.vmul e d a b m mk s)
  | .vand e d a b m mk s => decide (e < 256) && Machine.engineWf (.vand e d a b m mk s)
  | .vor e d a b m mk s => decide (e < 256) && Machine.engineWf (.vor e d a b m mk s)
  | .vxor e d a b m mk s => decide (e < 256) && Machine.engineWf (.vxor e d a b m mk s)
  | .vsll e d a b m mk s => decide (e < 256) && Machine.engineWf (.vsll e d a b m mk s)
  | .vsrl e d a b m mk s => decide (e < 256) && Machine.engineWf (.vsrl e d a b m mk s)
  | .vsra e d a b m mk s => decide (e < 256) && Machine.engineWf (.vsra e d a b m mk s)
  | .vmin e d a b m mk s => decide (e < 256) && Machine.engineWf (.vmin e d a b m mk s)
  | .vmax e d a b m mk s => decide (e < 256) && Machine.engineWf (.vmax e d a b m mk s)
  | .vminu e d a b m mk s => decide (e < 256) && Machine.engineWf (.vminu e d a b m mk s)
  | .vmaxu e d a b m mk s => decide (e < 256) && Machine.engineWf (.vmaxu e d a b m mk s)
  | .vaddcS e d a b m mk s => decide (e < 256) && Machine.engineWf (.vaddcS e d a b m mk s)
  | .vaddcU e d a b m mk s => decide (e < 256) && Machine.engineWf (.vaddcU e d a b m mk s)
  | .vsubcS e d a b m mk s => decide (e < 256) && Machine.engineWf (.vsubcS e d a b m mk s)
  | .vsubcU e d a b m mk s => decide (e < 256) && Machine.engineWf (.vsubcU e d a b m mk s)
  | .vmulcS e d a b m mk s => decide (e < 256) && Machine.engineWf (.vmulcS e d a b m mk s)
  | .vmv e d a m mk => decide (e < 256) && Machine.engineWf (.vmv e d a m mk)
  | .vbcast e d b m mk => decide (e < 256) && Machine.engineWf (.vbcast e d b m mk)
  | .vfadd e d a b m mk s => decide (e < 256) && Machine.engineWf (.vfadd e d a b m mk s)
  | .vfsub e d a b m mk s => decide (e < 256) && Machine.engineWf (.vfsub e d a b m mk s)
  | .vfmul e d a b m mk s => decide (e < 256) && Machine.engineWf (.vfmul e d a b m mk s)
  | .vfdiv e d a b m mk s => decide (e < 256) && Machine.engineWf (.vfdiv e d a b m mk s)
  | .vfmin e d a b m mk s => decide (e < 256) && Machine.engineWf (.vfmin e d a b m mk s)
  | .vfmax e d a b m mk s => decide (e < 256) && Machine.engineWf (.vfmax e d a b m mk s)
  | .vfabs e d a m mk => decide (e < 256) && Machine.engineWf (.vfabs e d a m mk)
  | .vfneg e d a m mk => decide (e < 256) && Machine.engineWf (.vfneg e d a m mk)
  | .vcmp e d a b m mk s kind cond => decide (e < 256) && Machine.engineWf (.vcmp e d a b m mk s kind cond)
  | .mand e d a b => decide (e < 256) && Machine.engineWf (.mand e d a b)
  | .mor e d a b => decide (e < 256) && Machine.engineWf (.mor e d a b)
  | .mxor e d a b => decide (e < 256) && Machine.engineWf (.mxor e d a b)
  | .mandn e d a b => decide (e < 256) && Machine.engineWf (.mandn e d a b)
  | .mnot e d a => decide (e < 256) && Machine.engineWf (.mnot e d a)
  | .mset e d => decide (e < 256) && Machine.engineWf (.mset e d)
  | .mpop e d a => decide (e < 256) && Machine.engineWf (.mpop e d a)
  | .mffs e d a => decide (e < 256) && Machine.engineWf (.mffs e d a)
  | .mfromg e d a => decide (e < 256) && Machine.engineWf (.mfromg e d a)
  | .mtog e d a => decide (e < 256) && Machine.engineWf (.mtog e d a)
  | .vcmprs e d a m mk => decide (e < 256) && Machine.engineWf (.vcmprs e d a m mk)
  | .vexpnd e d a m mk => decide (e < 256) && Machine.engineWf (.vexpnd e d a m mk)
  | .vscan e d a m mk => decide (e < 256) && Machine.engineWf (.vscan e d a m mk)
  | .vsort e d a m mk => decide (e < 256) && Machine.engineWf (.vsort e d a m mk)
  | .vsortp e d a m mk => decide (e < 256) && Machine.engineWf (.vsortp e d a m mk)
  | .vunpk e d a b m mk s => decide (e < 256) && Machine.engineWf (.vunpk e d a b m mk s)
  | .vext e d a b => decide (e < 256) && Machine.engineWf (.vext e d a b)
  | .vins e d a b => decide (e < 256) && Machine.engineWf (.vins e d a b)
  | .vwidenS e d a m mk => decide (e < 256) && Machine.engineWf (.vwidenS e d a m mk)
  | .vwidenU e d a m mk => decide (e < 256) && Machine.engineWf (.vwidenU e d a m mk)
  | .vnarrow e d a m mk => decide (e < 256) && Machine.engineWf (.vnarrow e d a m mk)
  | .vcvtIf e d a m mk => decide (e < 256) && Machine.engineWf (.vcvtIf e d a m mk)
  | .vcvtFi e d a m mk => decide (e < 256) && Machine.engineWf (.vcvtFi e d a m mk)
  | .vcvtSd e d a m mk => decide (e < 256) && Machine.engineWf (.vcvtSd e d a m mk)
  | .vcvtDs e d a m mk => decide (e < 256) && Machine.engineWf (.vcvtDs e d a m mk)
  | .hashc e d a b m mk s => decide (e < 256) && Machine.engineWf (.hashc e d a b m mk s)
  | .hashm e d a b m mk s => decide (e < 256) && Machine.engineWf (.hashm e d a b m mk s)
  | .xclr e d => decide (e < 256) && Machine.engineWf (.xclr e d)
  | .xaddf e d a m mk => decide (e < 256) && Machine.engineWf (.xaddf e d a m mk)
  | .xaddi e d a m mk => decide (e < 256) && Machine.engineWf (.xaddi e d a m mk)
  | .xmacf e d a b m mk s => decide (e < 256) && Machine.engineWf (.xmacf e d a b m mk s)
  | .xmrg e d a => decide (e < 256) && Machine.engineWf (.xmrg e d a)
  | .xrnd e d a => decide (e < 256) && Machine.engineWf (.xrnd e d a)
  | .xrnds e d a => decide (e < 256) && Machine.engineWf (.xrnds e d a)
  | .xrdw e d a b => decide (e < 256) && Machine.engineWf (.xrdw e d a b)
  | .xpost e a b => decide (e < 256) && Machine.engineWf (.xpost e a b)
  | .xld e d a => decide (e < 256) && Machine.engineWf (.xld e d a)
  | .xst e a b => decide (e < 256) && Machine.engineWf (.xst e a b)
  | .bnext e d => decide (e < 256) && Machine.engineWf (.bnext e d)
  | .emit e a b m mk => decide (e < 256) && Machine.engineWf (.emit e a b m mk)
  | .emitend e => decide (e < 256) && Machine.engineWf (.emitend e)
  | .spawn e a b => decide (e < 256) && Machine.engineWf (.spawn e a b)
  | .commit e => decide (e < 256) && Machine.engineWf (.commit e)
  | .powerGoodRise _ => true
  | .powerGoodFall => true
  | .perstNAssert => true
  | .perstNDeassert _ => true
  | .hotReset _ => true
  | .efuraStartTimeout => true
  | .coldStartComplete _ => true
  | .refclkLoss _ => true
  | .refclkReturn _ => true
  | .hbmRefclkHoldExpiry => true
  | .pwrbrkNAssert => true
  | .pwrbrkNDeassert => true
  | .ppsInEdge => true
  | .ppsOutEdge => true
  | .deviceReset _ _ => true
  | .maintHoldWrite _ => true
  | .registerWrite sp off size _ => sp.wf && decide (size = 4 ∨ size = 8) && decide (off % size = 0)
  | .latchedLowHalfRead off => decide (off % 8 = 0) && decide (off < 2 ^ 24)
  | .badRegisterAccess sp _ _ _ => sp.wf
  | .settingsPersist _ => true
  | .enableAdminQueues inst => decide (inst < 128)
  | .disableAdminQueues inst => decide (inst < 128)
  | .sqTailDoorbell inst k _ _ => decide (inst < 128) && decide (k < 1024)
  | .cqHeadDoorbell inst k _ => decide (inst < 128) && decide (k < 1024)
  | .pushWindowWrite inst k off data => decide (inst < 128) && decide (k < 1024) && decide (off + data.length ≤ 256)
  | .fetchEntries => true
  | .interruptCoalesceTimer inst k => decide (inst < 128) && decide (k < 1024)
  | .identify inst sq cid => decide (inst < 128) && decide (sq < 1024) && decide (cid < 65536)
  | .getLogPage inst sq cid => decide (inst < 128) && decide (sq < 1024) && decide (cid < 65536)
  | .setFeatures inst sq cid => decide (inst < 128) && decide (sq < 1024) && decide (cid < 65536)
  | .getFeatures inst sq cid => decide (inst < 128) && decide (sq < 1024) && decide (cid < 65536)
  | .firmwareImageDownload inst sq cid => decide (inst < 128) && decide (sq < 1024) && decide (cid < 65536)
  | .firmwareCommit inst sq cid => decide (inst < 128) && decide (sq < 1024) && decide (cid < 65536)
  | .activationLoaded _ => true
  | .activationReady => true
  | .activationTimeout => true
  | .createSubmissionQueue inst sq cid => decide (inst < 128) && decide (sq < 1024) && decide (cid < 65536)
  | .deleteSubmissionQueue inst sq cid => decide (inst < 128) && decide (sq < 1024) && decide (cid < 65536)
  | .createCompletionQueue inst sq cid => decide (inst < 128) && decide (sq < 1024) && decide (cid < 65536)
  | .deleteCompletionQueue inst sq cid => decide (inst < 128) && decide (sq < 1024) && decide (cid < 65536)
  | .asynchronousEventRequest inst sq cid => decide (inst < 128) && decide (sq < 1024) && decide (cid < 65536)
  | .createInstance inst sq cid => decide (inst < 128) && decide (sq < 1024) && decide (cid < 65536)
  | .quiesceInstance inst sq cid => decide (inst < 128) && decide (sq < 1024) && decide (cid < 65536)
  | .quiesceComplete inst => decide (inst < 128)
  | .resumeInstance inst sq cid => decide (inst < 128) && decide (sq < 1024) && decide (cid < 65536)
  | .removeInstance inst sq cid => decide (inst < 128) && decide (sq < 1024) && decide (cid < 65536)
  | .setInstanceShare inst sq cid => decide (inst < 128) && decide (sq < 1024) && decide (cid < 65536)
  | .functionLevelReset inst => decide (inst < 128)
  | .loadFolio inst sq cid => decide (inst < 128) && decide (sq < 1024) && decide (cid < 65536)
  | .submitFolio inst sq cid => decide (inst < 128) && decide (sq < 1024) && decide (cid < 65536)
  | .cancelFolio inst sq cid => decide (inst < 128) && decide (sq < 1024) && decide (cid < 65536)
  | .loadSegments inst sq cid => decide (inst < 128) && decide (sq < 1024) && decide (cid < 65536)
  | .readResults inst sq cid => decide (inst < 128) && decide (sq < 1024) && decide (cid < 65536)
  | .thumbLoad inst sq cid => decide (inst < 128) && decide (sq < 1024) && decide (cid < 65536)
  | .copy inst sq cid => decide (inst < 128) && decide (sq < 1024) && decide (cid < 65536)
  | .cipher inst sq cid => decide (inst < 128) && decide (sq < 1024) && decide (cid < 65536)
  | .cipherJobComplete page coreFaults => decide (page < 144) && coreFaults.all (fun c => decide (c < 384))
  | .digest inst sq cid => decide (inst < 128) && decide (sq < 1024) && decide (cid < 65536)
  | .digestJobStart => true
  | .digestJobComplete unit _ => decide (unit < 16)
  | .pressCompress inst sq cid => decide (inst < 128) && decide (sq < 1024) && decide (cid < 65536)
  | .pressDecompress inst sq cid => decide (inst < 128) && decide (sq < 1024) && decide (cid < 65536)
  | .pressRegisterDictionary inst sq cid => decide (inst < 128) && decide (sq < 1024) && decide (cid < 65536)
  | .pressJobStart => true
  | .pressJobComplete unit _ => decide (unit < 32)
  | .associationBind inst sq cid => decide (inst < 128) && decide (sq < 1024) && decide (cid < 65536)
  | .associationUnbind inst sq cid => decide (inst < 128) && decide (sq < 1024) && decide (cid < 65536)
  | .associationOpen inst sq cid => decide (inst < 128) && decide (sq < 1024) && decide (cid < 65536)
  | .associationClose inst sq cid => decide (inst < 128) && decide (sq < 1024) && decide (cid < 65536)
  | .associationRekey inst sq cid => decide (inst < 128) && decide (sq < 1024) && decide (cid < 65536)
  | .flush inst sq cid => decide (inst < 128) && decide (sq < 1024) && decide (cid < 65536)
  | .cutLeaf inst _ _ => decide (inst < 128)
  | .dispatchPass => true
  | .traceRingEnable ring _ => ring.all (fun k => decide (k < 128))
  | .budgetRefill _ => true
  | .creditRefill => true
  | .powerEstimateTick _ => true
  | .telemetryRead rails => decide (rails.length = 4)
  | .thermalSensorRead r => decide (r.quire.length = 16) && decide (r.iod.length = 2) && decide (r.stack.length = 8)
  | .voltageTargetRevision busOk usedPercent => decide (busOk.length = 4) && decide (usedPercent.length = 4)
  | .stepLimitReached e => decide (e < 256)
  | .stallWatchdogExpiry e => decide (e < 256)
  | .engineFaultDetected e _ => decide (e < 256)
  | .engineFaultCount e => decide (e < 256)
  | .commitApplied _ => true
  | .completionReportWrite inst _ => decide (inst < 128)
  | .trimmerBatch t => decide (t < 256)
  | .mergerBatch q => decide (q < 16)
  | .fetchDeliver e => decide (e < 256)
  | .pagerSweep inst => decide (inst < 128)
  | .pageEvictComplete inst _ => decide (inst < 128)
  | .pageRestoreComplete inst _ _ => decide (inst < 128)
  | .frameZeroComplete frame => decide (frame < 262144 + 2 ^ 48)
  | .pageTableWalk _ => true
  | .pageTableWalkComplete => true
  | .qmRsetWrite inst k _ => decide (inst < 128) && decide (k < 8)
  | .qmScrubRead q _ _ => decide (q < 16)
  | .marchStart q _ => decide (q < 16)
  | .marchRun q _ _ => decide (q < 16)
  | .marchComplete q => decide (q < 16)
  | .thumbBankRetention q bank => decide (q < 16) && decide (bank < 64)
  | .thumbBankWakeComplete q bank => decide (q < 16) && decide (bank < 64)
  | .thumbThrottleUpdate q => decide (q < 16)
  | .hbmRefresh c bank => decide (c < 256) && decide (bank < 128)
  | .hbmScrubRead c _ => decide (c < 256)
  | .hbmRecalibration c _ => decide (c < 256)
  | .channelMigration c => decide (c < 256)
  | .channelMapOutComplete c => decide (c < 256)
  | .cxlLinkDown p => decide (p < 2)
  | .cxlRetrainTimeout p => decide (p < 2)
  | .receiveData f => f.wf
  | .receiveAck f => f.wf
  | .receiveProbe f => f.wf
  | .receiveProbeReply f => f.wf
  | .receiveRekey f => f.wf
  | .receiveClose f => f.wf
  | .receiveCloseAck f => f.wf
  | .receiveEstablish f => f.wf
  | .receiveSlowPathFrame f => f.wf
  | .receiveOtherFrame f => f.wf
  | .receivePfcFrame port prio _ => decide (port < 128) && decide (prio < 8)
  | .pfcWatchdogExpiry port prio => decide (port < 128) && decide (prio < 8)
  | .pfcIgnoreEnd port prio => decide (port < 128) && decide (prio < 8)
  | .sendData a => decide (a < 65536)
  | .ackDelayTimer a => decide (a < 65536)
  | .backlogAckTimer a => decide (a < 65536)
  | .retransmitTimeout a => decide (a < 65536)
  | .rateControlPeriod a => decide (a < 65536)
  | .pathProbeTimer a path => decide (a < 65536) && decide (path < 16)
  | .assocNoPathTimeout a => decide (a < 65536)
  | .assocOpenTimeout a => decide (a < 65536)
  | .establishHelloRepeat a => decide (a < 65536)
  | .unpairedHelloExpiry _ => true
  | .rekeyPolicyTimer a => decide (a < 65536)
  | .rekeyKeyEraseTimer a => decide (a < 65536)
  | .portAlignmentLoss port lanes => decide (port < 128) && lanes.all (fun l => decide (l < 128))
  | .portRetrainComplete port badLanes => decide (port < 128) && badLanes.all (fun l => decide (l < 128))
  | .fabGroupModeWrite g _ => decide (g < 8)
  | .portAddressWrite _ _ => true
  | .apertureRead w _ => decide (w < 16)
  | .apertureAnswer _ => true
  | .apertureDeadline _ => true
  | .apertureWrite w _ => decide (w < 16)
  | .apertureSpeculativeRead w _ => decide (w < 16)
  | .apertureWindowConfigWrite w _ => decide (w < 16)
  | .hbmWindowAccess _ size _ => decide (0 < size) && decide (size ≤ 64)
  | .mailboxUpDoorbell inst _ => decide (inst < 128)
  | .mailboxDownDoorbell inst _ => decide (inst < 128)
  | .mailboxTimeout inst _ => decide (inst < 128)
  | .copyDescriptorStart c => decide (c < 64)
  | .copyDescriptorComplete c => decide (c < 64)
  | .copyDescriptorFail c _ => decide (c < 64)
  | .copyLateWriteError c _ _ _ => decide (c < 64)
  | .copyResumeDoorbell inst _ _ => decide (inst < 128)
  | .slipcaseWatchdogExpiry => true
  | .lockstepMismatch => true
  | .slipcaseRestartComplete => true
  | .setDomainPolicy _ _ _ _ => true
  | .advanceFuseSvn _ _ => true
  | .spdmRequest _ _ => true
  | .ideKmQuery _ _ => true
  | .ideKmKeyProg _ _ _ _ _ => true
  | .ideKmKeySetGo _ _ _ _ => true
  | .ideKmKeySetStop _ _ _ _ => true
  | .lockInterface vf => decide (vf < 128)
  | .getDeviceInterfaceReport vf => decide (vf < 128)
  | .tdiRequestRejected vf => decide (vf < 128)
  | .progressMonitorExpiry _ => true
  | .controlFaultDetected _ die _ _ => decide (die < 4)
  | .spineFaultDetected _ => true
  | .faultInjectArm _ => true
  | .logRecordFlush _ => true
  | .optimeSave _ => true
  | .cxlLinkRetrainComplete p => decide (p < 2)
  | .hdmDecoderCommit k _ _ => decide (k < 20)
  | .smbusMctpMessage _ => true
  | .atsInvalidation inst _ _ => decide (inst < 128)
  | .tdiRun vf _ => decide (vf < 128)
  | .xtsReserveRefill => true

end Sys2Proof
end

