-- ==== Sys2Proof/Safety.lean ====
section
/-! DEFINITION. What claims about runs of the E256 are stated in: what counts as a tripped part, what the host may
still do to it, and what it means that a command leaves the part as it was. -/
namespace Sys2Proof.Machine

/-- The two commands that change whether the supplies are good: only they end what R443 stopped (R500). -/
def powerEvent (c : Instr) : Bool :=
  match c with
  | .powerGoodRise _ => true
  | .powerGoodFall => true
  | _ => false

/-- The two commands that carry stores of host software into its own memory before they ring a doorbell (R318, R431). -/
def carriesStores (c : Instr) : Bool :=
  match c with
  | .sqTailDoorbell _ _ _ _ => true
  | .copyResumeDoorbell _ _ _ => true
  | _ => false

/-- THERMTRIP_N has stopped every block, its latch holds, and no waiting command changes the supplies (R443). -/
def State.tripped (s : State) : Bool := s.stopped && !s.pins.thermtripN && s.pending.all (fun c => !powerEvent c)

/-- `t` is `s` but for what lies outside its blocks: the levels of its pins, the host link and its MSI-X control, host memory,
the host's error answers and the cells of memory devices that have gone bad. The THERMTRIP_N pin is as it was (R443). -/
def Frozen (s t : State) : Prop :=
  t = { s with pins := t.pins, link := t.link, msixCtl := t.msixCtl, mem := t.mem, hostErrs := t.hostErrs, upsets := t.upsets } ∧
    t.pins.thermtripN = s.pins.thermtripN

/-- `t` is `s` but for what completions, events and log records move: queues and holds of instances, fetched commands,
host memory and the messages to the host, the log buffer and its record numbers, and the count of failed commands
(R329–R333, R342, R481–R484). The instances that exist are the same. -/
def Posted (s t : State) : Prop :=
  t = { s with
    insts := t.insts, cmds := t.cmds, mem := t.mem, winRegs := t.winRegs, outbox := t.outbox, log := t.log
    col := { s.col with errNext := t.col.errNext, fhNext := t.col.fhNext }
    dev := { s.dev with cmdsFailed := t.dev.cmdsFailed } } ∧
  t.insts.map (·.1) = s.insts.map (·.1)

/-- A lost reference clock remembered and recorded, and a clock that has returned (R502). -/
def State.clockLost (s : State) (c : RefClk) : State := ({ s with clkLost := s.clkLost ++ [c] } : State).logFh
  { kind := 0x0902, outcome := 7, resType := 0, resIdx := clkCode c, data := leBytes 4 (clkCode c) }
def State.clockBack (s : State) (c : RefClk) : State := { s with clkLost := s.clkLost.filter (· != c) }

-- ---------------------------------------------------------------- engine instructions

/-- Engine `e` issues instruction `c` with registers `r` of leaf `l`: it stands at it inside the step limit, no residue
fault is armed against the engine, and the instruction word is not poisoned (R47, R97, R100, R142, R489). -/
def Issued (s : State) (e : Nat) (c : Instr) (r : EngRun) (l : Leaf) : Prop :=
  s.issues e c = some (r, l) ∧ s.armed 1 e = false ∧ s.poisoned (.imem e) r.pc 4 = false

/-- The registers with the steps of an instruction counted (R47, R93). -/
def counted (c : Instr) (r : EngRun) : EngRun := { r with steps := r.steps + engCost c r }

/-- The engine holds registers `r` and stands at the next instruction. -/
def State.stepTo (s : State) (e : Nat) (r : EngRun) : State := s.setRun e { r with pc := r.pc + 4 }

/-- Whenever engine `e` issues `c` and its registers meet `ok`, `c` completes: the registers become `f` of what they
were, with the steps counted and the engine at the next instruction, and nothing else changes. -/
def GivesWhen (e : Nat) (c : Instr) (ok : EngRun → Prop) (f : EngRun → EngRun) : Prop :=
  ∀ (s : State) (r : EngRun) (l : Leaf), Issued s e c r l → ok r → exec c s = .next (s.stepTo e (f (counted c r)))

/-- As `GivesWhen`, whatever the registers. -/
def Gives (e : Nat) (c : Instr) (f : EngRun → EngRun) : Prop := GivesWhen e c (fun _ => True) f

/-- Whenever engine `e` issues `c` and its registers meet `ok`, `c` completes: of what `pre` makes of the registers only
v[D] changes, whose element i is `f` of the registers and i, modulo 2^EW, where element i is active under M and MK, and
as before elsewhere (R100, R102). -/
def GivesElements (e : Nat) (c : Instr) (d : BitVec 5) (m : BitVec 1) (mk : BitVec 3) (ok : EngRun → Prop)
    (pre : EngRun → EngRun) (f : EngRun → Nat → Nat) : Prop :=
  ∀ (s : State) (r : EngRun) (l : Leaf), Issued s e c r l → ok r →
    ∃ v : BitVec 512, exec c s = .next (s.stepTo e ((pre (counted c r)).wv d v)) ∧
      ∀ i, i < 512 / r.w → elem v r.w i = if r.active m mk i then f r i % 2 ^ r.w else elem (r.rv d) r.w i

/-- Whenever engine `e` issues `c` and its registers meet `bad`, the leaf fails with status `st`, naming no address. -/
def FailsWhen (e : Nat) (c : Instr) (bad : EngRun → Prop) (st : Nat) : Prop :=
  ∀ (s : State) (r : EngRun) (l : Leaf), Issued s e c r l → bad r → exec c s = .next (s.failAt l st 0)

/-- Is a jump target inside the code section of an engine: aligned, below its end, not the exit address (R97, R125)? -/
def JumpInside (s : State) (e : Nat) (t : Word) : Prop :=
  t.toNat ≠ 0xFFFFFFFFFFFFFFFC ∧ t.toNat % 4 = 0 ∧ t.toNat < (s.engOf e).codeLen

/-- The target of a branch or jump: offsets count instructions from the instruction's own address (R100). -/
def jumpTarget (r : EngRun) (off : Int) : Word := BitVec.ofInt 64 ((r.pc : Int) + 4 * off)

/-- Whenever engine `e` issues branch `c`: it moves to the next instruction where `cond` of g[A] and g[B] fails, and to
the target where it holds and the target is inside. -/
def Branches (e : Nat) (c : Instr) (a b : BitVec 5) (off : BitVec 16) (cond : Word → Word → Prop) : Prop :=
  ∀ (s : State) (r : EngRun) (l : Leaf), Issued s e c r l →
    (¬ cond (r.rg a) (r.rg b) → exec c s = .next (s.stepTo e (counted c r))) ∧
    (cond (r.rg a) (r.rg b) → JumpInside s e (jumpTarget r off.toInt) →
      exec c s = .next (s.setRun e { counted c r with pc := (jumpTarget r off.toInt).toNat }))

/-- The registers of an engine that an instruction can name as its destination: g, v, m, a, the three that SETVL sets, SB
and OVF (R99). -/
inductive RegName where
  | g (i : BitVec 5)
  | v (i : BitVec 5)
  | m (i : BitVec 3)
  | a (i : BitVec 2)
  | vl
  | sb
  | ovf
deriving DecidableEq, Repr

/-- The engine and the destination registers of an instruction that only computes in registers; none for the others
(branches, memory, leaf input and output, R109–R118). -/
def destOf (c : Instr) : Option (Nat × List RegName) :=
  match c with
  | .add e d _ _ | .sub e d _ _ | .and e d _ _ | .or e d _ _ | .xor e d _ _ | .sll e d _ _ | .srl e d _ _
  | .sra e d _ _ | .mul e d _ _ | .mulh e d _ _ | .mulhu e d _ _ | .div e d _ _ | .divu e d _ _ | .rem e d _ _
  | .remu e d _ _ | .slt e d _ _ | .sltu e d _ _ | .min e d _ _ | .max e d _ _ | .minu e d _ _ | .maxu e d _ _
  | .clz e d _ | .ctz e d _ | .popc e d _ | .addi e d _ _ | .andi e d _ _ | .ori e d _ _ | .xori e d _ _
  | .slti e d _ _ | .sltiu e d _ _ | .lsh e d _ _ | .li e d _ | .shi e d _ _ | .mfc e d _ | .mpop e d _
  | .mffs e d _ | .mtog e d _ | .vext e d _ _ | .xrnd e d _ | .xrnds e d _ | .xrdw e d _ _ => some (e, [.g d])
  | .setvl e d _ _ => some (e, [.g d, .vl])
  | .mtc e _ imm => some (e, if imm = 3 then [.sb] else [.ovf])
  | .vadd e d _ _ _ _ _ | .vsub e d _ _ _ _ _ | .vmul e d _ _ _ _ _ | .vand e d _ _ _ _ _ | .vor e d _ _ _ _ _
  | .vxor e d _ _ _ _ _ | .vsll e d _ _ _ _ _ | .vsrl e d _ _ _ _ _ | .vsra e d _ _ _ _ _ | .vmin e d _ _ _ _ _
  | .vmax e d _ _ _ _ _ | .vminu e d _ _ _ _ _ | .vmaxu e d _ _ _ _ _ | .vmv e d _ _ _ | .vbcast e d _ _ _
  | .vfadd e d _ _ _ _ _ | .vfsub e d _ _ _ _ _ | .vfmul e d _ _ _ _ _ | .vfdiv e d _ _ _ _ _
  | .vfmin e d _ _ _ _ _ | .vfmax e d _ _ _ _ _ | .vfabs e d _ _ _ | .vfneg e d _ _ _ | .vcmprs e d _ _ _
  | .vexpnd e d _ _ _ | .vscan e d _ _ _ | .vsort e d _ _ _ | .vunpk e d _ _ _ _ _ | .vins e d _ _
  | .vwidenS e d _ _ _ | .vwidenU e d _ _ _ | .vnarrow e d _ _ _ | .vcvtIf e d _ _ _ | .vcvtFi e d _ _ _
  | .vcvtSd e d _ _ _ | .vcvtDs e d _ _ _ | .hashc e d _ _ _ _ _ | .hashm e d _ _ _ _ _ => some (e, [.v d])
  | .vaddcS e d _ _ _ _ _ | .vaddcU e d _ _ _ _ _ | .vsubcS e d _ _ _ _ _ | .vsubcU e d _ _ _ _ _
  | .vmulcS e d _ _ _ _ _ => some (e, [.v d, .ovf])
  | .vsortp e d a _ _ => some (e, [.v d, .v a])
  | .vcmp e d _ _ _ _ _ _ _ => some (e, [.m (d.extractLsb' 0 3)])
  | .mand e d _ _ | .mor e d _ _ | .mxor e d _ _ | .mandn e d _ _ | .mnot e d _ | .mset e d | .mfromg e d _ => some (e, [.m d])
  | .xclr e d | .xaddf e d _ _ _ | .xaddi e d _ _ _ | .xmacf e d _ _ _ _ _ | .xmrg e d _ => some (e, [.a d])
  | _ => none

/-- The registers of `r'` outside the list `ds` are those of `r`; the leaf, what it has staged and spawned, its batches
and its fetch are the same. -/
structure KeepsOthers (ds : List RegName) (r r' : EngRun) : Prop where
  rest    : r' = { r with pc := r'.pc, steps := r'.steps, g := r'.g, v := r'.v, m := r'.m, acc := r'.acc, vl := r'.vl,
                          ew := r'.ew, vlen := r'.vlen, sb := r'.sb, ovf := r'.ovf }
  scalars : ∀ k, RegName.g k ∉ ds → r'.rg k = r.rg k
  vectors : ∀ k, RegName.v k ∉ ds → r'.rv k = r.rv k
  masks   : ∀ k, RegName.m k ∉ ds → r'.rm k = r.rm k
  accs    : ∀ k, RegName.a k ∉ ds → r'.ra k = r.ra k
  length  : RegName.vl ∉ ds → r'.vl = r.vl ∧ r'.ew = r.ew ∧ r'.vlen = r.vlen
  sink    : RegName.sb ∉ ds → r'.sb = r.sb
  ovf     : RegName.ovf ∉ ds → r'.ovf = r.ovf

/-- The memory of a state is in its one canonical form: addresses rising, no zero byte listed. -/
def State.memOk (s : State) : Bool := Mem.wf s.mem

/-- A step of the machine is safe when it answers a next state: nothing of the E256 stops the model. -/
def answersNext (o : Host.Outcome State Fault Refusal) : Bool :=
  match o with
  | .next _ => true
  | .fault _ => false
  | .refused _ => false

end Sys2Proof.Machine
end

