-- ==== Sys2Proof/Certificates/Slice0/Obligations.lean ====
section
/-! DEFINITION. What is claimed of the model: the statements for the provers, one `def` each. -/
open Sys2Proof Sys2Proof.Machine

/-- The engine decoder reads back every well-formed engine instruction from the word that encodes it (04_engines.md). -/
def Obligations.DecodeOfEncodedEngineInstruction : Prop :=
  ∀ (e : Nat) (i : Instr) (w : BitVec 32), engineNo i = some e → engineWf i = true → encodeEngine i = some w →
    decodeEngine e w = some i

/-- Whatever the engine decoder accepts is a well-formed instruction step of that engine (04_engines.md). -/
def Obligations.DecodedEngineInstructionKeepsR100 : Prop :=
  ∀ (e : Nat) (w : BitVec 32) (i : Instr), decodeEngine e w = some i →
    engineNo i = some e ∧ engineWf i = true ∧ (encodeEngine i).isSome = true

/-- Words written out from the formats of R100 decode to the instructions they stand for (04_engines.md). -/
def Obligations.EngineWordsOfTheSpecDecode : Prop :=
  ∀ e : Nat,
    decodeEngine e 0xA0611500#32 = some (.vadd e 3 1 2 1 2 0) ∧
    decodeEngine e 0x04000000#32 = some (.addi e 0 0 0) ∧
    -- MAJOR 0x11, T 7, A 4, SZ 3, SX 0, OFF12 −8
    decodeEngine e (0b010001#6 ++ 0b00111#5 ++ 0b00100#5 ++ 0b11#2 ++ 0#1 ++ 0#1 ++ 0xFF8#12) = some (.sts e 7 4 3 0xFF8) ∧
    -- MAJOR 0x1A, A 5, B 6, OFF16 −3
    decodeEngine e (0b011010#6 ++ 0b00101#5 ++ 0b00110#5 ++ 0xFFFD#16) = some (.blt e 5 6 0xFFFD) ∧
    -- MAJOR 0x1F, OFF26 16
    decodeEngine e (0b011111#6 ++ 16#26) = some (.jal e 16) ∧
    -- MAJOR 0x2B, D 1, A 2, B 3, FN 0x03
    decodeEngine e (0b101011#6 ++ 1#5 ++ 2#5 ++ 3#5 ++ 0#1 ++ 0#3 ++ 0#1 ++ 3#6) = some (.mandn e 1 2 3) ∧
    -- MAJOR 0x30, FN 0x04
    decodeEngine e (0b110000#6 ++ 0#20 ++ 4#6) = some (.commit e) ∧
    decodeEngine e 0xFC000000#32 = none ∧
    decodeEngine e (0#6 ++ 1#5 ++ 2#5 ++ 3#5 ++ 1#1 ++ 0#3 ++ 0#1 ++ 0#6) = none ∧
    decodeEngine e (0b101000#6 ++ 1#5 ++ 2#5 ++ 3#5 ++ 0#1 ++ 1#3 ++ 0#1 ++ 0#6) = none

/-- Each scalar function of MAJOR 0x00 writes the result of its table row to g[D] and moves on (04_engines.md). -/
def Obligations.ScalarFunctionResults : Prop :=
  ∀ (e : Nat) (d a b : BitVec 5),
    Gives e (.add e d a b) (fun r => r.wg d (r.rg a + r.rg b)) ∧
    Gives e (.sub e d a b) (fun r => r.wg d (r.rg a - r.rg b)) ∧
    Gives e (.and e d a b) (fun r => r.wg d (r.rg a &&& r.rg b)) ∧
    Gives e (.or e d a b) (fun r => r.wg d (r.rg a ||| r.rg b)) ∧
    Gives e (.xor e d a b) (fun r => r.wg d (r.rg a ^^^ r.rg b)) ∧
    Gives e (.sll e d a b) (fun r => r.wg d (r.rg a <<< ((r.rg b).toNat % 64))) ∧
    Gives e (.srl e d a b) (fun r => r.wg d (r.rg a >>> ((r.rg b).toNat % 64))) ∧
    Gives e (.sra e d a b) (fun r => r.wg d ((r.rg a).sshiftRight ((r.rg b).toNat % 64))) ∧
    Gives e (.mul e d a b) (fun r => r.wg d (BitVec.ofNat 64 ((r.rg a).toNat * (r.rg b).toNat))) ∧
    Gives e (.mulh e d a b) (fun r => r.wg d (BitVec.ofInt 64 ((r.rg a).toInt * (r.rg b).toInt / 2 ^ 64))) ∧
    Gives e (.mulhu e d a b) (fun r => r.wg d (BitVec.ofNat 64 ((r.rg a).toNat * (r.rg b).toNat / 2 ^ 64))) ∧
    Gives e (.div e d a b) (fun r => r.wg d
      (if r.rg b = 0 then 0xFFFFFFFFFFFFFFFF else BitVec.ofInt 64 ((r.rg a).toInt.tdiv (r.rg b).toInt))) ∧
    Gives e (.divu e d a b) (fun r => r.wg d
      (if r.rg b = 0 then 0xFFFFFFFFFFFFFFFF else BitVec.ofNat 64 ((r.rg a).toNat / (r.rg b).toNat))) ∧
    Gives e (.rem e d a b) (fun r => r.wg d
      (if r.rg b = 0 then r.rg a else BitVec.ofInt 64 ((r.rg a).toInt.tmod (r.rg b).toInt))) ∧
    Gives e (.remu e d a b) (fun r => r.wg d
      (if r.rg b = 0 then r.rg a else BitVec.ofNat 64 ((r.rg a).toNat % (r.rg b).toNat))) ∧
    Gives e (.slt e d a b) (fun r => r.wg d (if (r.rg a).toInt < (r.rg b).toInt then 1 else 0)) ∧
    Gives e (.sltu e d a b) (fun r => r.wg d (if (r.rg a).toNat < (r.rg b).toNat then 1 else 0)) ∧
    Gives e (.min e d a b) (fun r => r.wg d (if (r.rg b).toInt < (r.rg a).toInt then r.rg b else r.rg a)) ∧
    Gives e (.max e d a b) (fun r => r.wg d (if (r.rg a).toInt ≤ (r.rg b).toInt then r.rg b else r.rg a)) ∧
    Gives e (.minu e d a b) (fun r => r.wg d (if (r.rg b).toNat < (r.rg a).toNat then r.rg b else r.rg a)) ∧
    Gives e (.maxu e d a b) (fun r => r.wg d (if (r.rg a).toNat ≤ (r.rg b).toNat then r.rg b else r.rg a)) ∧
    Gives e (.clz e d a) (fun r => r.wg d (ofN (clz64 (r.rg a)))) ∧
    Gives e (.ctz e d a) (fun r => r.wg d (ofN (ctz64 (r.rg a)))) ∧
    Gives e (.popc e d a) (fun r => r.wg d (ofN (popc64 (r.rg a))))

/-- DIV and REM meet Euclid's identity in 64 bits, and take the table's values at −2^63 ÷ −1 (04_engines.md). -/
def Obligations.DivisionCornersOfTheScalarTable : Prop :=
  (∀ x y : Word, y ≠ 0 → aluDiv x y * y + aluRem x y = x ∧ aluDivu x y * y + aluRemu x y = x ∧ (aluRemu x y).toNat < y.toNat) ∧
  aluDiv 0x8000000000000000 0xFFFFFFFFFFFFFFFF = 0x8000000000000000 ∧
  aluRem 0x8000000000000000 0xFFFFFFFFFFFFFFFF = 0 ∧
  (∀ x : Word, aluDiv x 0 = 0xFFFFFFFFFFFFFFFF ∧ aluDivu x 0 = 0xFFFFFFFFFFFFFFFF ∧ aluRem x 0 = x ∧ aluRemu x 0 = x)

/-- Each scalar immediate instruction writes the result of the opcode table to g[D] and moves on (04_engines.md). -/
def Obligations.ImmediateResults : Prop :=
  ∀ (e : Nat) (d a : BitVec 5) (imm : BitVec 16),
    Gives e (.addi e d a imm) (fun r => r.wg d (r.rg a + imm.signExtend 64)) ∧
    Gives e (.andi e d a imm) (fun r => r.wg d (r.rg a &&& imm.setWidth 64)) ∧
    Gives e (.ori e d a imm) (fun r => r.wg d (r.rg a ||| imm.setWidth 64)) ∧
    Gives e (.xori e d a imm) (fun r => r.wg d (r.rg a ^^^ imm.setWidth 64)) ∧
    Gives e (.slti e d a imm) (fun r => r.wg d (if (r.rg a).toInt < (imm.signExtend 64).toInt then 1 else 0)) ∧
    Gives e (.sltiu e d a imm) (fun r => r.wg d (if (r.rg a).toNat < (imm.signExtend 64).toNat then 1 else 0)) ∧
    Gives e (.lsh e d a imm) (fun r => r.wg d ((r.rg a <<< 16) ||| imm.setWidth 64)) ∧
    Gives e (.li e d imm) (fun r => r.wg d (imm.signExtend 64)) ∧
    (imm.extractLsb' 6 2 = 0 → Gives e (.shi e d a imm) (fun r => r.wg d (r.rg a <<< (imm.extractLsb' 0 6).toNat))) ∧
    (imm.extractLsb' 6 2 = 1 → Gives e (.shi e d a imm) (fun r => r.wg d (r.rg a >>> (imm.extractLsb' 0 6).toNat))) ∧
    (imm.extractLsb' 6 2 = 2 → Gives e (.shi e d a imm) (fun r => r.wg d ((r.rg a).sshiftRight (imm.extractLsb' 0 6).toNat)))

/-- SETVL takes EW and VLEN from its immediate, sets VL to min(g[A], VLEN ÷ EW), and refuses reserved codes (R101). -/
def Obligations.SetVectorLength : Prop :=
  ∀ (e : Nat) (d a : BitVec 5) (imm : BitVec 16),
    ((imm.extractLsb' 0 3).toNat ≤ 4 → (imm.extractLsb' 3 2).toNat ≤ 2 →
      Gives e (.setvl e d a imm) (fun r =>
        let vlen := if (imm.extractLsb' 3 2).toNat = 1 then 256 else if (imm.extractLsb' 3 2).toNat = 2 then 512 else r.vlen
        let vl := min (r.rg a).toNat (vlen / (8 * 2 ^ (imm.extractLsb' 0 3).toNat))
        ({ r with ew := (imm.extractLsb' 0 3).toNat, vlen := vlen, vl := vl }).wg d (BitVec.ofNat 64 vl))) ∧
    (4 < (imm.extractLsb' 0 3).toNat ∨ (imm.extractLsb' 3 2).toNat = 3 →
      FailsWhen e (.setvl e d a imm) (fun _ => True) 0x1001) ∧
    (imm.extractLsb' 5 11 ≠ 0 → ∀ w : BitVec 32, decodeEngine e w ≠ some (.setvl e d a imm))

/-- MFC reads the ten control values of R99, MTC writes SB and OVF alone, and any other index fails the leaf (04_engines.md). -/
def Obligations.ControlValues : Prop :=
  ∀ (e : Nat) (d a : BitVec 5),
    Gives e (.mfc e d 0) (fun r => r.wg d (BitVec.ofNat 64 r.vl)) ∧
    Gives e (.mfc e d 1) (fun r => r.wg d (BitVec.ofNat 64 r.ew)) ∧
    Gives e (.mfc e d 2) (fun r => r.wg d (BitVec.ofNat 64 r.vlen)) ∧
    Gives e (.mfc e d 3) (fun r => r.wg d r.sb) ∧
    Gives e (.mfc e d 4) (fun r => r.wg d (BitVec.ofNat 64 r.ffi)) ∧
    Gives e (.mfc e d 5) (fun r => r.wg d (if r.ovf then 1 else 0)) ∧
    Gives e (.mfc e d 6) (fun r => r.wg d (BitVec.ofNat 64 r.leaf)) ∧
    Gives e (.mfc e d 7) (fun r => r.wg d (BitVec.ofNat 64 r.steps)) ∧
    Gives e (.mfc e d 8) (fun r => r.wg d (BitVec.ofNat 64 r.limit)) ∧
    Gives e (.mfc e d 9) (fun r => r.wg d (BitVec.ofNat 64 r.spawns)) ∧
    (∀ imm : BitVec 16, 9 < imm.toNat → FailsWhen e (.mfc e d imm) (fun _ => True) 0x1001) ∧
    Gives e (.mtc e a 3) (fun r => { r with sb := r.rg a }) ∧
    Gives e (.mtc e a 5) (fun r => { r with ovf := (r.rg a).getLsbD 0 }) ∧
    (∀ imm : BitVec 16, imm ≠ 3 → imm ≠ 5 → FailsWhen e (.mtc e a imm) (fun _ => True) 0x1001)

/-- Branches and jumps move the engine to their target, or to the next instruction when the condition fails (04_engines.md). -/
def Obligations.BranchesAndJumps : Prop :=
  ∀ (e : Nat) (a b d : BitVec 5) (off : BitVec 16) (joff : BitVec 26),
    Branches e (.beq e a b off) a b off (fun x y => x = y) ∧
    Branches e (.bne e a b off) a b off (fun x y => x ≠ y) ∧
    Branches e (.blt e a b off) a b off (fun x y => x.toInt < y.toInt) ∧
    Branches e (.bge e a b off) a b off (fun x y => y.toInt ≤ x.toInt) ∧
    Branches e (.bltu e a b off) a b off (fun x y => x.toNat < y.toNat) ∧
    Branches e (.bgeu e a b off) a b off (fun x y => y.toNat ≤ x.toNat) ∧
    (∀ (s : State) (r : EngRun) (l : Leaf), Issued s e (.j e joff) r l →
      (JumpInside s e (jumpTarget r joff.toInt) →
        exec (.j e joff) s = .next (s.setRun e { counted (.j e joff) r with pc := (jumpTarget r joff.toInt).toNat })) ∧
      ((jumpTarget r joff.toInt).toNat ≠ 0xFFFFFFFFFFFFFFFC → ¬ JumpInside s e (jumpTarget r joff.toInt) →
        exec (.j e joff) s = .next (s.failAt l 0x1006 (jumpTarget r joff.toInt).toNat))) ∧
    (∀ (s : State) (r : EngRun) (l : Leaf), Issued s e (.jal e joff) r l → JumpInside s e (jumpTarget r joff.toInt) →
      exec (.jal e joff) s = .next (s.setRun e
        { (counted (.jal e joff) r).wg 31 (BitVec.ofNat 64 (r.pc + 4)) with pc := (jumpTarget r joff.toInt).toNat })) ∧
    (∀ (s : State) (r : EngRun) (l : Leaf), Issued s e (.jalr e d a) r l → JumpInside s e (r.rg a) →
      exec (.jalr e d a) s = .next (s.setRun e
        { (counted (.jalr e d a) r).wg d (BitVec.ofNat 64 (r.pc + 4)) with pc := (r.rg a).toNat }))

/-- Each vector integer instruction gives every active element the result of its table row and keeps the others (04_engines.md). -/
def Obligations.VectorIntegerElements : Prop :=
  ∀ (e : Nat) (d a b : BitVec 5) (m : BitVec 1) (mk : BitVec 3) (s : BitVec 1),
    let A := fun (r : EngRun) (i : Nat) => elem (r.rv a) r.w i
    let B := fun (r : EngRun) (i : Nat) => if s = 1 then (r.rg b).toNat % 2 ^ r.w else elem (r.rv b) r.w i
    let gives := fun (c : Instr) (f : EngRun → Nat → Nat) => GivesElements e c d m mk (fun _ => True) id f
    gives (.vadd e d a b m mk s) (fun r i => A r i + B r i) ∧
    gives (.vsub e d a b m mk s) (fun r i => A r i + (2 ^ r.w - B r i)) ∧
    gives (.vmul e d a b m mk s) (fun r i => A r i * B r i) ∧
    gives (.vand e d a b m mk s) (fun r i => A r i &&& B r i) ∧
    gives (.vor e d a b m mk s) (fun r i => A r i ||| B r i) ∧
    gives (.vxor e d a b m mk s) (fun r i => A r i ^^^ B r i) ∧
    gives (.vsll e d a b m mk s) (fun r i => A r i * 2 ^ (B r i % r.w)) ∧
    gives (.vsrl e d a b m mk s) (fun r i => A r i / 2 ^ (B r i % r.w)) ∧
    gives (.vsra e d a b m mk s) (fun r i => unsigned (signed (A r i) r.w / 2 ^ (B r i % r.w)) r.w) ∧
    gives (.vmin e d a b m mk s) (fun r i => if signed (A r i) r.w ≤ signed (B r i) r.w then A r i else B r i) ∧
    gives (.vmax e d a b m mk s) (fun r i => if signed (A r i) r.w ≤ signed (B r i) r.w then B r i else A r i) ∧
    gives (.vminu e d a b m mk s) (fun r i => min (A r i) (B r i)) ∧
    gives (.vmaxu e d a b m mk s) (fun r i => max (A r i) (B r i)) ∧
    gives (.vmv e d a m mk) (fun r i => A r i) ∧
    GivesElements e (.vbcast e d b m mk) d m mk (fun _ => True) id (fun r _ => (r.rg b).toNat)

/-- The checked vector instructions give the results of VADD, VSUB and VMUL and set OVF when an active result does not fit (04_engines.md). -/
def Obligations.CheckedVectorArithmetic : Prop :=
  ∀ (e : Nat) (d a b : BitVec 5) (m : BitVec 1) (mk : BitVec 3) (s : BitVec 1),
    let A := fun (r : EngRun) (i : Nat) => elem (r.rv a) r.w i
    let B := fun (r : EngRun) (i : Nat) => if s = 1 then (r.rg b).toNat % 2 ^ r.w else elem (r.rv b) r.w i
    let outS := fun (r : EngRun) (x : Int) => decide (x < -2 ^ (r.w - 1)) || decide (2 ^ (r.w - 1) ≤ x)
    let outU := fun (r : EngRun) (x : Int) => decide (x < 0) || decide (2 ^ r.w ≤ x)
    let gives := fun (c : Instr) (exceeds : EngRun → Nat → Bool) (f : EngRun → Nat → Nat) =>
      GivesElements e c d m mk (fun _ => True) (fun r => { r with ovf := r.ovf || (r.actives m mk).any (exceeds r) }) f
    gives (.vaddcS e d a b m mk s) (fun r i => outS r (signed (A r i) r.w + signed (B r i) r.w)) (fun r i => A r i + B r i) ∧
    gives (.vaddcU e d a b m mk s) (fun r i => outU r ((A r i : Int) + B r i)) (fun r i => A r i + B r i) ∧
    gives (.vsubcS e d a b m mk s) (fun r i => outS r (signed (A r i) r.w - signed (B r i) r.w))
      (fun r i => A r i + (2 ^ r.w - B r i)) ∧
    gives (.vsubcU e d a b m mk s) (fun r i => outU r ((A r i : Int) - B r i)) (fun r i => A r i + (2 ^ r.w - B r i)) ∧
    gives (.vmulcS e d a b m mk s) (fun r i => outS r (signed (A r i) r.w * signed (B r i) r.w)) (fun r i => A r i * B r i)

/-- Each vector float instruction gives every active element its IEEE 754 result at EW 32 or 64, and fails elsewhere (04_engines.md). -/
def Obligations.VectorFloatElements : Prop :=
  ∀ (e : Nat) (d a b : BitVec 5) (m : BitVec 1) (mk : BitVec 3) (s : BitVec 1),
    let A := fun (r : EngRun) (i : Nat) => elem (r.rv a) r.w i
    let B := fun (r : EngRun) (i : Nat) => if s = 1 then (r.rg b).toNat % 2 ^ r.w else elem (r.rv b) r.w i
    let gives := fun (c : Instr) (f : EngRun → Nat → Nat) => GivesElements e c d m mk (fun r => r.w = 32 ∨ r.w = 64) id f
    gives (.vfadd e d a b m mk s) (fun r i => (fmtOf r.w).add (A r i) (B r i)) ∧
    gives (.vfsub e d a b m mk s) (fun r i => (fmtOf r.w).sub (A r i) (B r i)) ∧
    gives (.vfmul e d a b m mk s) (fun r i => (fmtOf r.w).mul (A r i) (B r i)) ∧
    gives (.vfdiv e d a b m mk s) (fun r i => (fmtOf r.w).div (A r i) (B r i)) ∧
    gives (.vfmin e d a b m mk s) (fun r i => (fmtOf r.w).fmin (A r i) (B r i)) ∧
    gives (.vfmax e d a b m mk s) (fun r i => (fmtOf r.w).fmax (A r i) (B r i)) ∧
    gives (.vfabs e d a m mk) (fun r i => A r i % 2 ^ (r.w - 1)) ∧
    gives (.vfneg e d a m mk) (fun r i => A r i ^^^ 2 ^ (r.w - 1)) ∧
    FailsWhen e (.vfadd e d a b m mk s) (fun r => r.w ≠ 32 ∧ r.w ≠ 64) 0x1001

/-- The conversion, widening, narrowing and unpacking instructions give every active element the result of their rows (04_engines.md). -/
def Obligations.ConversionElements : Prop :=
  ∀ (e : Nat) (d a b : BitVec 5) (m : BitVec 1) (mk : BitVec 3) (s : BitVec 1),
    let half := fun (r : EngRun) (i : Nat) => elem (r.rv a) (r.w / 2) i
    let pair := fun (r : EngRun) (i : Nat) =>
      if i < 512 / (2 * r.w) then elem (r.rv a) (2 * r.w) i else elem (r.rv (a + 1)) (2 * r.w) (i - 512 / (2 * r.w))
    let badUnpack := fun (r : EngRun) =>
      (r.rg b).toNat % 128 = 0 ∨ 64 < (r.rg b).toNat % 128 ∨ r.w < (r.rg b).toNat % 128 ∨ 512 < r.vl * ((r.rg b).toNat % 128)
    let wide := fun (r : EngRun) => r.w = 16 ∨ r.w = 32 ∨ r.w = 64 ∨ r.w = 128
    GivesElements e (.vwidenS e d a m mk) d m mk wide id (fun r i => unsigned (signed (half r i) (r.w / 2)) r.w) ∧
    GivesElements e (.vwidenU e d a m mk) d m mk wide id half ∧
    GivesElements e (.vnarrow e d a m mk) d m mk (fun r => a ≠ 31 ∧ r.w ≠ 128) id pair ∧
    GivesElements e (.vcvtIf e d a m mk) d m mk (fun r => r.w = 32 ∨ r.w = 64) id
      (fun r i => (fmtOf r.w).ofInt (signed (elem (r.rv a) r.w i) r.w)) ∧
    GivesElements e (.vcvtFi e d a m mk) d m mk (fun r => r.w = 32 ∨ r.w = 64) id
      (fun r i => unsigned ((fmtOf r.w).toInt (elem (r.rv a) r.w i)) r.w) ∧
    GivesElements e (.vcvtSd e d a m mk) d m mk (fun r => r.w = 64) id (fun r i => f32.convert f64 (elem (r.rv a) 32 i)) ∧
    GivesElements e (.vcvtDs e d a m mk) d m mk (fun r => a ≠ 31 ∧ r.w = 32) id (fun r i => f64.convert f32 (pair r i)) ∧
    GivesElements e (.vunpk e d a b m mk s) d m mk (fun r => ¬ badUnpack r) id
      (fun r i => (r.rv a).toNat / 2 ^ (i * ((r.rg b).toNat % 128)) % 2 ^ ((r.rg b).toNat % 128)) ∧
    FailsWhen e (.vnarrow e d a m mk) (fun _ => a = 31) 0x1001 ∧
    FailsWhen e (.vcvtDs e d a m mk) (fun _ => a = 31) 0x1001 ∧
    FailsWhen e (.vunpk e d a b m mk s) badUnpack 0x1002

/-- VCMP sets exactly the bits of m[D] whose element is active and meets the condition (04_engines.md). -/
def Obligations.CompareToMask : Prop :=
  ∀ (e : Nat) (d a b : BitVec 5) (m : BitVec 1) (mk : BitVec 3) (s : BitVec 1) (kind : BitVec 2) (cond : BitVec 3),
    ∀ (st : State) (r : EngRun) (l : Leaf), Issued st e (.vcmp e d a b m mk s kind cond) r l →
      (kind = 2 → r.w = 32 ∨ r.w = 64) → (kind = 3 → r.w = 128) → r.ew ≤ 4 →
      let x := fun (i : Nat) => elem (r.rv a) r.w i
      let y := fun (i : Nat) => if s = 1 then (r.rg b).toNat % 2 ^ r.w else elem (r.rv b) r.w i
      let holds := fun (i : Nat) => if kind = 0 then intCond cond.toNat (signed (x i) r.w) (signed (y i) r.w)
        else if kind = 1 then intCond cond.toNat (x i) (y i)
        else if kind = 2 then (fmtOf r.w).compare cond.toNat (x i) (y i)
        else intCond cond.toNat (ofBe (leBytes 16 (x i))) (ofBe (leBytes 16 (y i)))
      ∃ v : Word, exec (.vcmp e d a b m mk s kind cond) st
          = .next (st.stepTo e ((counted (.vcmp e d a b m mk s kind cond) r).wm (d.extractLsb' 0 3) v)) ∧
        ∀ i, i < 64 → v.getLsbD i = (r.active m mk i && holds i)

/-- Each mask function writes the mask or scalar that its table row names (04_engines.md). -/
def Obligations.MaskFunctionResults : Prop :=
  ∀ (e : Nat) (d a b : BitVec 3) (g : BitVec 5),
    Gives e (.mand e d a b) (fun r => r.wm d (r.rm a &&& r.rm b)) ∧
    Gives e (.mor e d a b) (fun r => r.wm d (r.rm a ||| r.rm b)) ∧
    Gives e (.mxor e d a b) (fun r => r.wm d (r.rm a ^^^ r.rm b)) ∧
    Gives e (.mandn e d a b) (fun r => r.wm d (r.rm a &&& ~~~(r.rm b))) ∧
    Gives e (.mnot e d a) (fun r => r.wm d (~~~(r.rm a) &&& maskLow r.vl)) ∧
    Gives e (.mset e d) (fun r => r.wm d (maskLow r.vl)) ∧
    Gives e (.mpop e g a) (fun r => r.wg g (ofN (popc64 (r.rm a &&& maskLow r.vl)))) ∧
    Gives e (.mffs e g a) (fun r => r.wg g (ofN (min (ctz64 (r.rm a)) r.vl))) ∧
    Gives e (.mfromg e d g) (fun r => r.wm d (r.rg g)) ∧
    Gives e (.mtog e g a) (fun r => r.wg g (r.rm a)) ∧
    (∀ n i : Nat, i < 64 → (maskLow n).getLsbD i = decide (i < n))

/-- VCMPRS, VEXPND, VSCAN, VSORT, VSORTP, VEXT and VINS place elements as their table rows say (04_engines.md). -/
def Obligations.RearrangementElements : Prop :=
  ∀ (e : Nat) (d a b : BitVec 5) (m : BitVec 1) (mk : BitVec 3),
    let A := fun (r : EngRun) (i : Nat) => elem (r.rv a) r.w i
    Gives e (.vcmprs e d a m mk) (fun r => r.wv d (setElems r.w (r.rv d)
      ((r.actives m mk).zipIdx.map (fun p => (p.2, A r p.1))))) ∧
    Gives e (.vexpnd e d a m mk) (fun r => r.wv d (setElems r.w (r.rv d)
      ((r.actives m mk).zipIdx.map (fun p => (p.1, A r p.2))))) ∧
    GivesElements e (.vscan e d a m mk) d m mk (fun _ => True) id
      (fun r i => (((r.actives m mk).filter (fun j => decide (j ≤ i))).map (A r)).sum) ∧
    Gives e (.vsort e d a m mk) (fun r => r.wv d (setElems r.w (r.rv d)
      ((r.order a).zipIdx.map (fun p => (p.2, A r p.1))))) ∧
    Gives e (.vsortp e d a m mk) (fun r =>
      (r.wv a (setElems r.w (r.rv a) ((r.order a).zipIdx.map (fun p => (p.2, A r p.1))))).wv d
        (setElems r.w (r.rv d) ((r.order a).zipIdx.map (fun p => (p.2, elem (r.rv d) r.w p.1))))) ∧
    GivesWhen e (.vext e d a b) (fun r => (r.rg b).toNat < r.vlen / r.w)
      (fun r => r.wg d (BitVec.ofNat 64 (A r (r.rg b).toNat))) ∧
    GivesWhen e (.vins e d a b) (fun r => (r.rg b).toNat < r.vlen / r.w)
      (fun r => r.wv d (setElems r.w (r.rv d) [((r.rg b).toNat, (r.rg a).toNat)])) ∧
    FailsWhen e (.vext e d a b) (fun r => r.vlen / r.w ≤ (r.rg b).toNat) 0x1002 ∧
    FailsWhen e (.vins e d a b) (fun r => r.vlen / r.w ≤ (r.rg b).toNat) 0x1002 ∧
    (∀ r : EngRun, (r.order a).Perm (List.range r.vl) ∧
      (r.order a).Pairwise (fun i j => A r i < A r j ∨ (A r i = A r j ∧ i < j))) ∧
    (∀ (w : Nat) (old : BitVec 512) (ps : List (Nat × Nat)) (i : Nat), 0 < w → i < 512 / w →
      elem (setElems w old ps) w i = ((ps.find? (fun q => q.1 == i)).map (fun q => q.2 % 2 ^ w)).getD (elem old w i))

/-- HASHC and HASHM give every active element the hash of R112's formulas (04_engines.md). -/
def Obligations.HashElements : Prop :=
  ∀ (e : Nat) (d a b : BitVec 5) (m : BitVec 1) (mk : BitVec 3) (s : BitVec 1),
    let x := fun (r : EngRun) (i : Nat) => elem (r.rv a) r.w i
    let seed := fun (r : EngRun) (i : Nat) => if s = 1 then (r.rg b).toNat else elem (r.rv b) r.w i
    GivesElements e (.hashc e d a b m mk s) d m mk (fun r => r.w = 32 ∨ r.w = 64 ∨ r.w = 128) id
      (fun r i => crcRaw (seed r i % 2 ^ 32) (leBytes (r.w / 8) (x r i)) ^^^ 0xFFFFFFFF) ∧
    GivesElements e (.hashm e d a b m mk s) d m mk (fun r => r.w = 64) id (fun r i => x r i * seed r i) ∧
    GivesElements e (.hashm e d a b m mk s) d m mk (fun r => r.w = 32) id (fun r i => x r i * seed r i % 2 ^ 64 / 2 ^ 32) ∧
    FailsWhen e (.hashc e d a b m mk s) (fun r => r.w ≠ 32 ∧ r.w ≠ 64 ∧ r.w ≠ 128) 0x1001 ∧
    FailsWhen e (.hashm e d a b m mk s) (fun r => r.w ≠ 32 ∧ r.w ≠ 64) 0x1001

/-- The accumulator instructions clear, add, merge, round and read a[D] as their rows say (04_engines.md). -/
def Obligations.AccumulatorResults : Prop :=
  ∀ (e : Nat) (g v u : BitVec 5) (d a : BitVec 2) (m : BitVec 1) (mk : BitVec 3) (s : BitVec 1),
    let add := fun (r : EngRun) (f : ExactAcc → Nat → ExactAcc) =>
      let x := (r.actives m mk).foldl f (r.ra d)
      r.wa d { x with count := satCount x.count (r.actives m mk).length }
    Gives e (.xclr e d) (fun r => r.wa d {}) ∧
    GivesWhen e (.xaddf e d v m mk) (fun r => r.w = 32 ∨ r.w = 64)
      (fun r => add r (fun x i => ExactAcc.addFloat (fmtOf r.w) x (elem (r.rv v) r.w i))) ∧
    Gives e (.xaddi e d v m mk) (fun r => add r (fun x i => x.addInt (signed (elem (r.rv v) r.w i) r.w))) ∧
    GivesWhen e (.xmacf e d v u m mk s) (fun r => r.w = 32)
      (fun r => add r (fun x i => x.addProd (elem (r.rv v) r.w i)
        (if s = 1 then (r.rg u).toNat % 2 ^ r.w else elem (r.rv u) r.w i))) ∧
    Gives e (.xmrg e d a) (fun r => r.wa d ((r.ra d).merge (r.ra a))) ∧
    Gives e (.xrnd e g a) (fun r => r.wg g (BitVec.ofNat 64 (ExactAcc.round f64 (r.ra a)))) ∧
    Gives e (.xrnds e g a) (fun r => r.wg g (BitVec.ofNat 64 (ExactAcc.round f32 (r.ra a)))) ∧
    GivesWhen e (.xrdw e g a u) (fun r => (r.rg u).toNat ≤ 65) (fun r => r.wg g ((r.ra a).word (r.rg u).toNat)) ∧
    FailsWhen e (.xrdw e g a u) (fun r => 65 < (r.rg u).toNat) 0x1002

/-- LDS, MLD, XLD and VLD put what their load answers into their register (04_engines.md). -/
def Obligations.EngineLoadResults : Prop :=
  (∀ (s s' : State) (e : Nat) (t a : BitVec 5) (sz : BitVec 2) (sx : BitVec 1) (off : BitVec 12) (r : EngRun) (l : Leaf)
      (b : Bytes), Issued s e (.lds e t a sz sx off) r l →
      s.engLoad e (counted (.lds e t a sz sx off) r) l (r.rg a + BitVec.ofInt 64 off.toInt).toNat (2 ^ sz.toNat) = .ok b s' →
      exec (.lds e t a sz sx off) s = .next (s'.stepTo e ((counted (.lds e t a sz sx off) r).wg t
        (if sx = 1 then BitVec.ofInt 64 (signed (ofLe b) (8 * 2 ^ sz.toNat)) else BitVec.ofNat 64 (ofLe b))))) ∧
  (∀ (s s' : State) (e : Nat) (d a : BitVec 5) (r : EngRun) (l : Leaf) (b : Bytes), Issued s e (.mld e d a) r l →
      s.engLoad e (counted (.mld e d a) r) l (r.rg a).toNat 8 = .ok b s' →
      exec (.mld e d a) s = .next (s'.stepTo e ((counted (.mld e d a) r).wm (d.extractLsb' 0 3) (BitVec.ofNat 64 (ofLe b))))) ∧
  (∀ (s s' : State) (e : Nat) (d : BitVec 2) (a : BitVec 5) (r : EngRun) (l : Leaf) (b : Bytes),
      Issued s e (.xld e d a) r l → (r.rg a).toNat % 8 = 0 →
      s.engLoad e (counted (.xld e d a) r) l (r.rg a).toNat 528 = .ok b s' →
      exec (.xld e d a) s = .next (s'.stepTo e ((counted (.xld e d a) r).wa d (ExactAcc.ofImage b)))) ∧
  (∀ (s s1 s2 : State) (e : Nat) (t a : BitVec 5) (m : BitVec 1) (mk : BitVec 3) (ff : BitVec 1) (off : BitVec 11)
      (r : EngRun) (l : Leaf) (i0 : Nat) (rest : List Nat) (vs : List Nat),
      Issued s e (.vld e t a m mk ff off) r l → r.actives m mk = i0 :: rest →
      (∀ i, i ∈ r.actives m mk → s.elemFault e r l.inst (r.elemAddr a off i) (r.w / 8) .load = none) →
      s.loadReady e l (r.elemAddr a off i0) (((r.actives m mk).map (r.elemAddr a off)).getLast!)
        ((r.actives m mk).map (r.elemAddr a off)) (r.w / 8) = .ok () s1 →
      s1.engLoads e (counted (.vld e t a m mk ff off) r) l (r.w / 8) ((r.actives m mk).map (r.elemAddr a off)) [] = .ok vs s2 →
      exec (.vld e t a m mk ff off) s = .next (s2.stepTo e
        { counted (.vld e t a m mk ff off) r with
          ffi := if ff = 1 then r.vl else r.ffi
          v := (r.wv t (setElems r.w (r.rv t) ((r.actives m mk).zip vs))).v })) ∧
  (∀ (s s1 s2 : State) (e : Nat) (t a : BitVec 5) (m : BitVec 1) (mk : BitVec 3) (off : BitVec 11)
      (r : EngRun) (l : Leaf) (good rest : List Nat) (i0 k : Nat) (vs : List Nat),
      Issued s e (.vld e t a m mk 1 off) r l → r.actives m mk = i0 :: good ++ k :: rest →
      (∀ i, i ∈ i0 :: good → s.elemFault e r l.inst (r.elemAddr a off i) (r.w / 8) .load = none) →
      s.elemFault e r l.inst (r.elemAddr a off k) (r.w / 8) .load = some 0x1006 →
      s.loadReady e l (r.elemAddr a off i0) (((i0 :: good).map (r.elemAddr a off)).getLast!)
        ((i0 :: good).map (r.elemAddr a off)) (r.w / 8) = .ok () s1 →
      s1.engLoads e (counted (.vld e t a m mk 1 off) r) l (r.w / 8) ((i0 :: good).map (r.elemAddr a off)) [] = .ok vs s2 →
      exec (.vld e t a m mk 1 off) s = .next (s2.stepTo e
        { counted (.vld e t a m mk 1 off) r with
          vl := k, ffi := k, v := (r.wv t (setElems r.w (r.rv t) ((i0 :: good).zip vs))).v }))

/-- A permitted engine read of quire memory or of its constants answers the stored bytes and changes nothing (04_engines.md, 05_quire_memory.md). -/
def Obligations.EngineReadsOfItsMemories : Prop :=
  ∀ (s : State) (e : Nat) (r : EngRun) (l : Leaf) (a n : Nat),
    (s.accFault e l.inst a n .load = none → engMem a = .quire → s.armed 2 (e / 16) = false →
      s.arrived.filter (fun w => !w.past) = [] →
      s.poisoned (.quire (e / 16)) (a - 0xFFFF800100000000) n = false →
      s.engRead e r l a n = .ok (s.rd (.quire (e / 16)) (a - 0xFFFF800100000000) n) s) ∧
    (s.accFault e l.inst a n .load = none → engMem a = .data → a - 0xFFFF800000000000 + n ≤ 0x20000 →
      s.poisoned (.dmem e) (a - 0xFFFF800000000000) n = false →
      s.engRead e r l a n = .ok (s.rd (.dmem e) (a - 0xFFFF800000000000) n) s) ∧
    (∀ st : Nat, s.accFault e l.inst a n .load = some st → st ≠ 0x5002 → s.engRead e r l a n = .fail st a s)

/-- Writes to quire memory and the Thumb index go to the leaf's stage: memory stays as it is until the leaf commits (04_engines.md, 02_folios.md). -/
def Obligations.StagedWritesWaitForCommit : Prop :=
  let quire := fun (s : State) (e : Nat) (l : Leaf) (ad n : Nat) (k : Kind) =>
    engMem ad = .quire ∧ s.accFault e l.inst ad n k = none
  let staged := fun (s : State) (e : Nat) (c : Instr) (r : EngRun) (it : StageItem) =>
    exec c s = .next (s.stepTo e { counted c r with staged := r.staged + it.size, stage := r.stage ++ [it] })
  ∀ (s : State) (e : Nat) (t a b : BitVec 5) (x : BitVec 2) (sz : BitVec 2) (off : BitVec 12) (r : EngRun) (l : Leaf),
    (∀ ad, ad = (r.rg a + BitVec.ofInt 64 off.toInt).toNat → Issued s e (.sts e t a sz off) r l →
      quire s e l ad (2 ^ sz.toNat) .store → r.staged + (2 ^ sz.toNat + 8) ≤ 131072 →
      staged s e (.sts e t a sz off) r (.quire (ad - 0xFFFF800100000000) (leBytes (2 ^ sz.toNat) (r.rg t).toNat))) ∧
    (Issued s e (.mst e a b) r l → quire s e l (r.rg a).toNat 8 .store → r.staged + 16 ≤ 131072 →
      staged s e (.mst e a b) r (.quire ((r.rg a).toNat - 0xFFFF800100000000) (leBytes 8 (r.rm (b.extractLsb' 0 3)).toNat))) ∧
    (Issued s e (.xst e x b) r l → quire s e l (r.rg b).toNat 528 .store → (r.rg b).toNat % 8 = 0 → r.staged + 536 ≤ 131072 →
      (r.ra x).image.length = 528 →
      staged s e (.xst e x b) r (.quire ((r.rg b).toNat - 0xFFFF800100000000) (r.ra x).image)) ∧
    (Issued s e (.aadd e a b) r l → quire s e l (r.rg a).toNat 8 .atomic → (r.rg a).toNat % 8 = 0 → r.staged + 16 ≤ 131072 →
      staged s e (.aadd e a b) r (.aadd ((r.rg a).toNat - 0xFFFF800100000000) (r.rg b))) ∧
    (Issued s e (.aswp e a b) r l → quire s e l (r.rg a).toNat 8 .store → (r.rg a).toNat % 8 = 0 → r.staged + 16 ≤ 131072 →
      staged s e (.aswp e a b) r (.aswp ((r.rg a).toNat - 0xFFFF800100000000) (r.rg b))) ∧
    (Issued s e (.xpost e x b) r l → quire s e l (r.rg b).toNat 528 .atomic → (r.rg b).toNat % 8 = 0 → r.staged + 536 ≤ 131072 →
      staged s e (.xpost e x b) r (.accQuire ((r.rg b).toNat - 0xFFFF800100000000) (r.ra x))) ∧
    (∀ g, s.sigOfLeaf l = some g → g.sink = 5 → Issued s e (.thw e a b) r l → (r.rg b).toNat < 65536 →
      (∃ q, q < 16 ∧ ((Tab.find s.banks (q * 64 + (r.rg b).toNat / 1024)).map (·.owner)) = some l.inst) →
      bitAt g.ke ((r.rg b).toNat / 1024) = true → r.staged + 48 ≤ 131072 →
      exec (.thw e a b) s = .next (s.stepTo e { counted (.thw e a b) r with
        staged := r.staged + 48, rows := r.rows + 1
        stage := r.stage ++ [.thumb (r.rg b).toNat
          { key := (r.rv a).extractLsb' 0 128, care := (r.rv a).extractLsb' 128 128, payload := (r.rv a).extractLsb' 256 32,
            priority := (r.rv a).extractLsb' 288 16, valid := true }] }))

/-- A store to the working space changes exactly its own bytes of the engine's data memory, at once (04_engines.md). -/
def Obligations.WorkingSpaceStoreFrame : Prop :=
  ∀ (s : State) (e : Nat) (t a : BitVec 5) (sz : BitVec 2) (off : BitVec 12) (r : EngRun) (l : Leaf) (o : Nat),
    Issued s e (.sts e t a sz off) r l → s.poison = [] →
    (r.rg a + BitVec.ofInt 64 off.toInt).toNat = 0xFFFF800000000000 + o → 0x20000 ≤ o → o + 2 ^ sz.toNat ≤ 0x60000 →
    ∃ m : Mem, exec (.sts e t a sz off) s = .next (({ s with mem := m }).stepTo e (counted (.sts e t a sz off) r)) ∧
      (∀ k, k < (Space.dmem e).base + o ∨ (Space.dmem e).base + o + 2 ^ sz.toNat ≤ k → Mem.read m k = Mem.read s.mem k) ∧
      (({ s with mem := m }).dataBytes e r o (2 ^ sz.toNat)).1 = leBytes (2 ^ sz.toNat) (r.rg t).toNat

/-- VST stores every active element, or none where one of them faults, and refuses FF (04_engines.md). -/
def Obligations.VectorStoreResults : Prop :=
  ∀ (s s' : State) (e : Nat) (t a : BitVec 5) (m : BitVec 1) (mk : BitVec 3) (off : BitVec 11) (r r' : EngRun) (l : Leaf),
    let c := Instr.vst e t a m mk 0 off
    let fault := fun (i : Nat) => s.elemFault e r l.inst (r.elemAddr a off i) (r.w / 8) .store
    (Issued s e c r l → (∀ i, i ∈ r.actives m mk → fault i = none) →
      s.engStores e (counted c r) l (mergeStores ((r.actives m mk).map (fun i =>
        (r.elemAddr a off i, leBytes (r.w / 8) (elem (r.rv t) r.w i))))) = .ok r' s' →
      exec c s = .next (s'.stepTo e r')) ∧
    (∀ (before after : List Nat) (k st : Nat), Issued s e c r l → r.actives m mk = before ++ k :: after →
      (∀ i, i ∈ before → fault i = none) → fault k = some st → st ≠ 0x5002 →
      exec c s = .next (s.failAt l st (r.elemAddr a off k))) ∧
    FailsWhen e (.vst e t a m mk 1 off) (fun _ => True) 0x1001

/-- FETCH hands 16 row positions to the fetch unit, which delivers the elements when their pages are in place (04_engines.md, 05_quire_memory.md). -/
def Obligations.FetchUnitRequestAndDelivery : Prop :=
  (∀ (s : State) (e : Nat) (d a b : BitVec 5) (m : BitVec 1) (mk : BitVec 3) (r : EngRun) (l : Leaf),
    Issued s e (.fetch e d a b m mk) r l → d.toNat + fetchRegs r.ew ≤ 32 →
    ∀ q : FetchReq, q = { d := d.toNat
                          pos := (List.range 16).map (fun i =>
                            (r.rg b + BitVec.ofInt 64 (elem (r.rv a) 32 i * (r.w / 8) : Nat)).toNat)
                          on := (List.range 16).map (fun i => m == 0 || (r.rm mk).getLsbD i)
                          mask := if m = 1 then some mk.toNat else none } →
      exec (.fetch e d a b m mk) s = .next (s.setRun e { r with fetch := some q })) ∧
  (∀ (e : Nat) (d a b : BitVec 5) (m : BitVec 1) (mk : BitVec 3),
    FailsWhen e (.fetch e d a b m mk) (fun r => 32 < d.toNat + fetchRegs r.ew) 0x1001) ∧
  (∀ (s : State) (e : Nat) (r : EngRun) (l : Leaf) (q : FetchReq), s.running = true → s.engRun e = some r →
    r.fetch = some q → s.leaf? r.leaf = some l → l.state = .running → s.quireLost e = true →
    exec (.fetchDeliver e) s = .next (s.failAt l 0x4002 0)) ∧
  (∀ (s s1 s2 : State) (e : Nat) (r : EngRun) (l : Leaf) (q : FetchReq) (on pins : List Nat) (got : List (Nat × Bytes)),
    s.running = true → s.engRun e = some r → r.fetch = some q → s.leaf? r.leaf = some l → l.state = .running →
    s.quireLost e = false →
    on = (List.range 16).filter (fun i => q.on.getD i false) →
    (∀ i, i ∈ on → s.fetchFault e r l.inst (q.pos.getD i 0) = none) →
    s.fetchReady e l.inst (r.w / 8) (on.map (fun i => q.pos.getD i 0)) q.pins false = .ok (pins, false) s1 →
    s1.fetchRead l.inst (fetchSpans (r.w / 8) (on.map (fun i => q.pos.getD i 0))) [] = .ok got s2 →
    exec (.fetchDeliver e) s = .next (((pins.foldl (fun s f => s.unpin f) s2).setRun e
      (r.fetched q 16 (on.zip (on.map (fun i => fetchElem (r.w / 8) (q.pos.getD i 0) got))))).count
        (0x802028 + 0x8000 * (e / 16)) 1))

/-- THS answers the best match of the key in the banks it may search, and opens a cursor for two or more (04_engines.md, 05_quire_memory.md). -/
def Obligations.ThumbSearchResults : Prop :=
  let put := fun (r : EngRun) (d : BitVec 5) (x : Nat) => r.wv d (putRecord (r.rv d) x)
  (∀ (s : State) (e : Nat) (d a b : BitVec 5) (r : EngRun) (l : Leaf), Issued s e (.ths e d a b) r l →
    let c := Instr.ths e d a b
    let mask := (r.rg b).toNat
    let found := s.thumbMatches (e / 16) ((r.rv a).setWidth 128) mask
    let s1 := (s.thumbTook (e / 16) (.search (e % 16))).count (0x900000 + 0x1000 * (e / 16) + 8) 1
    let r1 := { counted c r with waking := 0, banks := r.banks + (maskBanks mask).length }
    (mask = 0 → exec c s = .next (s.stepTo e (put (counted c r) d (thumbRecord 0xFFFFFFFF false false 0 0 0 0)))) ∧
    (mask ≠ 0 → s.thumbDenied l.inst (e / 16) mask = true → exec c s = .next (s.failAt l 0x5002 0)) ∧
    (mask ≠ 0 → s.thumbDenied l.inst (e / 16) mask = false → s.quireLost e = true →
      exec c s = .next (s.failAt l 0x4002 0)) ∧
    (mask ≠ 0 → s.thumbDenied l.inst (e / 16) mask = false → s.quireLost e = false → s.thumbWake (e / 16) mask = none →
      s.thumbTurn (e / 16) (.search (e % 16)) = true →
      (found = [] → exec c s = .next (s1.stepTo e (put r1 d (thumbRecord 0xFFFFFFFF false false 0 0 0 0)))) ∧
      (∀ t, found = [t] → exec c s = .next (s1.stepTo e (put r1 d
        (thumbRecord 0xFFFFFFFF false true 1 t.1 t.2.priority.toNat t.2.payload.toNat)))) ∧
      (∀ t u rest, found = t :: u :: rest →
        exec c s = .next ((s1.openCursor e ((r.rv a).setWidth 128) mask t).2.stepTo e (put r1 d
          (thumbRecord (s1.openCursor e ((r.rv a).setWidth 128) mask t).1 true true (min 255 (rest.length + 2)) t.1
            t.2.priority.toNat t.2.payload.toNat)))))) ∧
  (∀ (s : State) (e : Nat) (d a : BitVec 5) (r : EngRun) (l : Leaf), Issued s e (.thn e d a) r l →
    let c := Instr.thn e d a
    let x := (r.rv a).toNat
    (x / 2 ^ 96 % 2 ^ 32 = 0xFFFFFFFF → exec c s = .next (s.stepTo e (put (counted c r) d
      (thumbRecord 0xFFFFFFFF (bitAt x 73) false (x / 2 ^ 64 % 256) 0 0 0)))) ∧
    (x / 2 ^ 96 % 2 ^ 32 ≠ 0xFFFFFFFF → bitAt (x / 2 ^ 96 % 2 ^ 32) 25 = true ∨ x / 2 ^ 96 % 2 ^ 32 / 2 ^ 28 ≠ e % 16 →
      exec c s = .next (s.failAt l 0x1002 0)) ∧
    (∀ k : Cursor, x / 2 ^ 96 % 2 ^ 32 ≠ 0xFFFFFFFF → bitAt (x / 2 ^ 96 % 2 ^ 32) 25 = false →
      x / 2 ^ 96 % 2 ^ 32 / 2 ^ 28 = e % 16 → k = (s.engOf e).cursors.getD (bits (x / 2 ^ 96 % 2 ^ 32) 27 26) {} →
      k.gen = bits (x / 2 ^ 96 % 2 ^ 32) 24 16 → k.used = true → exec c s = .next (s.stepTo e (put (counted c r) d
        (thumbRecord 0xFFFFFFFF (bitAt x 73) false (x / 2 ^ 64 % 256) 0 0 0)))))

/-- BNEXT, EMIT and EMITEND hand over input batches and build row groups (04_engines.md). -/
def Obligations.LeafInputAndRowGroups : Prop :=
  let sinkOf := fun (s : State) (l : Leaf) => ((s.sigOfLeaf l).map (·.sink)).getD 0
  let rowSink := fun (s : State) (l : Leaf) => sinkOf s l = 1 ∨ sinkOf s l = 2 ∨ sinkOf s l = 4
  ∀ (s s' : State) (e : Nat) (d a b : BitVec 5) (m : BitVec 1) (mk : BitVec 3) (r r' : EngRun) (l : Leaf),
    (Issued s e (.bnext e d) r l → r.handed = false →
      ((l.src = .none ∨ r.ended = true) → exec (.bnext e d) s = .next (s.stepTo e ((counted (.bnext e d) r).wg d 0))) ∧
      (∀ x rest, l.src ≠ .none → r.ended = false → r.batches = x :: rest →
        exec (.bnext e d) s = .next (s.stepTo e (({ counted (.bnext e d) r with handed := true }).wg d
          (BitVec.ofNat 64 (0xFFFF800100000000 + (0x600000 + 0x20000 * (e % 16)) + x.off)))))) ∧
    (Issued s e (.emit e a b m mk) r l → rowSink s l → (r.rg b).toNat ≤ 15 → r.vl ≠ 0 →
      r.staged + (r.actives m mk).length * (r.w / 8) ≤ 131072 →
      exec (.emit e a b m mk) s = .next (s.stepTo e { counted (.emit e a b m mk) r with
        staged := r.staged + (r.actives m mk).length * (r.w / 8)
        cols := Tab.set r.cols (r.rg b).toNat
          (if (Tab.get r.cols (r.rg b).toNat (r.ew, [])).1 = r.ew then r.ew else mixedEw,
            (Tab.get r.cols (r.rg b).toNat (r.ew, [])).2 ++ (r.actives m mk).map (elem (r.rv a) r.w)) })) ∧
    (Issued s e (.emit e a b m mk) r l → (¬ rowSink s l ∨ 15 < (r.rg b).toNat) →
      exec (.emit e a b m mk) s = .next (s.failAt l 0x1002 0)) ∧
    (Issued s e (.emitend e) r l → rowSink s l → s.closeGroup e (counted (.emitend e) r) l = .ok r' s' →
      exec (.emitend e) s = .next (s'.stepTo e r')) ∧
    (Issued s e (.emitend e) r l → ¬ rowSink s l → exec (.emitend e) s = .next (s.failAt l 0x1002 0))

/-- SPAWN makes a HELD leaf of its own signature, COMMIT hands the stage over, and a word that is no instruction fails the leaf (04_engines.md, 02_folios.md). -/
def Obligations.SpawnAndCommit : Prop :=
  (∀ (s : State) (e : Nat) (a b : BitVec 5) (r : EngRun) (l : Leaf), Issued s e (.spawn e a b) r l →
    ((r.rg a).toNat = l.sig → r.spawns < 64 → ((s.spawnsOf l.inst).takeWhile (· != e)).length < s.slotsFree l.inst →
      ∃ child : Leaf, child.state = .held ∧ child.inst = l.inst ∧ child.sub = l.sub ∧ child.sig = l.sig ∧
        child.ord = (s.spawnOrd l.run l.sig).1 ∧ child.arg = (r.rg b).toNat ∧ child.group = l.group ∧ child.cls = l.cls ∧
        child.cq = l.cq ∧ child.src = .none ∧
        exec (.spawn e a b) s = .next (((({ s.updSig l.run l.sig (fun _ => (s.spawnOrd l.run l.sig).2) with
            leaves := Tab.set s.leaves child.id child
            coll := { s.coll with spawns := s.coll.spawns.filter (· != e) } } : State).endSlotWait l.inst).stepTo e
          { counted (.spawn e a b) r with spawns := r.spawns + 1, spawned := r.spawned ++ [child.id] }))) ∧
    ((r.rg a).toNat ≠ l.sig → exec (.spawn e a b) s = .next (s.failAt l 0x1002 0)) ∧
    ((r.rg a).toNat = l.sig → 64 ≤ r.spawns → exec (.spawn e a b) s = .next (s.failAt l 0x2002 0))) ∧
  (∀ (s s' : State) (e : Nat) (r r' : EngRun) (l : Leaf), Issued s e (.commit e) r l →
    s.closeGroup e (counted (.commit e) r) l = .ok r' s' →
    let closed := ((s'.sigOfLeaf l).map (·.sink)).getD 0 = 1 ∧ r'.stage.any s'.sendClosed = true
    (s'.holdKeeps e l r'.stage = true → exec (.commit e) s = .next s) ∧
    (s'.holdKeeps e l r'.stage = false → closed → exec (.commit e) s = .next (s'.failAt l 0x1002 0)) ∧
    (s'.holdKeeps e l r'.stage = false → ¬ closed → exec (.commit e) s =
      .next (s'.handOver e { r' with stage := r'.stage.filter (fun t => !s'.sendClosed t) } l))) ∧
  (∀ (s : State) (e : Nat) (r : EngRun) (l : Leaf), s.running_ e = some (r, l) →
    (r.pc < (s.engOf e).codeLen → decodeEngine e (s.engWord e r) = none → s.poisoned (.imem e) r.pc 4 = false →
      exec (.invalidInstruction e) s = .next (s.failLeaf l.id 0x1001 0)) ∧
    ((s.engOf e).codeLen ≤ r.pc → exec (.invalidInstruction e) s = .next (s.failAt l 0x1006 r.pc)) ∧
    (∀ i, r.pc < (s.engOf e).codeLen → decodeEngine e (s.engWord e r) = some i → r.limit < r.steps + engCost i r →
      exec (.stepLimitReached e) s = .next (s.failLeaf l.id 0x1007 0)))

/-- What a Cold Start clears and keeps, and what a reset that keeps power leaves (18_modes_startup.md, 20_electrical.md, 21_registers.md). -/
def Obligations.ColdStartClearsAndKeeps : Prop :=
  (∀ s : State,
    s.coldClear.insts = [] ∧ s.coldClear.folios = [] ∧ s.coldClear.runs = [] ∧ s.coldClear.leaves = [] ∧
    s.coldClear.cmds = [] ∧ s.coldClear.assocs = [] ∧ s.coldClear.groups = [] ∧ s.coldClear.regs = [] ∧
    s.coldClear.winRegs = [] ∧ s.coldClear.timebase = s.timebase ∧ s.coldClear.msixCtl = s.msixCtl ∧ s.coldClear.link = s.link ∧
    s.coldClear.expired = [] ∧ s.coldClear.powerGood = s.powerGood ∧
    s.coldClear.stopped = s.stopped ∧ s.coldClear.pins.thermtripN = s.pins.thermtripN ∧
    s.coldClear.col.slots = s.col.slots ∧ s.coldClear.col.nextSlot = s.col.nextSlot ∧
    s.coldClear.col.errLog = s.col.errLog ∧ s.coldClear.col.fhLog = s.col.fhLog ∧
    s.coldClear.log.err = s.log.err ∧ s.coldClear.log.fh = s.log.fh) ∧
  (∀ (s : State) (fn a : Nat), fn < 256 → a < 2 ^ 80 →
    Mem.read s.coldClear.mem ((Space.host fn).base + a) = Mem.read s.mem ((Space.host fn).base + a)) ∧
  (∀ (s : State) (k : Nat), k < 2 ^ 88 → Mem.read s.coldClear.mem k = 0) ∧
  (∀ s : State, s.resetTo = ((s.eng.map (·.1)).foldl State.retireNow s).saveSettings.coldClear ∧ s.resetTo.col.dirty = [] ∧ s.resetTo.col.featDirty = [])

/-- Power-good starts and stops the machine; PERST_N, hot reset and device reset run Cold Start again (18_modes_startup.md, 20_electrical.md). -/
def Obligations.PowerGoodAndPerst : Prop :=
  ∀ (s : State) (bad : List (Nat × Nat)),
    (s.powerGood = false → ∃ t, exec (.powerGoodRise bad) s = .next t ∧ t.powerGood = true ∧ t.stopped = false ∧
      t.timebase = 0 ∧ t.col.boots = s.col.boots + 1 ∧ t.insts = [] ∧ t.leaves = [] ∧ t.cmds = [] ∧
      ((s.pins.factoryEn && !s.col.prodLock) = true → t.dev.mode = .factory) ∧
      ((s.pins.factoryEn && !s.col.prodLock) = false → t.dev.mode = .coldStart ∧
        (s.slotBad bad s.col.nextSlot = none → t.dev.booted = true ∧ t.dev.activeSlot = s.col.nextSlot) ∧
        ((∀ k, k ∈ bootOrder s.col.nextSlot → s.slotBad bad k ≠ none) → t.dev.booted = false ∧ t.dev.coldFail ≠ 0))) ∧
    (s.powerGood = true → ∃ t, exec .powerGoodFall s = .next t ∧ t.powerGood = false ∧ t.insts = [] ∧ t.leaves = [] ∧
      t.cmds = [] ∧ t.log = {} ∧ t.msixCtl = [] ∧ t.link = none ∧ t.col.dirty = [] ∧ t.col.settings = s.col.settings ∧ t.mem = hostCells s.mem ∧
      t.pins = { s.pins with cxlPerstN := [false, false], alertN := true, thermAlertN := true, ppsOut := false, gpio := 0 }) ∧
    (s.running = true → s.dev.factory = false →
      exec .perstNAssert s = .next (let u := (({ s with pins := { s.pins with perstN := false } } : State).logResetLost).resetTo.linkReset
        { u with dev := { u.dev with restart := true } })) ∧
    (s.running = true → s.dev.factory = false → s.pins.perstN = false →
      exec (.perstNDeassert bad) s =
        .next ((({ s with pins := { s.pins with perstN := true } } : State).resetTo).coldStart bad)) ∧
    (s.powerGood = false ∨ s.dev.factory = true →
      exec .perstNAssert s = .next (({ s with pins := { s.pins with perstN := false } } : State).linkReset) ∧
      exec (.perstNDeassert bad) s = .next { s with pins := { s.pins with perstN := true } }) ∧
    (s.running = true → s.dev.factory = true → exec (.hotReset bad) s = .next s.linkReset) ∧
    (s.running = true → s.dev.factory = false →
      exec (.hotReset bad) s = .next (((s.logResetLost).resetTo).linkReset.coldStart bad)) ∧
    (∀ v : Word, s.running = true → s.dev.cold = false → s.dev.factory = false → s.paused = false →
      v.getLsbD 1 = true → v.extractLsb' 16 16 = 0xD1E5 →
      exec (.deviceReset v bad) s = .next ((s.applyHold v.toNat).deviceReset bad)) ∧
    (∀ v : Word, s.running = true → s.paused = false → ∃ t, exec (.maintHoldWrite v) s = .next t ∧
      t.dev.maintHold = v.getLsbD 0 ∧ t.dev.maint.contains 3 = v.getLsbD 0) ∧
    (s.running = true → s.dev.cold = true → s.dev.booted = true → s.dev.restart = false → s.dev.coldFail = 0 →
      exec .efuraStartTimeout s = .next
        (let u := s.logFh { kind := 0x0A02, outcome := 7, resType := 0x0D, resIdx := s.dev.activeSlot,
                            data := leBytes 4 s.dev.activeSlot ++ leBytes 4 1 }
         ({ u with dev := { u.dev with tried := u.dev.tried ++ [s.dev.activeSlot], booted := false } } : State).trySlots []
          ((bootOrder s.col.nextSlot).filter (fun j => j != s.dev.activeSlot && !s.dev.tried.contains j)) 4))

/-- DEV_STATUS.MODE reports exactly one of the six modes with the encoding of the table (R22). -/
def Obligations.ModeReported : Prop :=
  ∀ s : State,
    ((s.dev.mode = .coldStart ∧ s.regRead 0x10 % 256 = 0) ∨ (s.dev.mode = .service ∧ s.regRead 0x10 % 256 = 1) ∨
     (s.dev.mode = .constrained ∧ s.regRead 0x10 % 256 = 2) ∨ (s.dev.mode = .maintenance ∧ s.regRead 0x10 % 256 = 3) ∨
     (s.dev.mode = .containment ∧ s.regRead 0x10 % 256 = 4) ∨ (s.dev.mode = .factory ∧ s.regRead 0x10 % 256 = 5)) ∧
    s.regRead 0x10 % 256 < 6

/-- A write of DEV_MODE_CTRL in COLD_START changes only MAINT_HOLD, whose holder starts at once (R468). -/
def Obligations.MaintHoldDuringColdStart : Prop :=
  (∀ (s : State) (v : Word) (bad : List (Nat × Nat)), s.running = true → s.dev.cold = true → s.dev.factory = false →
    s.dev.act = none →
    ∃ t, exec (.deviceReset v bad) s = .next t ∧ exec (.maintHoldWrite v) s = .next t ∧
      t = { s with dev := { s.dev with maintHold := t.dev.maintHold, maint := t.dev.maint } } ∧
      t.dev.maintHold = v.getLsbD 0 ∧
      (∀ h, h ≠ 3 → t.dev.maint.contains h = s.dev.maint.contains h) ∧
      t.dev.maint.contains 3 = v.getLsbD 0) ∧
  (∀ (s t : State) (v : Word), s.running = true → exec (.maintHoldWrite v) s = .next t →
    t.regRead 0x18 = (if v.getLsbD 0 then 1 else 0) ∧ (s.paused = false → t.dev.maint.contains 3 = v.getLsbD 0)) ∧
  (∀ s : State, s.dev.maint = [3] → s.regRead 0x10 / 2 ^ 16 % 16 = 8) ∧
  (∀ d : Dev, d.factory = false → d.cold = false → d.contained = false → d.maint ≠ [] → d.mode = .maintenance)

/-- The end of Cold Start, the loss and return of reference clocks, and the pulse-per-second edges (18_modes_startup.md, 20_electrical.md). -/
def Obligations.ClocksAndPulsePerSecond : Prop :=
  ∀ s : State, s.running = true →
    (∀ f : ColdFinds, s.dev.cold = true → s.dev.booted = true → s.dev.restart = false → s.dev.coldFail = 0 →
      exec (.coldStartComplete f) s = .next (((((((s.coldEngines f.badEngines).coldQuires f.marchFails f.badQuires).coldHbm
        f.badChannels f.laneRepairs).coldPorts f.ports).coldFabric f.badLanes).coldEnd).linkUp f.link)) ∧
    (∀ k : Fin 4, s.clkLost.contains (.fab k) = false →
      exec (.refclkLoss (.fab k)) s = .next ((s.clockLost (.fab k)).fabClock k.val true)) ∧
    (s.clkLost.contains .pcie = false → exec (.refclkLoss .pcie) s = .next ((s.clockLost .pcie).hotReset [])) ∧
    (∀ p : Fin 2, s.clkLost.contains (.cxl p) = false →
      exec (.refclkLoss (.cxl p)) s = .next ((s.clockLost (.cxl p)).linkDown p.val)) ∧
    (s.clkLost.contains .hbm = false → exec (.refclkLoss .hbm) s = .next (s.clockLost .hbm)) ∧
    (s.clkLost.contains .aon = false → exec (.refclkLoss .aon) s = .next (s.clockLost .aon)) ∧
    (∀ k : Fin 4, s.clkLost.contains (.fab k) = true →
      exec (.refclkReturn (.fab k)) s = .next ((s.clockBack (.fab k)).fabClock k.val false)) ∧
    (s.clkLost.contains .hbm = true →
      exec (.refclkReturn .hbm) s = .next ((s.clockBack .hbm).resolveCause 7 3 0xFFFF)) ∧
    (∀ c, c = .pcie ∨ c = .aon ∨ (∃ p, c = .cxl p) → s.clkLost.contains c = true →
      exec (.refclkReturn c) s = .next (s.clockBack c)) ∧
    (s.serving = true → s.clkLost.contains .hbm = true →
      exec .hbmRefclkHoldExpiry s = .next (s.openCause 7 3 0xFFFF)) ∧
    exec .ppsInEdge s = .next { s with ppsStamp := s.timebase, pins := { s.pins with ppsIn := true } } ∧
    (s.serving = true → s.securePin 0 = false → exec .ppsOutEdge s =
      .next { s with pins := { s.pins with ppsOut := !s.pins.ppsOut }, outbox := s.outbox ++ [.ppsOut] })

/-- Once THERMTRIP_N has stopped the part it stays stopped: no step but one of the supplies does anything (17_power_heat.md, 20_electrical.md). -/
def Obligations.ThermalTripStopsEveryBlock : Prop :=
  ∀ s s' : State, s.tripped = true → step s = .next s' →
    s'.tripped = true ∧
    (∀ (c : Instr) (rest : List Instr), s.pending = c :: rest →
      Frozen { s with pending := rest } s' ∧
      (carriesStores c = false → s'.mem = s.mem ∧ s'.hostErrs = s.hostErrs)) ∧
    (s.pending = [] → s' = idleTick s)

/-- A reading of 110 °C trips the part; with cooler ones it goes on, and throttled time is counted (17_power_heat.md). -/
def Obligations.ThermalReadings : Prop :=
  let sensors := fun (r : Thermal) => (r.quire.take 16).flatMap (·.take 4) ++ (r.iod.take 2).flatMap (·.take 4) ++ r.stack.take 8
  ∀ (s : State) (r : Thermal), s.running = true →
    ((∃ x, x ∈ sensors r ∧ 110 ≤ x) → exec (.thermalSensorRead r) s =
      .next { s with stopped := true, pins := { s.pins with thermtripN := false } }) ∧
    ((∀ x, x ∈ sensors r → x < 110) → ∃ t, exec (.thermalSensorRead r) s = .next t ∧ t.stopped = false ∧
      t.pins.thermtripN = s.pins.thermtripN ∧
      t.reg 0x700028 = (if s.pwr.hot = [] then s.reg 0x700028 else (s.reg 0x700028 + 10000) % 2 ^ 64))

/-- Estimates, telemetry, refills, voltage targets and the power brake (17_power_heat.md, 07_collator.md). -/
def Obligations.PowerController : Prop :=
  ∀ s : State,
    (∀ mw : Nat, s.running = true → ∃ t, exec (.powerEstimateTick mw) s = .next t ∧
      t.reg 0x700018 % 2 ^ 32 = mw % 2 ^ 32 ∧ t.reg 0x700018 / 2 ^ 32 = s.reg 0x700018 / 2 ^ 32 % 2 ^ 32 ∧
      ∀ off, off ≠ 0x700018 → t.reg off = s.reg off) ∧
    (∀ rails : List RailRead, s.running = true → exec (.telemetryRead rails) s = .next
      (let u := (rails.take 4).zipIdx.foldl (fun (s : State) (p : RailRead × Nat) => s.railRead p.2 p.1) s
       u.setField 0x700018 63 32 (sumOf ((List.range 4).map (fun d => u.regField (offDiePower d) 31 0))))) ∧
    (∀ other : Nat, s.serving = true → ∃ t, exec (.budgetRefill other) s = .next t ∧
      t.pwr.fifo = s.pwr.fifo ++ [(s.refills other, (s.cmds.filter (fun c => c.op == 3 && c.phase == .running
        && !(s.pwr.fifo.flatMap (·.2)).contains c.no)).map (·.no))] ∧
      t.quires = s.quires ∧ t.cmds = s.cmds ∧
      t.reg 0x700010 % 2 ^ 32 = (if s.pins.pwrbrkN then s.feature 0 1 else s.feature 0 1 * 2 / 5) % 2 ^ 32) ∧
    (∀ refill cmds rest, s.serving = true → s.pwr.fifo = (refill, cmds) :: rest →
      exec .creditRefill s = .next (cmds.foldl (fun (s : State) no => s.finish no 0 0 0)
        ((({ s with pwr := { s.pwr with fifo := rest } } : State).applyRefill refill).dispatchPass))) ∧
    (∀ (busOk : List Bool) (used : List Nat), s.serving = true → exec (.voltageTargetRevision busOk used) s = .next
      (((List.range 4).foldl (fun (s : State) d => s.reviseDie d (used.getD d 0) (busOk.getD d true)) s).updPwr
        (fun p => { p with limited := false }))) ∧
    (s.running = true → s.pins.pwrbrkN = true → ∃ t, exec .pwrbrkNAssert s = .next t ∧ t.pins.pwrbrkN = false ∧
      t.quires = s.quires.map (fun p => (p.1, { p.2 with credit := min p.2.credit 0 })) ∧
      t.outbox = s.outbox ++ (List.range 4).map (fun d => Output.avs d (s.regField offPwrCfg 15 8)) ∧
      t.reg 0x700020 = (s.reg 0x700020 + 1) % 2 ^ 64) ∧
    exec .pwrbrkNDeassert s = .next { s with pins := { s.pins with pwrbrkN := true } }

/-- Register accesses: the latch of a split read, refused sizes, plain writes, and the rows that save and arm (21_registers.md, 19_faults.md). -/
def Obligations.RegisterRows : Prop :=
  ∀ s : State, s.running = true →
    (∀ off : Nat, off % 8 = 0 → ∃ t, exec (.latchedLowHalfRead off) s = .next t ∧
      t.outbox = s.outbox ++ [.readData off (BitVec.ofNat 64 (s.regRead off % 2 ^ 32))] ∧
      ∃ u, exec (.latchedLowHalfRead (off + 4)) t = .next u ∧ u.dev.latch = none ∧
        u.outbox = t.outbox ++ [.readData (off + 4) (BitVec.ofNat 64 (s.regRead off / 2 ^ 32))]) ∧
    (∀ (sp : RegSpace) (off size : Nat) (w : Bool), sizeOk off size = false →
      (w && anySize sp off) = false → ∃ t, exec (.badRegisterAccess sp off size w) s = .next t ∧
        t.dev.badAccess = s.dev.badAccess + (if s.assigned sp off then 1 else 0) ∧
        t.regs = s.regs ∧ t.winRegs = s.winRegs ∧
        t.outbox = (if w then s.outbox else s.outbox ++ [.readData off 0])) ∧
    (∀ (v : Word) (r : RegInfo), s.serving = true → s.paused = false → regInfo 0x200000 = some r →
      (regLegal 0x200000 (regMerge r (s.reg 0x200000) 0x200000 8 v.toNat) = true →
        exec (.registerWrite .bar0 0x200000 8 v) s = .next (s.storeReg 0x200000
          (regMerge r (s.reg 0x200000) 0x200000 8 v.toNat))) ∧
      (regLegal 0x200000 (regMerge r (s.reg 0x200000) 0x200000 8 v.toNat) = false →
        exec (.registerWrite .bar0 0x200000 8 v) s = .next s)) ∧
    exec (.settingsPersist {}) s = .next s.saveSettings ∧
    (∃ t, exec (.logRecordFlush {}) s = .next t ∧ t.log.err = [] ∧ t.log.fh = [] ∧ t.log.lostErr = s.log.lostErr ∧
      (s.col.errLost = 0 → s.col.errLog.length + s.log.err.length ≤ 4194304 → t.col.errLog = s.col.errLog ++ s.log.err) ∧
      (s.col.fhLost = 0 → s.col.fhLog.length + s.log.fh.length ≤ 8388608 → t.col.fhLog = s.col.fhLog ++ s.log.fh)) ∧
    exec (.optimeSave {}) s = .next { s with col := { s.col with optimeSaved := s.col.optime } } ∧
    (∀ f : Flash, exec (.settingsPersist f) s = .next (s.recordWrite f State.saveSettings) ∧
      exec (.optimeSave f) s = .next (s.recordWrite f (fun s => { s with col := { s.col with optimeSaved := s.col.optime } })) ∧
      ∃ t, exec (.logRecordFlush f) s = .next t ∧ t.log.err = [] ∧ t.log.fh = []) ∧
    (∀ b, b < 0x484 → s.retireBlock b = (if s.col.spareBlocks = 0 then
        ({ s with col := { s.col with retBlocks := min 65535 (s.col.retBlocks + 1) } } : State).openCause 7 0x0D b
      else { s with col := { s.col with retBlocks := min 65535 (s.col.retBlocks + 1), spareBlocks := s.col.spareBlocks - 1 } })) ∧
    (∀ v : Word, s.serving = true →
      (injectLegal v.toNat = true → v.getLsbD 63 = true → s.dev.maintHold = true → ∃ t,
        exec (.faultInjectArm v) s = .next t ∧ t.armed (bits v.toNat 55 48) (bits v.toNat 31 0) = true ∧
          ∀ off, off ≠ 0xF00038 → t.reg off = s.reg off) ∧
      (injectLegal v.toNat = false ∨ (v.getLsbD 63 = true ∧ s.dev.maintHold = false) → exec (.faultInjectArm v) s = .next s))

/-- Events of a resource count within their window of operating time; at COUNT the number returns to zero (19_faults.md). -/
def Obligations.FaultCounting : Prop :=
  ∀ (s : State) (kind idx window limit : Nat),
    let mine := fun (e : CountEvent) => e.kind == kind && e.idx == idx
    let young := fun (e : CountEvent) => decide (s.col.optime < e.at_ + window)
    let n := (s.col.counts.filter (fun e => mine e && young e)).length + 1
    let t := (s.countEvent kind idx window limit).2.2
    (s.countEvent kind idx window limit).1 = n ∧
    ((s.countEvent kind idx window limit).2.1 = true ↔ limit ≤ n) ∧
    t.col.counts.filter (fun e => !mine e) = s.col.counts.filter (fun e => !mine e) ∧
    (limit ≤ n → t.col.counts.filter mine = [] ∧ (1 < limit →
      (t.countEvent kind idx window limit).1 = 1 ∧ (t.countEvent kind idx window limit).2.1 = false)) ∧
    (n < limit → t.col.counts.filter mine =
      s.col.counts.filter (fun e => mine e && young e) ++ [{ kind := kind, idx := idx, at_ := s.col.optime }])

/-- A step takes the front command of the queue and runs exec on it with the queue's rest (11_host_queues.md). -/
def Obligations.StepRunsTheFrontCommand : Prop :=
  (∀ (s : State) (c : Instr) (rest : List Instr),
    step { s with pending := c :: rest } = exec c { s with pending := rest }) ∧
  (∀ s : State, step { s with pending := [] } = .next (idleTick ({ s with pending := [] } : State).endTick)) ∧
  (∀ s : State, s.running = false → s.endTick = s) ∧
  (∀ s : State, s.running = true →
    s.endTick = (s.expired.foldl State.late { s with expired := [] }).pfcSweep.efuraSends) ∧
  (∀ s : State, s.powerGood = true → (idleTick s).timebase = s.timebase + 1 ∧ (idleTick s).col.optime = s.col.optime + 1) ∧
  (∀ s : State, s.powerGood = false → idleTick s = s) ∧
  (∀ (s t : State) (v : Word), exec (.maintHoldWrite v) s = .next t ∨ exec .ppsInEdge s = .next t → t.pending = s.pending)

/-- The state after reset: no power, no work, registers at their reset values, outputs as before power-good (18_modes_startup.md, 20_electrical.md, 21_registers.md). -/
def Obligations.ResetState : Prop :=
  State.reset.pending = [] ∧ State.reset.powerGood = false ∧ State.reset.stopped = false ∧
  State.reset.dev.mode = .coldStart ∧ State.reset.insts = [] ∧ State.reset.cmds = [] ∧ State.reset.folios = [] ∧
  State.reset.runs = [] ∧ State.reset.leaves = [] ∧ State.reset.assocs = [] ∧ State.reset.mem = [] ∧
  State.reset.pins.thermtripN = true ∧ State.reset.timebase = 0 ∧ State.reset.dev.maintHold = false ∧
  State.reset.feature 0 1 = 1500 ∧ ∀ off, State.reset.reg off = State.reset.regReset off

/-- Admin queues, doorbells, push windows, arbitration, the coalescing timer and Flush (11_host_queues.md). -/
def Obligations.QueueRows : Prop :=
  (∀ s : State, s.running = true → s.dev.factory = false → s.dev.cold = true →
    exec (.enableAdminQueues 0) s = .next { s with dev := { s.dev with heldEn := true } }) ∧
  ∀ (s : State) (i k : Nat) (x : Inst), s.serving = true → s.inst? i = some x →
    (s.enBit i = false → bits (s.winReg i 0x18) 11 0 ≠ 0 → bits (s.winReg i 0x18) 27 16 ≠ 0 →
      ∃ t y, exec (.enableAdminQueues i) s = .next t ∧ t.inst? i = some y ∧ y.rdy = true ∧
        Tab.find y.sqs 0 = some { pool := s.freeSqNo, depth := bits (s.winReg i 0x18) 11 0 + 1, base := s.winReg i 0x20, cq := 0 } ∧
        Tab.find y.cqs 0 = some { pool := s.freeCqNo, depth := bits (s.winReg i 0x18) 27 16 + 1, base := s.winReg i 0x28, iv := 0, ien := true } ∧
        ∀ j, j ≠ i → t.inst? j = s.inst? j) ∧
    (s.enBit i = false → bits (s.winReg i 0x18) 11 0 = 0 ∨ bits (s.winReg i 0x18) 27 16 = 0 →
      exec (.enableAdminQueues i) s = .next (s.setWinReg i 8 1)) ∧
    (s.enBit i = true → exec (.enableAdminQueues i) s = .next s) ∧
    ((∃ p, p ∈ x.sqs ∧ p.1 ≠ 0) ∨ (∃ p, p ∈ x.cqs ∧ p.1 ≠ 0) → exec (.disableAdminQueues i) s = .next s) ∧
    ((∀ p, p ∈ x.sqs → p.1 = 0) → (∀ p, p ∈ x.cqs → p.1 = 0) → exec (.disableAdminQueues i) s =
      .next (((s.setWinReg i 8 0).updInst i (fun x => { x with disabling := x.rdy })).settleQueues i)) ∧
    (∀ (q : Sq) (v : Word) (h : HostStores), s.sq? i k = some q →
      (v.toNat < q.depth → v.toNat < 2 ^ 16 → q.deleting = false → (v.toNat + q.depth - q.tail) % q.depth ≤ q.free →
        exec (.sqTailDoorbell i k v h) s = .next ((s.hostStore i h).updSq i k (fun y => { y with
          tail := v.toNat, win := []
          fromWin := y.fromWin ++ (if q.head = q.tail then q.takeWin ((v.toNat + q.depth - q.tail) % q.depth) else []) }))) ∧
      (q.depth ≤ v.toNat → exec (.sqTailDoorbell i k v h) s =
        .next (((s.hostStore i h).updSq i k (fun q => { q with win := [] })).raise i 1 0 5 k))) ∧
    (∀ (q : Cq) (v : Word), s.cq? i k = some q →
      (v.toNat < q.depth → v.toNat < 2 ^ 16 → (v.toNat + q.depth - q.head) % q.depth ≤ (q.tail + q.depth - q.head) % q.depth →
        exec (.cqHeadDoorbell i k v) s =
          .next ((((s.updCq i k (fun q => { q with head := v.toNat })).moveHold i k x.hold.length).settleEvents i).endDisable i)) ∧
      (q.depth ≤ v.toNat → exec (.cqHeadDoorbell i k v) s = .next (s.raise i 1 1 5 k)) ∧
      (q.ien = true → 0 < q.unsig → exec (.interruptCoalesceTimer i k) s =
        .next ((s.updCq i k (fun q => { q with unsig := 0 })).signal i q.iv))) ∧
    (∀ (q : Sq) (off : Nat) (d : Bytes), s.sq? i k = some q → ∃ t y, exec (.pushWindowWrite i k off d) s = .next t ∧
      t.sq? i k = some y ∧ y.head = q.head ∧ y.tail = q.tail ∧
      (∀ j, j < d.length → off + j < 256 → Tab.find y.win (off + j) = d[j]?) ∧
      (∀ j, j < off ∨ off + d.length ≤ j → Tab.find y.win j = Tab.find q.win j)) ∧
    (∀ j, nextRound ((s.insts.filter (fun p => p.2.rdy && !p.2.disabling && !p.2.removing && !p.2.resetting
        && ((Tab.find p.2.sqs 0).map (s.fetchable p.1)).getD false)).map (·.1)) s.rrAdmin = some j →
      exec .fetchEntries s = .next (({ s with rrAdmin := j } : State).fetchSq j 0 1)) ∧
    (∀ (cls : Nat) (cr : List Nat), nextRound ((s.insts.filter (fun p => p.2.rdy && !p.2.disabling && !p.2.removing && !p.2.resetting
        && ((Tab.find p.2.sqs 0).map (s.fetchable p.1)).getD false)).map (·.1)) s.rrAdmin = none →
      nextRound ((s.insts.filter (fun p => s.ioFetching p.1 p.2 && (s.pickSq p.1 p.2).isSome)).map (·.1)) s.rrIo = some i →
      s.pickSq i x = some (cls, k, cr) →
      exec .fetchEntries s = .next ((({ s with rrIo := i } : State).updInst i (fun x => { x with
        rrSq := Tab.set x.rrSq cls k, credits := cr })).fetchSq i k (bits (s.feature i 2) 7 0))) ∧
    (∀ (cid : Nat) (c : Cmd), s.takeCmd i k cid 0x4B = some c → exec (.flush i k cid) s = .next (s.finish c.no 0 0 0))

/-- A completion goes to its ring slot; behind a full CQ or an earlier held one it is held; without a CQ it is logged (11_host_queues.md). -/
def Obligations.CompletionsReachTheirRing : Prop :=
  ∀ (s : State) (i k : Nat) (x : Inst) (q : Cq) (h : Held), s.inst? i = some x → i < 128 →
    (Tab.find x.cqs k = some q → q.full = false → (∀ y, y ∈ x.hold → y.cq ≠ k) → s.dmaStopped i = false →
      (s.postRaw i k h).rd (.host i) (q.base + 32 * q.tail) 32 = cqeBytes h (((s.sq? i h.sq).map (·.head)).getD 0) q.phase ∧
      (∀ a, a < (Space.host i).base + (q.base + 32 * q.tail) ∨ (Space.host i).base + (q.base + 32 * q.tail) + 32 ≤ a →
        Mem.read (s.postRaw i k h).mem a = Mem.read s.mem a) ∧
      ((s.postRaw i k h).cq? i k).map (fun y => (y.tail, y.phase, y.head)) =
        some (if q.tail + 1 = q.depth then (0, !q.phase, q.head) else (q.tail + 1, q.phase, q.head))) ∧
    (Tab.find x.cqs k = some q → (q.full = true ∨ ∃ y, y ∈ x.hold ∧ y.cq = k) →
      ((s.postRaw i k h).inst? i).map (·.hold) = some (x.hold ++ [h]) ∧ (s.postRaw i k h).mem = s.mem) ∧
    (Tab.find x.cqs k = none →
      (s.postRaw i k h).col.errNext = s.col.errNext + 1 ∧ (s.postRaw i k h).mem = s.mem)

/-- Commands that only complete change nothing but queues, holds, logs, events and host memory (11_host_queues.md, 13_instances.md, 19_faults.md). -/
def Obligations.FrameOfPostingCommands : Prop :=
  ∀ (s t : State) (c : Instr) (i sq cid : Nat) (v : Word),
    c = .flush i sq cid ∨ c = .getFeatures i sq cid ∨ c = .createCompletionQueue i sq cid ∨
    c = .deleteCompletionQueue i sq cid ∨ c = .createSubmissionQueue i sq cid ∨ c = .asynchronousEventRequest i sq cid ∨
    c = .interruptCoalesceTimer i sq ∨ c = .cqHeadDoorbell i sq v →
    exec c s = .next t → Posted s t

/-- Creating and deleting queues, and event requests (11_host_queues.md). -/
def Obligations.QueueManagement : Prop :=
  ∀ (s : State) (i sq cid : Nat) (x : Inst) (c : Cmd), s.inst? i = some x →
    let q := c.fld 0x18 2
    let legal := 0 < q ∧ q ≤ 1023 ∧ 0 < c.fld 0x1A 2 ∧ c.dataAddr % 4096 = 0 ∧ c.devAddr = false
    (s.takeCmd i sq cid 7 = some c →
      (legal → Tab.has x.sqs q = false → Tab.has x.cqs (c.fld 0x1C 2) = true → c.fld 0x1E 1 ≤ 3 → c.fld 0x1F 1 ≤ 1 →
        (c.fld 0x1E 1 = 0 → x.alloc.urgentOk = true) → x.sqs.length < x.alloc.sqs → s.sqCount < 4096 →
        exec (.createSubmissionQueue i sq cid) s = .next ((s.updInst i (fun x => { x with
          sqs := Tab.set x.sqs q { pool := s.freeSqNo, depth := c.fld 0x1A 2 + 1, base := c.dataAddr, cq := c.fld 0x1C 2, cls := c.fld 0x1E 1,
                                   batch := c.fld 0x1F 1 == 1 } })).finish c.no 0 0 0)) ∧
      (Tab.has x.sqs q = true → exec (.createSubmissionQueue i sq cid) s = .next (s.finish c.no 0x1008 0 0))) ∧
    (s.takeCmd i sq cid 9 = some c → legal → Tab.has x.cqs q = false → 0 < c.fld 0x1C 1 → c.fld 0x1C 1 ≤ 63 →
      c.fld 0x1D 1 ≤ 1 → x.cqs.length < x.alloc.cqs → s.cqCount < 4096 →
      exec (.createCompletionQueue i sq cid) s = .next ((s.updInst i (fun x => { x with
        cqs := Tab.set x.cqs q { pool := s.freeCqNo, depth := c.fld 0x1A 2 + 1, base := c.dataAddr, iv := c.fld 0x1C 1, ien := c.fld 0x1D 1 == 1 } })).finish c.no 0 0 0)) ∧
    (s.takeCmd i sq cid 8 = some c →
      (∀ y, 0 < q → q ≤ 1023 → (s.sq? i q).isSome = true → (s.cutChain i q).sq? i q = some y →
        exec (.deleteSubmissionQueue i sq cid) s = .next ((((s.cutChain i q).updSq i q (fun y => { y with deleting := true })).updCmd
          c.no (fun c => { c with
            phase := .running
            status := if (y.tail + y.depth - y.head) % y.depth = 0 then 0 else 0x6003
            result := if (y.tail + y.depth - y.head) % y.depth = 0 then 0
              else (y.tail + y.depth - y.head) % y.depth * 2 ^ 16 + y.head })).settleQueues i)) ∧
      ((s.sq? i q).isNone = true → exec (.deleteSubmissionQueue i sq cid) s = .next (s.finish c.no 0x1008 0 0))) ∧
    (s.takeCmd i sq cid 0xA = some c → 0 < q → q ≤ 1023 → Tab.has x.cqs q = true → (∀ p, p ∈ x.sqs → p.2.cq ≠ q) →
      (∀ h, h ∈ x.hold → h.cq ≠ q) → exec (.deleteCompletionQueue i sq cid) s =
        .next ((s.updInst i (fun x => { x with cqs := Tab.del x.cqs q })).finish c.no 0 0 0)) ∧
    (s.takeCmd i sq cid 0xB = some c →
      (x.aers.length < 4 → exec (.asynchronousEventRequest i sq cid) s =
        .next (((s.start c.no).updInst i (fun x => { x with aers := x.aers ++ [c.no] })).drainEvents i 8)) ∧
      (4 ≤ x.aers.length → exec (.asynchronousEventRequest i sq cid) s = .next (s.finish c.no 0x2004 0 0)))

/-- Identify, log pages and features answer the values of their tables (11_host_queues.md). -/
def Obligations.IdentifyLogsAndFeatures : Prop :=
  ∀ (s : State) (i sq cid : Nat) (c : Cmd),
    (s.takeCmd i sq cid 1 = some c →
      (c.fld 0x18 1 = 0 → exec (.identify i sq cid) s = .next (s.answer c s.identifyDevice 0)) ∧
      (∀ x, c.fld 0x18 1 = 1 → s.inst? (if i = 0 then c.fld 0x19 1 else i) = some x →
        exec (.identify i sq cid) s =
          .next (s.answer c (identifyInst (if i = 0 then c.fld 0x19 1 else i) x.alloc) 0))) ∧
    (∀ p, s.takeCmd i sq cid 2 = some c → s.page i (c.fld 0x18 1) = .ok p →
      (c.fld 0x20 8 % 4 = 0 → c.dataLen % 4 = 0 → 4 ≤ c.dataLen → c.dataLen ≤ 1048576 → c.fld 0x20 8 < p.length →
        exec (.getLogPage i sq cid) s = .next (s.answer c ((p.drop (c.fld 0x20 8)).take c.dataLen) p.length)) ∧
      (p.length ≤ c.fld 0x20 8 → exec (.getLogPage i sq cid) s = .next (s.finish c.no 0x1002 0 0))) ∧
    (s.takeCmd i sq cid 3 = some c →
      (c.fld 0x18 1 = 7 → exec (.setFeatures i sq cid) s = .next (s.finish c.no 0x1009 0 0)) ∧
      (i ≠ 0 → (c.fld 0x18 1 = 1 ∨ c.fld 0x18 1 = 6) → exec (.setFeatures i sq cid) s = .next (s.finish c.no 0x1001 0 0)) ∧
      (c.fld 0x19 1 = 0 → featLegal (c.fld 0x18 1) (c.fld 0x20 8) = true →
        (c.fld 0x18 1 = 1 → i = 0 → exec (.setFeatures i sq cid) s =
          .next ((s.updInst 0 (fun x => { x with features := Tab.set x.features 1 (c.fld 0x20 8) })).start c.no)) ∧
        (2 ≤ c.fld 0x18 1 → c.fld 0x18 1 ≤ 5 → exec (.setFeatures i sq cid) s =
          .next ((s.updInst i (fun x => { x with features := Tab.set x.features (c.fld 0x18 1) (c.fld 0x20 8) })).finish
            c.no 0 0 0)) ∧
        (c.fld 0x18 1 = 6 → i = 0 → exec (.setFeatures i sq cid) s =
          .next ((s.setReg offQmConfig (c.fld 0x20 8)).finish c.no 0 0 0))) ∧
      (c.fld 0x19 1 = 1 → i = 0 → 2 ≤ c.fld 0x18 1 → c.fld 0x18 1 ≤ 5 → featLegal (c.fld 0x18 1) (c.fld 0x20 8) = true →
        exec (.setFeatures 0 sq cid) s = .next
          (let u := s.updInst 0 (fun x => { x with features := Tab.set x.features (c.fld 0x18 1) (c.fld 0x20 8) })
           ({ u with col := { u.col with featDirty := Tab.set u.col.featDirty (c.fld 0x18 1) (c.fld 0x20 8) } } : State).finish
             c.no 0 0 0))) ∧
    (s.takeCmd i sq cid 4 = some c →
      (1 ≤ c.fld 0x18 1 → c.fld 0x18 1 ≤ 7 → c.fld 0x19 1 ≤ 1 →
        (i = 0 ∨ (c.fld 0x18 1 ≠ 1 ∧ c.fld 0x18 1 ≠ 6)) → exec (.getFeatures i sq cid) s = .next (s.finish c.no 0
          (if c.fld 0x19 1 = 0 then s.feature i (c.fld 0x18 1) else s.savedFeature i (c.fld 0x18 1)) 0)) ∧
      (i ≠ 0 → (c.fld 0x18 1 = 1 ∨ c.fld 0x18 1 = 6) → c.fld 0x19 1 ≤ 1 →
        exec (.getFeatures i sq cid) s = .next (s.finish c.no 0x1001 0 0)))

/-- Creating, quiescing, resuming, sharing, removing and resetting instances (13_instances.md). -/
def Obligations.InstanceRows : Prop :=
  ∀ (s : State) (sq cid : Nat) (c : Cmd), let j := c.fld 0x18 1
    (∀ b u, s.takeCmd 0 sq cid 0x10 = some c →
      (0 < j → j ≤ 127 → s.inst? j = none → c.dataLen = 704 → s.bufRead c c.dataAddr 704 = .ok b u → blockLegal b = true →
        u.covers (parseAlloc b) = true → exec (.createInstance 0 sq cid) s = .next
          (let t := (u.makeInst j (parseAlloc b)).logShortfall
           if t.slcUp then t.finish c.no 0 0 0 else t.start c.no)) ∧
      ((s.inst? j).isSome = true → exec (.createInstance 0 sq cid) s = .next (s.finish c.no 0x1002 0 0))) ∧
    (∀ x, s.inst? j = some x → 0 < j →
      (s.takeCmd 0 sq cid 0x11 = some c → x.quiesced = false → exec (.quiesceInstance 0 sq cid) s =
        .next ((s.start c.no).updInst j (fun x => { x with quiescing := true, quiesceCmd := some c.no }))) ∧
      (s.serving = true → s.paused = false → s.still j = true → x.quiescing = true →
        exec (.quiesceComplete j) s = .next ((s.endQuiesce j).leaveControl j) ∧
        ((s.endQuiesce j).inst? j).map (fun y => (y.quiesced, y.quiescing)) = some (true, false)) ∧
      (s.takeCmd 0 sq cid 0x12 = some c → x.quiesced = true → exec (.resumeInstance 0 sq cid) s =
        .next ((s.updInst j (fun x => { x with quiesced := false })).finish c.no 0 0 0)) ∧
      (∀ b u, s.takeCmd 0 sq cid 0x14 = some c → c.dataLen = 576 → s.bufRead c c.dataAddr 576 = .ok b u →
        fld b 0 2 = 1 → fld b 2 2 = x.alloc.groups → fld b 4 2 ≤ 1000 → zeroAt b 6 58 = true →
        weightsLegal b 0x40 x.alloc.groups = true → exec (.setInstanceShare 0 sq cid) s = .next (({ u with
          shares := u.shares.filter (fun (p : Nat × Nat × List Nat) => p.1 != j)
            ++ [(j, fld b 4 2, (List.range x.alloc.groups).map (fun g => fld b (0x40 + g) 1))] } : State).finish c.no 0 0 0)) ∧
      (s.takeCmd 0 sq cid 0x13 = some c → x.quiesced = false →
        exec (.removeInstance 0 sq cid) s = .next (s.finish c.no 0x1002 0 0)) ∧
      (s.takeCmd 0 sq cid 0x13 = some c → x.quiesced = true → exec (.removeInstance 0 sq cid) s = .next
        (((((((((((((s.stopLeaves j).stopJobs j).stopCopies j).logRemoved j x).settleEvents j).tearDown j).endReservations j).clearMailbox
          j 0).loseWindows j).giveBack j).leaveControl j)).finish c.no 0 0 0)) ∧
      (s.running = true → exec (.functionLevelReset j) s = .next
        (let v := ((((s.stopLeaves j).stopJobs j).stopCopies j).abortCmds j 0x6001).settleEvents j
         let u : State := { ((v.tearDown j).endReservations j).clearMailbox j 256 with msixCtl := Tab.del v.msixCtl j }
         ((({ u with groups := u.groups.map (fun (p : Nat × Group) => if p.2.inst = j then (p.1, { p.2 with deficit := 0 }) else p) } : State).updInst
           j (fun x => { x with rdy := false, disabling := false, sqs := [], cqs := [], hold := [], aers := [] })).endQuiesce
             j).leaveControl j))) ∧
    (s.takeCmd 0 sq cid 0x12 = some c → j = 0 →
      (s.dev.causes = [] → exec (.resumeInstance 0 sq cid) s =
        .next ((s.setDev (fun d => { d with contained := false })).finish c.no 0 0 0)) ∧
      (s.dev.causes ≠ [] → exec (.resumeInstance 0 sq cid) s = .next (s.finish c.no 0x100A 0 0))) ∧
    (∀ k, s.running = true → s.inst? k = none → exec (.functionLevelReset k) s =
      .next { s with winRegs := s.winRegs.filter (fun p => p.1 / 2 ^ 20 != k), msixCtl := Tab.del s.msixCtl k }) ∧
    (∀ i op, i ≠ 0 → s.takeCmd i sq cid op = some c →
      (op = 0x10 → exec (.createInstance i sq cid) s = .next (s.finish c.no 0x1001 0 0)) ∧
      (op = 0x11 → exec (.quiesceInstance i sq cid) s = .next (s.finish c.no 0x1001 0 0)) ∧
      (op = 0x12 → exec (.resumeInstance i sq cid) s = .next (s.finish c.no 0x1001 0 0)) ∧
      (op = 0x13 → exec (.removeInstance i sq cid) s = .next (s.finish c.no 0x1001 0 0)) ∧
      (op = 0x14 → exec (.setInstanceShare i sq cid) s = .next (s.finish c.no 0x1001 0 0)))

/-- Firmware download, commit and live activation (14_slipcase.md, 18_modes_startup.md). -/
def Obligations.FirmwareRows : Prop :=
  ∀ (s : State) (sq cid : Nat) (c : Cmd),
    (∀ b u, s.takeCmd 0 sq cid 5 = some c → c.fld 0x18 4 % 4096 = 0 → c.dataLen % 4096 = 0 →
      c.fld 0x18 4 + c.dataLen ≤ 33554432 → s.bufRead c c.dataAddr c.dataLen = .ok b u →
      exec (.firmwareImageDownload 0 sq cid) s = .next (({ u.wr .colophon (c.fld 0x18 4) b with
        col := { u.col with staged := dedup (u.col.staged ++
          (List.range (c.dataLen / 4096)).map (c.fld 0x18 4 / 4096 + ·)) } } : State).finish c.no 0 0 0)) ∧
    (let slot := c.fld 0x19 1
     let new : FwSlot := { filled := true, version := s.img 8 8, svn := s.img 6 2, digest := s.img 0x20 48 }
     let u : State := { s with col := { s.col with slots := s.col.slots.set slot new } }
     s.takeCmd 0 sq cid 6 = some c → (slot = 1 ∨ slot = 2) → slot ≠ s.dev.activeSlot → s.imgWhole = true →
      (s.dev.act.isSome = true → c.fld 0x18 1 ≤ 2 → exec (.firmwareCommit 0 sq cid) s = .next (s.endCommit c.no 0x100A 0)) ∧
      (s.dev.act = none → s.slcUp = true → (s.imgGood = true →
        (c.fld 0x18 1 = 0 → exec (.firmwareCommit 0 sq cid) s = .next (u.endCommit c.no 0 (s.img 8 8))) ∧
        (c.fld 0x18 1 = 2 → exec (.firmwareCommit 0 sq cid) s =
          .next (({ u with col := { u.col with nextSlot := slot } } : State).endCommit c.no 0 (s.img 8 8))) ∧
        (c.fld 0x18 1 = 1 → s.dev.contained = false → exec (.firmwareCommit 0 sq cid) s =
          .next { u.start c.no with dev := { s.dev with act := some { cmd := c.no, slot := slot }, actState := 2 } })) ∧
        (s.imgGood = false → c.fld 0x18 1 = 0 → exec (.firmwareCommit 0 sq cid) s = .next (s.endCommit c.no 0x5004 0)))) ∧
    (∀ a, s.dev.act = some a → s.serving = true →
      (a.paused = false → s.slcUp = true → exec (.activationLoaded true) s = .next
        (let u := s.holder 2 true
         { u with dev := { u.dev with act := some { a with paused := true }, actState := 3 } })) ∧
      (a.paused = false → s.slcUp = true → exec (.activationLoaded false) s = .next (s.dropActivation 0x5004)) ∧
      (a.paused = true → exec .activationReady s = .next (({ s with
        dev := { s.dev with activeSlot := a.slot }, col := { s.col with nextSlot := a.slot } } : State).endPause a 0
          (s.slotVersion a.slot))) ∧
      (a.paused = true → exec .activationTimeout s = .next (({ s with
        dev := { s.dev with rollbacks := min 255 (s.dev.rollbacks + 1) }
        col := { s.col with slots := s.col.slots.modify a.slot (fun x => { x with rejected := true }) } } : State).endPause a
          0x5004 0)))

/-- Folio commands: loading, submitting, cancelling, and the data commands beside them (02_folios.md, 06_quire_units.md, 07_collator.md, 08_pager_press.md, 11_host_queues.md). -/
def Obligations.FolioRows : Prop :=
  ∀ (s : State) (i sq cid : Nat) (c : Cmd),
    (s.openCmd i sq cid 0x40 = some c →
      (c.phase = .fetched → s.dev.contained = true → exec (.loadFolio i sq cid) s = .next ((s.start c.no).finish c.no 0x100A 0 0)) ∧
      (∀ b u, s.dev.contained = false → (s.start c.no).slotBusy c = false → 256 ≤ c.dataLen → c.dataLen ≤ 67108864 →
        (s.start c.no).bufRead c c.dataAddr c.dataLen = .ok b u →
        (folioOk b = true → exec (.loadFolio i sq cid) s = .next (u.storeFolio c b)) ∧
        (folioOk b = false → exec (.loadFolio i sq cid) s = .next (u.finish c.no 0x1005 0 0)))) ∧
    (s.openCmd i sq cid 0x41 = some c → (∀ p, p ∈ s.runs → p.2.cmd ≠ c.no) →
      (c.phase = .fetched → s.dev.contained = true → exec (.submitFolio i sq cid) s = .next ((s.start c.no).finish c.no 0x100A 0 0)) ∧
      (s.dev.contained = false → (s.start c.no).loadAhead c = false →
        (Tab.find s.folios (folioKey i (c.fld 0x18 1)) = none →
          exec (.submitFolio i sq cid) s = .next ((s.start c.no).finish c.no 0x1002 0 0)) ∧
        (∀ f u, Tab.find s.folios (folioKey i (c.fld 0x18 1)) = some f → reportMin f.image ≤ c.dataLen →
          (∀ j, j < foSigs f.image → (s.start c.no).submitOk i f.image j = true) →
          (s.start c.no).checkSources c f.image (foSigs f.image - c.prog) = .ok true u →
          exec (.submitFolio i sq cid) s = .next (u.beginRun c f.image)))) ∧
    (s.takeCmd i sq cid 0x42 = some c →
      let target := (s.start c.no).cmds.find? (fun y => y.inst == i && y.sq == c.fld 0x18 2 && y.cid == c.fld 0x1A 2
        && y.op == 0x41 && y.phase == .running)
      (target = none → exec (.cancelFolio i sq cid) s = .next ((s.start c.no).finish c.no 0x1002 0 0)) ∧
      (∀ t k r, target = some t → s.runs.find? (fun p => p.2.cmd == t.no) = some (k, r) → r.finish = none →
        exec (.cancelFolio i sq cid) s = .next (((((s.start c.no).updRun k (fun r => { r with cancelled := true })).stopRun
          k 0).settle k).finish c.no 0 0 0))) ∧
    (s.openCmd i sq cid 0x43 = some c →
      (1 ≤ c.fld 0x18 2 → c.fld 0x18 2 ≤ 4096 → 32 * c.fld 0x18 2 ≤ c.dataLen → exec (.loadSegments i sq cid) s =
        .next ((s.start c.no).rangeOps (c.fld 0x18 2) (c.fld 0x18 2 - c.prog) c)) ∧
      (c.fld 0x18 2 = 0 ∨ 4096 < c.fld 0x18 2 → exec (.loadSegments i sq cid) s =
        .next ((s.start c.no).finish c.no 0x1002 0 0))) ∧
    (∀ b u v, s.openCmd i sq cid 0x44 = some c →
      (s.start c.no).devRead (.cmd c.no) i (c.fld 0x18 8) c.dataLen = .ok b u → u.bufWrite c c.dataAddr b = .ok () v →
      exec (.readResults i sq cid) s = .next ((v.forget (.cmd c.no)).finish c.no 0 0 0)) ∧
    (∀ img u, s.openCmd i sq cid 0x45 = some c → (s.start c.no).bufRead c c.dataAddr c.dataLen = .ok img u →
      let qs := (List.range 16).filter (bitAt (c.fld 0x18 2))
      let mask := c.fld 0x20 8
      (thumbImageOk img = false → exec (.thumbLoad i sq cid) s = .next (u.finish c.no 0x1002 0 0)) ∧
      (thumbImageOk img = true → (∀ r, r ∈ thumbRecs img → r.slot < 1024 * popcount 64 mask) →
        (∀ q, q ∈ qs → u.thumbDenied i q mask = false) →
        let clears := bitAt (fld img 0xC 4) 0
        let banks := if clears then mask
          else (thumbRecs img).foldl (fun m r => m ||| (1 <<< (slotEntry mask r.slot / 1024))) 0
        (∀ v, u.beginWrites qs i banks (c.prog == 1) = .ok v → exec (.thumbLoad i sq cid) s =
          .next (((State.thumbImageIn (if clears then v.thumbClearIn qs i mask else v) qs i mask img).forget
            (.cmd c.no)).finish c.no 0 (thumbCount img) 0)) ∧
        (∀ v, u.beginWrites qs i banks (c.prog == 1) = .error v →
          exec (.thumbLoad i sq cid) s = .next (v.updCmd c.no (fun c => { c with prog := 1 })))))

/-- Cutting, dispatching and committing leaves, delivering batches, reports and trace rings (02_folios.md, 03_trimmers.md, 06_quire_units.md, 07_collator.md). -/
def Obligations.LeavesBatchesAndReports : Prop :=
  ∀ (s : State), s.running = true →
    (∀ (i sub sig : Nat) (r : Run) (u u0 : State) (c : Cut),
      let k := runKey i sub
      u0 = s.settle k → u0.run? k = some r → r.finish = none → r.stop = 0 → r.cancelled = false → sig < r.sigs.length →
      (r.sig sig).state = .running → (r.sig sig).drained = false → (r.sig sig).building = false → (sigInfo r.image sig).source = 1 →
      u0.running = true →
      (u0.planScan r (sigInfo r.image sig) (r.sig sig) = .leaf c u → (u.spawnsOf i).length < u.slotsFree i →
        exec (.cutLeaf i sub sig) s = .next ((((u.cutWait i sub sig false).insertLeaf k sig r (sigInfo r.image sig) c).endSlotWait
          i).settle k)) ∧
      (u0.planScan r (sigInfo r.image sig) (r.sig sig) = .drained u →
        exec (.cutLeaf i sub sig) s = .next ((u.updSig k sig (fun x => { x with drained := true })).settle k))) ∧
    exec .dispatchPass s = .next s.dispatchPass ∧
    (∀ (w : Word) (l : Leaf), s.leaf? w.toNat = some l → l.state = .committing →
      exec (.commitApplied w) s = .next ((s.arbiterOrder l).foldl State.acceptCommit s)) ∧
    (∀ (i sub : Nat) (r : Run) (c : Cmd) (u v : State), (s.settle (runKey i sub)).run? (runKey i sub) = some r →
      (s.settle (runKey i sub)).cmds.find? (fun c => c.no == r.cmd) = some c → r.finish.isSome = true → r.awaitsFault = false →
      (s.settle (runKey i sub)).devWrites (.cmd c.no) i r.endRecords = (some u, v) →
      ∀ w : State, u.bufWrite c c.dataAddr (r.report c.dataLen) = .ok () w →
      exec (.completionReportWrite i sub) s = .next
        (({ w.forget (.cmd c.no) with runs := Tab.del w.runs (runKey i sub) } : State).finish c.no r.status r.sub 0)) ∧
    (∀ t : Nat, exec (.trimmerBatch t) s = .next (s.serveFirst t ((s.trim t).leaves.take 4))) ∧
    (∀ q : Nat, ∃ order, order.Perm (s.merges q) ∧ exec (.mergerBatch q) s = .next (s.serveMerges q order)) ∧
    (∀ v : Word, exec (.traceRingEnable none v) s = .next (s.writeRing 0 v.toNat)) ∧
    (∀ (i : Nat) (v : Word), i < 128 → (s.inst? i).isSome = true →
      exec (.traceRingEnable (some i) v) s = .next (s.writeRing (i + 1) v.toNat))

/-- Faults of engines, controllers, control blocks and the Spine (04_engines.md, 19_faults.md). -/
def Obligations.DetectedFaults : Prop :=
  ∀ (s : State), s.running = true →
    (∀ e r l, s.engRun e = some r → s.leaf? r.leaf = some l → s.waitsOutside e r l = false →
      exec (.stallWatchdogExpiry e) s = .next (s.engineFault e 6 false)) ∧
    (∀ e mech, 1 ≤ mech → mech ≤ 3 → exec (.engineFaultDetected e mech) s = .next (s.engineFault e mech false)) ∧
    (∀ (e : Nat) (f : EngFault) (rest : List EngFault), (s.engOf e).faults = f :: rest → f.injected = false → f.sag = false →
      f.last = false → ∀ u : State, u = s.updEng e (fun x => { x with faults := rest }) →
      ∀ (n : Nat) (hit : Bool) (v : State), u.countEvent 1 f.phys (u.threshold 0).1 (u.threshold 0).2 = (n, hit, v) →
      ∀ w : State, w = v.logFh { kind := 0x0101, status := 0, outcome := 1, mech := f.mech, inst := f.leaf / 2 ^ 57
                                 resType := 1, resIdx := f.phys, count := n, leaf := f.leaf, data := leBytes 4 e } →
      exec (.engineFaultCount e) s = .next (if hit && w.phys e == some f.phys then w.retireDue e f.phys n else w)) ∧
    (s.serving = true →
      (∀ c, c < 256 → exec (.progressMonitorExpiry (.channel c)) s = .next ((s.logStuck 4 3 c).startMapOut c)) ∧
      (∀ u, u < 32 → exec (.progressMonitorExpiry (.press u)) s = .next (((s.logStuck 2 7 u).pressStuck u 0x4002).pressCount u)) ∧
      (∀ k, exec (.progressMonitorExpiry (.other k)) s = .next ((s.logStuck 5 0x0C k).openControl 7 0x0C k)) ∧
      (∀ (b : ControlBlock) (die : Nat) (req : Option (Nat × Nat × Nat)), die < 4 →
        exec (.controlFaultDetected b die false req) s = .next (s.logFh
          { kind := 0x0A04, outcome := 1, mech := 2, resType := 0x0C, resIdx := die, data := leBytes 4 (blockCode b) }) ∧
        exec (.controlFaultDetected b die true none) s = .next ((s.logFh
          { kind := 0x0A04, status := 0x4002, outcome := 5, mech := 2, resType := 0x0C, resIdx := die
            data := leBytes 4 (blockCode b) }).openControl (blockCause b) 0x0C die)) ∧
      (∀ g, s.armed 5 g = false → exec (.spineFaultDetected (.transfer g)) s = .next (s.logFh
        { kind := 0x0A04, outcome := 0, mech := 3, resType := 6, resIdx := g })) ∧
      (∀ g, exec (.spineFaultDetected (.transferAgain g)) s = .next ((s.logFh
        { kind := 0x0A04, status := 0x4002, outcome := 5, mech := 3, resType := 6, resIdx := g }).openControl 4 6 g)) ∧
      (∀ b w, exec (.spineFaultDetected (.wire b w)) s = .next (s.wireFault b w)))

/-- Copy commands, descriptors in progress, faults and resume doorbells (16_copy_engines.md). -/
def Obligations.CopyRows : Prop :=
  (∀ (s : State) (i sq cid : Nat) (c : Cmd), s.openCmd i sq cid 0x46 = some c →
    ((s.start c.no).copyOf i (c.fld 0x18 1) = none →
      exec (.copy i sq cid) s = .next ((s.start c.no).finish c.no 0x1002 0 0)) ∧
    (∀ ch x b u, (s.start c.no).copyOf i (c.fld 0x18 1) = some ch → (s.start c.no).copyChan ch = some x →
      bitAt ((s.start c.no).reg 0x110) ch = false → x.state ≠ 1 → c.fld 0x20 8 % 64 = 0 → c.fld 0x20 8 ≠ 0 →
      (s.start c.no).bufRead c (c.fld 0x20 8) 64 = .ok b u →
      ((copyDesc b).ok = true → exec (.copy i sq cid) s = .next (((u.updCopy ch (fun x => { x with
        state := 1, cur := c.fld 0x20 8 + b2n c.devAddr, desc := some b, pos := 0, done := false, next := 0, fault := 0
        halt := false, resume := false })).forget (.cmd c.no)).finish c.no 0 0 0)) ∧
      ((copyDesc b).ok = false → exec (.copy i sq cid) s = .next
        (((u.forget (.cmd c.no)).updCopy ch (·.halted 0x1002)).finishAt c.no 0x1002 0 0 (c.fld 0x20 8))))) ∧
  (∀ (s : State) (c : Nat) (x : CopyChan), s.running = true → s.copyChan c = some x → x.state = 1 →
    (x.fault = 0 → x.done = false →
      (∀ b, x.desc = some b → exec (.copyDescriptorStart c) s =
        .next (s.moveBeats c x.inst (copyDesc b) ((copyDesc b).len / 32768 + 4) x.pos)) ∧
      (∀ b u, x.desc = none → s.descRead c x.inst x.next 64 = .ok b u → (copyDesc b).ok = true →
        exec (.copyDescriptorStart c) s = .next ((u.updCopy c (fun x => { x with
          cur := x.next, next := 0, desc := some b, pos := 0 })).pastArrivals.moveBeats c x.inst (copyDesc b)
            ((copyDesc b).len / 32768 + 4) 0)) ∧
      (∀ b cause, x.desc = some b → exec (.copyDescriptorFail c cause) s =
        .next ((s.copyJunk x.inst (copyDesc b) x.pos).copyFail c (copyStatus cause))) ∧
      (∀ b u v, x.desc = some b → (copyDesc b).len ≤ x.pos → (s.copyBack c x (copyDesc b) 0).1 = some u →
        v = (if (copyDesc b).intr then u.signal x.inst (copyDesc b).iv else u) →
        exec (.copyDescriptorComplete c) s =
          .next (((v.forget (.copy c)).updCopy c (fun x => { x with done := true })).takeNext c))) ∧
    (∀ (d t : Word) (cause : Nat), exec (.copyLateWriteError c d t cause) s = .next (s.lateError c d.toNat t.toNat cause)) ∧
    (∀ (i k : Nat) (h : HostStores) (y : Inst), s.serving = true → s.inst? i = some y → y.quiescing = false →
      y.quiesced = false → s.copyOf i k = some c → (s.hostStore i h).serving = true →
      (s.hostStore i h).inst? i = some y → (s.hostStore i h).copyOf i k = some c → (s.hostStore i h).copyChan c = some x →
      exec (.copyResumeDoorbell i k h) s = .next ((s.hostStore i h).updCopy c (fun y => { y with resume := true })))) ∧
  (∀ (s : State) (i k c : Nat) (h : HostStores) (x : CopyChan) (y : Inst), (s.hostStore i h).serving = true →
    (s.hostStore i h).inst? i = some y → y.quiescing = false → y.quiesced = false → (s.hostStore i h).copyOf i k = some c →
    (s.hostStore i h).copyChan c = some x → x.state = 2 → exec (.copyResumeDoorbell i k h) s =
      .next (((s.hostStore i h).updCopy c (fun y => { y with
        state := 1, resume := false, desc := some (zeros 64), pos := 64, done := true })).takeNext c))

/-- Cipher, digest and Press jobs: taken, run on a unit and completed (08_pager_press.md, 15_cipher_digest.md). -/
def Obligations.CipherDigestAndPressRows : Prop :=
  (∀ (s : State) (i sq cid : Nat) (c : Cmd), s.openCmd i sq cid 0x47 = some c → c.prog ≠ 1 →
    ((s.start c.no).cmds.any (fun y => y.inst == i && y.op == 0x47 && y.open_ && decide (y.no < c.no))) = false →
    ((c.cFormOk = false ∨ ((s.start c.no).cryPage i).admits c = false) →
      exec (.cipher i sq cid) s = .next ((s.start c.no).cipherFail c 0x1002 0)) ∧
    (c.cFormOk = true → ((s.start c.no).cryPage i).admits c = true → c.cOut ≤ c.dataLen → c.cAuto = false →
      (((s.start c.no).cryPage i).message c c.cIv).spent c.cLen = false → c.cMode ≠ 3 → c.cKeep = false →
      exec (.cipher i sq cid) s = .next ((s.start c.no).updCmd c.no (fun c => { c with prog := 1, result := 0 })))) ∧
  (∀ (s : State) (i sq cid : Nat) (c : Cmd), s.takeCmd i sq cid 0x48 = some c →
    (c.dOk = true → ∃ t, exec (.digest i sq cid) s = .next t ∧ t.cry.wait = s.cry.wait ++ [c.no] ∧ t.mem = s.mem) ∧
    (c.dOk = false → exec (.digest i sq cid) s = .next (s.finish c.no 0x1002 0 0))) ∧
  (∀ (s : State) (i sq cid : Nat) (c : Cmd),
    (s.takePress i sq cid 0 = some c → c.compressLegal s = true → s.col.retPress.length < 32 →
      exec (.pressCompress i sq cid) s = .next (s.queuePress c true) ∧
      (s.queuePress c true).press.waiting = s.press.waiting ++ [{ cmd := some c.no, inst := c.inst, fmt := c.prsFmt }]) ∧
    (s.takePress i sq cid 1 = some c → c.decompressLegal = true → s.col.retPress.length < 32 →
      exec (.pressDecompress i sq cid) s = .next (s.queuePress c true)) ∧
    (∀ u, s.takePress i sq cid 2 = some c → c.prsFmt = 3 → c.fld 0x28 4 ≤ 1048576 →
      (s.press.dicts.filter (fun p => p.1 / 2 ^ 32 == i)).length < 256 →
      s.devCheck (.cmd c.no) i (c.fld 0x20 8) (c.fld 0x28 4) false = .ok () u →
      exec (.pressRegisterDictionary i sq cid) s = .next (({ u with press := { u.press with
        dicts := Tab.set u.press.dicts (i * 2 ^ 32 + c.fld 0x38 4) (c.fld 0x20 8, c.fld 0x28 4) } } : State).finish c.no 0 0 0))) ∧
  (∀ s : State, s.running = true →
    (∀ (page : Nat) (c : Cmd), s.cmds.find? (fun y => y.inst == page && y.op == 0x47 && y.phase == .running && y.prog == 1) = some c →
      ∀ cores : List Nat, exec (.cipherJobComplete page cores) s = .next ((cores.foldl State.coreFault s).cipherEnd c)) ∧
    (∀ (u no : Nat) (rest : List Nat), s.cry.wait = no :: rest → (∀ n, n ∈ rest → s.digInst n = s.digInst no) →
      (List.range 16).find? (fun u => !Tab.has s.cry.units u) = some u →
      exec .digestJobStart s = .next { s with cry := { s.cry with
        wait := rest, rr := s.digInst no, units := Tab.set s.cry.units u no } }) ∧
    (∀ (unit no : Nat) (c : Cmd) (u v : State), Tab.find s.cry.units unit = some no → s.cmds.find? (fun c => c.no == no) = some c →
      s.digestEnd c = (some u, v) → exec (.digestJobComplete unit false) s =
        .next { u with cry := { u.cry with units := Tab.del u.cry.units unit } }) ∧
    (∀ (unit no : Nat) (c : Cmd), Tab.find s.cry.units unit = some no → s.cmds.find? (fun c => c.no == no) = some c →
      ∃ t, exec (.digestJobComplete unit true) s = .next t ∧ Tab.find t.cry.units unit = none ∧ t.mem = (s.digestBroken c).mem) ∧
    (∀ u j rest rr, s.paused = false → s.freeUnit = some u → s.nextJob = some (j, rest, rr) →
      exec .pressJobStart s = .next { s with press := { s.press with
        waiting := rest, rr := rr, units := Tab.set s.press.units u { j with dicts := s.dictsOf j.inst } } }) ∧
    (∀ u j, Tab.find s.press.units u = some j →
      (j.cmd = none → exec (.pressJobComplete u false) s = .next (s.endPageJob j u)) ∧
      (∀ no c, j.cmd = some no → s.cmds.find? (fun c => c.no == no) = some c → s.streamBusy c u = false →
        exec (.pressJobComplete u false) s = .next (s.runPress c j u)) ∧
      exec (.pressJobComplete u true) s = .next (s.pressBroken u)))

/-- The sweep, page moves, zeroing and the page-table walk (08_pager_press.md). -/
def Obligations.PagerRowsComplete : Prop :=
  ∀ s : State, s.running = true →
    (∀ (i f : Nat) (u : State), (s.inst? i).isSome = true → s.evicting i = false →
      (s.quotaFree i < s.regField offPgrCfg 15 8 ∨ s.frameWanted i = true) →
      s.sweepVictim i (2 * (s.framesOf i).length + 1) = (some f, u) →
      (u.pagesIn f = [] → exec (.pagerSweep i) s = .next (u.releaseFrame f)) ∧
      (u.pagesIn f ≠ [] → exec (.pagerSweep i) s = .next (match u.startEvicts (u.pagesIn f) with
        | .going v => v.retireFrames
        | .soon v => (v.handBack i f).retireFrames
        | .full => if u.frameWanted i then u.failForRoom i else u))) ∧
    (∀ i va, exec (.pageEvictComplete i va) s = .next (s.finishEvict i va)) ∧
    (∀ i va bad, exec (.pageRestoreComplete i va bad) s = .next ((s.restorePage i va bad).traceRestored.placeRestored i)) ∧
    (∀ f d, f < 262144 → s.frame? f = some d → d.use = 4 → exec (.frameZeroComplete f) s = .next (s.zeroFrame f).retireFrames) ∧
    (∀ f d, f < 262144 → s.frame? f = some d → d.use = 4 → s.hbm.retiring = [] → ∃ t,
      exec (.frameZeroComplete f) s = .next t ∧
      t.frame? f = none ∧
      (∀ a, a < 2097152 → Mem.read t.mem (Space.hbm.base + f * 2097152 + a) = 0) ∧
      (∀ k, k < Space.hbm.base + f * 2097152 ∨ Space.hbm.base + f * 2097152 + 2097152 ≤ k →
        Mem.read t.mem k = Mem.read s.mem k)) ∧
    (∀ v : Word, s.dev.cold = false → v.getLsbD 0 = true → ∃ t, exec (.pageTableWalk v) s = .next t ∧
      bitAt (t.reg offWalkCtrl) 0 = true ∧ ∀ off, off ≠ offWalkCtrl → t.reg off = s.reg off) ∧
    (∀ lvl w0 w1, bitAt (s.reg offWalkCtrl) 0 = true → s.tdiLocked (bits (s.reg offWalkAddr) 54 48) = false →
      s.walk (bits (s.reg offWalkAddr) 54 48) (bits (s.reg offWalkAddr) 47 0) = (lvl, w0, w1) → ∃ t,
      exec .pageTableWalkComplete s = .next t ∧ t.reg 0x300040 = w0 % 2 ^ 64 ∧ t.reg 0x300048 = w1 % 2 ^ 64 ∧
      bitAt (t.reg offWalkCtrl) 0 = false ∧ t.mem = s.mem)

/-- Region sets, scrub, march tests and Thumb banks (05_quire_memory.md, 06_quire_units.md). -/
def Obligations.QuireAndThumbRows : Prop :=
  (∀ (s : State) (i k : Nat) (v : Word), s.serving = true → i < 128 → k < 8 → s.rsetOpen i = true →
    let w := v.toNat &&& 0x807007FF000007FF
    ((∀ j, j < 128 → j ≠ i → ∀ m, m < 8 → rsetOverlap w (s.reg (offRset j m)) = false) →
      bits w 10 0 ≤ bits w 42 32 → bits w 42 32 ≤ 0x5FF → exec (.qmRsetWrite i k v) s = .next (s.setReg (offRset i k) w)) ∧
    (bits w 42 32 < bits w 10 0 → exec (.qmRsetWrite i k v) s = .next s)) ∧
  (∀ (s : State) (q off : Nat), s.running = true → q < 16 → off < 0x1100000 →
    exec (.qmScrubRead q off .clean) s = .next (if off < 0x800000 then s.qmCount q 21 1 else s) ∧
    (off < 0x800000 → exec (.qmScrubRead q off .uncorrectable) s = .next (((s.qmCount q 21 1).addPoison (.quire q)
      (off / 8 * 8) 8).logFh
      { kind := 0x0201, status := 0x3001, outcome := 2, mech := 9, resType := 2
        resIdx := q + bits (off / 8 * 8) 8 3 * 256, addr := off / 8 * 8, data := leBytes 8 (off / 8 * 8) }))) ∧
  (∀ (s : State) (q : Nat) (v : Word), s.running = true → s.dev.cold = false → s.paused = false → q < 16 →
    v.getLsbD 0 = true → bits v.toNat 5 4 < 2 → (s.quire q).march.busy = false → (s.quire q).march.wait = false →
    ∃ t, exec (.marchStart q v) s = .next t ∧ (t.quire q).drain = true ∧ (t.quire q).march.wait = true ∧
      (t.quire q).march.mode = bits v.toNat 5 4 ∧ t.dev.maint.contains 0 = true ∧
      ∀ j, j ≠ q → t.quire j = s.quire j) ∧
  (∀ (s : State) (q : Nat), s.running = true →
    ((s.quire q).march.wait = true → s.quireBusy q = false → (s.quire q).march.target = 1 →
      ∃ t, exec (.marchRun q [] false) s = .next t ∧ (t.quire q).march.busy = true ∧
        (t.quire q).march.run = some (0, 0, 0, false)) ∧
    ((s.quire q).march.run = some (0, 0, 0, false) → ∃ t, exec (.marchComplete q) s = .next t ∧
      (t.quire q).drain = false ∧ (t.quire q).march.result = 1 ∧ (t.quire q).march.fails = 0 ∧
      (t.quire q).march.busy = false)) ∧
  (∀ (s : State) (q bank : Nat) (b : Bank), s.running = true → bank < 64 → Tab.find s.banks (q * 64 + bank) = some b →
    (s.regField offThxIdle 15 0 ≠ 0 → s.heldAwake q bank = false → ∃ t, exec (.thumbBankRetention q bank) s = .next t ∧
      Tab.find t.banks (q * 64 + bank) = some { b with retained := true } ∧
      ∀ j, j ≠ q * 64 + bank → Tab.find t.banks j = Tab.find s.banks j) ∧
    (b.waking = true → (∀ p, p ∈ s.runs → p.2.sigs.any (·.building) = false) → ∃ t,
      exec (.thumbBankWakeComplete q bank) s = .next t ∧
      Tab.find t.banks (q * 64 + bank) = some { b with retained := false, waking := false })) ∧
  (∀ (s : State) (q : Nat), s.running = true → q < 16 → ∃ t, exec (.thumbThrottleUpdate q) s = .next t ∧
    t = s.updQuire q (fun x => { x with throttle := if s.throttles then s.throttleOf q else 0 }))

/-- Refresh, scrub, recalibration and map-out of channels, and the expander links (09_memory_controllers.md). -/
def Obligations.MemoryControllerRows : Prop :=
  ∀ s : State, s.running = true →
    (∀ c bank, c < 256 → bank < 128 → ((s.chan c).state = 1 ∨ (s.chan c).state = 2) →
      let d := Tab.get (s.chan c).refreshed bank 0
      (d < s.owed (s.chan c) + 8 → ∃ t, exec (.hbmRefresh c bank) s = .next t ∧ Tab.find (t.chan c).openRow bank = none ∧
        Tab.get (t.chan c).refreshed bank 0 = d + 1 ∧ (d / 8192 < (d + 1) / 8192 → Tab.find (t.chan c).acts bank = none) ∧
        t.mem = s.mem) ∧
      (s.owed (s.chan c) + 8 ≤ d → exec (.hbmRefresh c bank) s = .next s)) ∧
    (∀ c, c < 256 → (s.chan c).state = 1 →
      (∀ n a, n = (s.chan c).scrub → a = scrubAddr s.hbm.order c n → n + 1 ≠ 33554432 →
        Tab.find s.upsets (Space.hbm.base + a) = none → exec (.hbmScrubRead c .clean) s =
          .next ((s.touchRow a).retireFrames.updChan c (fun ch => { ch with scrub := n + 1 }))) ∧
      exec (.hbmRecalibration c true) s = .next s ∧ exec (.hbmRecalibration c false) s = .next (s.startMapOut c) ∧
      ((s.startMapOut c).dev.maint.contains 1 = true)) ∧
    (∀ c, c < 256 → (s.chan c).state = 2 →
      ((Tab.get s.trims c {}).leaves = [] → exec (.channelMigration c) s = .next (s.migrateChannel c)) ∧
      (s.usedIn c = [] → ∃ t, exec (.channelMapOutComplete c) s = .next t ∧ (t.chan c).state = 3)) ∧
    (∀ p, p < 2 →
      ((s.port p).state = 2 → ∃ t, exec (.cxlLinkDown p) s = .next t ∧ (t.port p).state = 1 ∧ (t.port p).width = 0 ∧
        t.reg (cxlReg p 0x20) = (s.reg (cxlReg p 0x20) + 1) % 2 ^ 64) ∧
      ((s.port p).state = 1 → exec (.cxlRetrainTimeout p) s = .next (s.mapOutPort p) ∧ ∃ t,
        t = ({ s with ports := Tab.set s.ports p { s.port p with state := 2, width := 4, speed := 2 } } : State).releaseHolds ∧
        exec (.cxlLinkRetrainComplete p) s = .next t))

/-- Aperture reads, answers and writes, the HBM window, and mailbox doorbells (12_lookup_aperture.md, 13_instances.md). -/
def Obligations.ApertureAndMailboxRows : Prop :=
  ∀ s : State, s.serving = true →
    (∀ w off, w < 16 →
      (bitAt (s.reg (offWinCfg w)) 63 = true → s.col.mapQuires.contains (bits (s.reg (offWinCfg w)) 35 32) = false →
        (s.apr.reads.filter (fun p => !p.2.expired)).length < 512 →
        s.thumbWake (bits (s.reg (offWinCfg w)) 35 32) (s.reg (offWinMask w)) = none →
        exec (.apertureRead w off) s = .next { s with apr := { s.apr with
          no := s.apr.no + 1
          reads := Tab.set s.apr.reads s.apr.no
            { win := w, array := bits (s.reg (offWinCfg w)) 35 32, mask := s.reg (offWinMask w), page := off / 64 % 8
              waked := false, key := BitVec.ofNat 128 (apertureKey (s.reg (offWinKeyHi w)) (s.reg (offWinKeyLo w))
                (bits (s.reg (offWinCfg w)) 5 0) off) } } }) ∧
      (bitAt (s.reg (offWinCfg w)) 63 = false →
        exec (.apertureRead w off) s = .next { s with outbox := s.outbox ++ [.line w (flagLine 8 (off / 64 % 8))] }) ∧
      (∃ t, exec (.apertureWrite w off) s = .next t ∧ t.reg (winReg_ w 0x38) = (s.reg (winReg_ w 0x38) + 1) % 2 ^ 64 ∧
        ∀ o, o ≠ winReg_ w 0x38 → t.reg o = s.reg o) ∧
      exec (.apertureSpeculativeRead w off) s = .next s ∧
      (∀ v : Word, bitAt (s.reg (offWinCfg w)) 63 = true → v.getLsbD 63 = false → ∃ t,
        exec (.apertureWindowConfigWrite w v) s = .next t ∧ bitAt (t.reg (offWinCfg w)) 63 = false ∧
          bits (t.reg (offWinCfg w)) 46 40 = bits (s.reg (offWinCfg w)) 46 40 ∧
          ∀ o, o ≠ offWinCfg w → t.reg o = s.reg o)) ∧
    (∀ n r, Tab.find s.apr.reads n = some r → r.expired = false →
      (s.thumbWake r.array r.mask = none → s.thumbTurn r.array .aperture = true → ∀ faulty, ∃ t line,
        exec (.apertureAnswer { read := n, faulty := faulty }) s = .next t ∧ Tab.find t.apr.reads n = none ∧
        t.outbox = s.outbox ++ [.line r.win line] ∧ t.thumb = s.thumb ∧
        (faulty = true ∨ s.col.mapQuires.contains r.array = true → line = flagLine 8 r.page)) ∧
      exec (.apertureDeadline n) s = .next (s.expire (.aperture n)) ∧
      (∃ t, s.late (.aperture n) = t ∧ Tab.find t.apr.reads n = some { r with expired := true } ∧
        t.outbox = s.outbox ++ [.line r.win (flagLine 4 r.page)])) ∧
    (∀ off n, bitAt (s.reg offHbmw) 63 = false →
      exec (.hbmWindowAccess off n none) s = .next { s with outbox := s.outbox ++ [.hbmwErr] }) ∧
    (∀ off h r, bitAt (s.reg offHbmw) 63 = true → Tab.find s.hdm 16 = some h → h.committed = true →
      s.range? (bits (s.reg offHbmw) 62 56) (bits (s.reg offHbmw) 47 21 * mib2 + off) = some r → r.direct = false → r.home = 0 →
      (∀ n b u, off + n ≤ h.size →
        s.devRead .window (bits (s.reg offHbmw) 62 56) (bits (s.reg offHbmw) 47 21 * mib2 + off) n = .ok b u →
        exec (.hbmWindowAccess off n none) s = .next (u.emit (.hbmw b))) ∧
      (∀ b n u, off + b.length ≤ h.size →
        s.devWrite .window (bits (s.reg offHbmw) 62 56) (bits (s.reg offHbmw) 47 21 * mib2 + off) b = .ok () u →
        exec (.hbmWindowAccess off n (some b)) s = .next (u.forget .window))) ∧
    (∀ i x (v : Word), i ≠ 0 → s.inst? i = some x →
      (x.mbx.refuses true v.toNat = false →
        exec (.mailboxUpDoorbell i v) s = .next ((s.updMbx i (fun m => m.ring true v.toNat)).signalManager i)) ∧
      (x.mbx.refuses false v.toNat = false →
        exec (.mailboxDownDoorbell i v) s = .next ((s.updMbx i (fun m => m.ring false v.toNat)).signalTenant i)) ∧
      (x.mbx.refuses true v.toNat = true →
        exec (.mailboxUpDoorbell i v) s = .next (s.updMbx i (fun m => m.ring true v.toNat))) ∧
      (∀ up, bitAt x.mbx.status (mbxWait up) = true →
        exec (.mailboxTimeout i up) s = .next (s.expire (.mailbox i up)) ∧
        ∃ y, (s.late (.mailbox i up)).inst? i = some y ∧ bitAt y.mbx.status (mbxWait up) = false ∧
          bitAt y.mbx.status (mbxTimedOut up) = true))

/-- The Slipcase's restarts and reserve, the policy, the fuse, and the host's side requests (14_slipcase.md, 20_electrical.md, 21_registers.md). -/
def Obligations.SlipcaseLifeRows : Prop :=
  (∀ s : State, s.running = true → s.slcUp = true → s.dev.act = none →
    (∃ t, exec .slipcaseWatchdogExpiry s = .next t ∧ t.slc.state = 2 ∧ t.slc.restarts = s.slc.restarts + 1 ∧ t.slc.sessions = 0) ∧
    (∃ t, exec .lockstepMismatch s = .next t ∧ t.slc.state = 2 ∧ t.slc.restarts = s.slc.restarts + 1 ∧ t.slc.sessions = 0) ∧
    (∀ x dom hours owner, s.secured x = true → s.col.domain = none → ∃ t, exec (.setDomainPolicy x dom hours owner) s = .next t ∧
      t.col.domain = some { domain := padTo dom 16, rekeyHours := hours, ownerHash := padTo owner 48 }) ∧
    (∀ x svn, s.secured x = true → s.isOwner x = true → s.col.fuseSvn ≤ svn → svn ≤ s.slc.activeSvn → svn ≤ 64 →
      ∃ t, exec (.advanceFuseSvn x svn) s = .next t ∧ t.col.fuseSvn = svn) ∧
    ((∀ p, p ∈ s.insts → Tab.has s.xts p.1 = true) → ∃ t, exec .xtsReserveRefill s = .next t ∧
      t.slc.reserve = min 16 (s.slc.reserve + 1) ∧ t.xts = s.xts) ∧
    (∀ p, s.insts.find? (fun p => !Tab.has s.xts p.1) = some p → ∃ t, exec .xtsReserveRefill s = .next t ∧
      Tab.has t.xts p.1 = true ∧ t.slc = s.slc)) ∧
  (∀ (s t : State) x svn, exec (.advanceFuseSvn x svn) s = .next t → s.col.fuseSvn ≤ t.col.fuseSvn ∧
    (t.col.fuseSvn ≠ s.col.fuseSvn → s.secured x = true ∧ s.isOwner x = true ∧ t.col.fuseSvn ≤ s.slc.activeSvn)) ∧
  (∀ s : State, s.running = true → s.slc.state = 2 → ∃ u, exec .slipcaseRestartComplete s = .next u ∧
    (s.assocs = [] → u.slc.state = if s.slc.golden then 3 else 1)) ∧
  (∀ s : State, s.running = true →
    (∀ k b n, k < 20 → exec (.hdmDecoderCommit k b n) s =
      .next { s with hdm := Tab.set s.hdm k { base := b, size := n, committed := true } }) ∧
    (∀ i a n, exec (.atsInvalidation i a n) s = .next { s with outbox := s.outbox ++ [.atsDone i a n] }) ∧
    (∀ r, 2 ≤ s.dev.coldStep ∨ s.dev.cold = false → ∃ t o, exec (.smbusMctpMessage r) s = .next t ∧
      t.outbox = s.outbox ++ [.mctp o] ∧ t.pins.alertN = ((r && !s.securePin 1) || s.pins.alertN) ∧ t.regs = s.regs))

/-- SPDM requests, IDE keys and device interfaces answer, and change what they name (14_slipcase.md). -/
def Obligations.SpdmIdeAndTdispRows : Prop :=
  let answered := fun (s t : State) => t.outbox.length = s.outbox.length + 1
  (∀ (s : State) (x : Session), s.running = true → s.slcUp = true → s.secured x = true →
    (∀ r, ∃ t, exec (.spdmRequest x r) s = .next t ∧ answered s t ∧
      (r = .finish → t.slc.sessions = s.slc.sessions + 1) ∧ (r = .endSession → t.slc.sessions = s.slc.sessions - 1) ∧
      (r ≠ .finish → r ≠ .endSession → t.slc = s.slc) ∧ t.col = s.col) ∧
    (∀ stream, ∃ o, exec (.ideKmQuery x stream) s = .next { s with outbox := s.outbox ++ [o] }) ∧
    (∀ stream dir slot key, stream ≤ 8 → dir ≤ 1 → slot ≤ 1 →
      (∃ t, exec (.ideKmKeyProg x stream dir slot key) s = .next t ∧ answered s t ∧
        Tab.find t.slc.ide (stream * 4 + dir * 2 + slot) = some { key := key }) ∧
      (∀ y, Tab.find s.slc.ide (stream * 4 + dir * 2 + slot) = some y →
        (∃ t, exec (.ideKmKeySetGo x stream dir slot) s = .next t ∧ answered s t ∧
          Tab.find t.slc.ide (stream * 4 + dir * 2 + slot) = some { y with go := true }) ∧
        (∃ t, exec (.ideKmKeySetStop x stream dir slot) s = .next t ∧ answered s t ∧
          Tab.find t.slc.ide (stream * 4 + dir * 2 + slot) = some { y with go := false })))) ∧
  (∀ (s : State) (vf : Nat) (x : Inst), s.running = true → s.inst? vf = some x → vf ≠ 0 →
    (s.slcUp = true →
      (s.tdi vf = 0 → (∀ p, p ∈ x.sqs → p.1 = 0) → (∀ p, p ∈ x.cqs → p.1 = 0) → ∃ t, exec (.lockInterface vf) s = .next t ∧
        answered s t ∧ t.tdi vf = 1) ∧
      (∃ o, exec (.getDeviceInterfaceReport vf) s = .next { s with outbox := s.outbox ++ [o] }) ∧
      (∀ stream, s.tdi vf = 1 → ∃ t, exec (.tdiRun vf stream) s = .next t ∧ answered s t ∧
        Tab.find t.slc.tdis vf = some { state := 2, stream := stream })) ∧
    (s.tdiLocked vf = true → ∃ t, exec (.tdiRequestRejected vf) s = .next t ∧ t.tdi vf = 3 ∧ t.dmaStopped vf = true) ∧
    (s.slc.state = 2 → ∀ stream, exec (.tdiRun vf stream) s = .next { s with outbox := s.outbox ++ [spdmError 3] } ∧
      exec (.lockInterface vf) s = .next { s with outbox := s.outbox ++ [spdmError 3] }))

/-- Association commands, and what each kind of received frame is handed to (10_fabric.md). -/
def Obligations.AssociationsAndFrames : Prop :=
  (∀ (s : State) (i sq cid : Nat) (c : Cmd),
    (s.takeAssocCmd i sq cid 1 = some c → c.fld 0x18 1 = 1 → c.fld 0x1A 2 < 4096 →
      Tab.has s.inboxes (boxKey i (c.fld 0x1A 2)) = false → s.boxRegionOk i (c.fld 0x28 8) (c.fld 0x30 8) = true →
      exec (.associationBind i sq cid) s = .next (({ s with
        inboxes := Tab.set s.inboxes (boxKey i (c.fld 0x1A 2)) { inst := i, base := c.fld 0x28 8, len := c.fld 0x30 8 } } : State).finish c.no 0 0 0)) ∧
    (s.takeAssocCmd i sq cid 2 = some c → c.fld 0x1A 2 < 4096 → Tab.has s.inboxes (boxKey i (c.fld 0x1A 2)) = true →
      s.feeders (boxKey i (c.fld 0x1A 2)) = [] → s.inboxBusy i (c.fld 0x1A 2) = false →
      exec (.associationUnbind i sq cid) s =
        .next (({ s with inboxes := Tab.del s.inboxes (boxKey i (c.fld 0x1A 2)) } : State).finish c.no 0 0 0)) ∧
    (s.takeAssocCmd i sq cid 3 = some c →
      (s.slcUp = false → exec (.associationOpen i sq cid) s = .next (s.finish c.no 0x5003 0 0)) ∧
      (∀ b u x (ps : List Path), s.slcUp = true → s.col.domain.isSome = true → 1 ≤ c.fld 0x22 1 → c.fld 0x22 1 ≤ 16 →
        c.fld 0x1A 2 < 4096 → c.fld 0x1C 2 < 4096 → c.fld 0x1E 2 < 4096 → 32 * c.fld 0x22 1 ≤ c.dataLen →
        Tab.has s.inboxes (boxKey i (c.fld 0x1A 2)) = true → s.inst? i = some x →
        s.bufRead c c.dataAddr (32 * c.fld 0x22 1) = .ok b u →
        (groups (32) (c.fld 0x22 1) b).map u.pathOfRecord = ps.map some →
        (u.assocs.filter (fun p => p.2.inst == i)).length < x.alloc.assocs → u.boxRoom (boxKey i (c.fld 0x1A 2)) 1 = true →
        exec (.associationOpen i sq cid) s = .next (u.openAssoc c ps))) ∧
    (∀ x, s.assoc? (c.fld 0x20 2) = some x →
      (s.takeAssocCmd i sq cid 4 = some c → x.inst = i → x.state = 2 → exec (.associationClose i sq cid) s =
        .next (((s.start c.no).updAssoc (c.fld 0x20 2) (fun x => { x with state := 3, est := none })).tryClose (c.fld 0x20 2))) ∧
      (s.takeAssocCmd i sq cid 4 = some c → x.inst ≠ i → exec (.associationClose i sq cid) s = .next (s.finish c.no 0x1002 0 0)) ∧
      (s.takeAssocCmd i sq cid 5 = some c → x.inst = i → (x.state = 2 ∨ x.state = 5) → x.est = none → x.txNext = none →
        exec (.associationRekey i sq cid) s = .next ((s.start c.no).startRekey (c.fld 0x20 2))) ∧
      (s.takeAssocCmd i sq cid 5 = some c → x.inst ≠ i → exec (.associationRekey i sq cid) s = .next (s.finish c.no 0x1002 0 0)))) ∧
  (∀ (s : State) (f : Frame), s.hears f = true →
    (∀ a t flags path seq off psn d u, s.classify f = .good a t flags path seq off psn d →
      u = (s.rxCount f).spendNonce a (flags % 2) seq →
      (t = 1 → exec (.receiveData f) s = .next (u.takeData f a path off psn flags d)) ∧
      (t = 2 → exec (.receiveAck f) s = .next (u.takeAck a d)) ∧
      (∀ x, t = 3 → u.assoc? a = some x → x.state ≠ 1 → x.state ≠ 4 →
        exec (.receiveProbe f) s = .next (u.sendSealed a (x.pathOf f) 4 0 0 0 (leBytes 8 seq))) ∧
      (t = 4 → exec (.receiveProbeReply f) s = .next (u.takeProbeReply a d)) ∧
      (t = 5 → exec (.receiveRekey f) s = .next (u.takeRekey a)) ∧
      (t = 6 → exec (.receiveClose f) s = .next (u.takeClose f a d)) ∧
      (∀ x, t = 7 → u.assoc? a = some x → x.state = 3 → x.closing = true →
        exec (.receiveCloseAck f) s = .next (u.closeDone a))) ∧
    (∀ p w, s.classify f = .establish p → ∀ in_, windowTake s.timebase 1000000000 16384 s.fab.estWin = (in_, w) →
      ∀ u : State, u = { s.rxCount f with fab := { (s.rxCount f).fab with estWin := w } } →
      (in_ = false → exec (.receiveEstablish f) s = .next { u with fab := { u.fab with estDrops := u.fab.estDrops + 1 } }) ∧
      (in_ = true → p.length = 512 →
        (fld p 0 1 = 1 → exec (.receiveEstablish f) s = .next (u.onHello f.port f.srcAddr.toNat p)) ∧
        (fld p 0 1 = 2 → exec (.receiveEstablish f) s = .next (u.onReply p)) ∧
        (fld p 0 1 = 3 → exec (.receiveEstablish f) s = .next (u.onFinish p)) ∧
        (fld p 0 1 = 4 → exec (.receiveEstablish f) s = .next (u.onReject p)))) ∧
    (∀ w in_, s.classify f = .slow →
      windowTake s.timebase 1000000000 32768 (Tab.get s.fab.slow (f.port / 16) (0, 0)) = (in_, w) →
      ∀ u : State, u = { s.rxCount f with fab := { (s.rxCount f).fab with slow := Tab.set (s.rxCount f).fab.slow (f.port / 16) w } } →
      (in_ = true → exec (.receiveSlowPathFrame f) s = .next (u.slowQueue f)) ∧
      (in_ = false → exec (.receiveSlowPathFrame f) s = .next (u.count (groupBase f.port + 0x28) 1))) ∧
    (s.classify f = .mac → exec (.receiveOtherFrame f) s = .next (s.macDrop f)) ∧
    (s.classify f = .other → exec (.receiveOtherFrame f) s = .next ((s.rxCount f).count 0x600030 1)) ∧
    (s.classify f = .stranger → exec (.receiveOtherFrame f) s = .next (s.dropAhnig f 0x08 1)) ∧
    (s.classify f = .authFail → exec (.receiveOtherFrame f) s = .next (s.dropAhnig f 0x10 2)) ∧
    (s.classify f = .replay → exec (.receiveOtherFrame f) s = .next (s.dropAhnig f 0x18 3)))

/-- Sending, the timers of associations, priority pauses, and ports (10_fabric.md). -/
def Obligations.FabricTimersAndPorts : Prop :=
  ∀ s : State, s.running = true →
    (∀ a x m p, s.assoc? a = some x → (x.state = 2 ∨ x.state = 3) → x.maySend = true → x.txSeq + 1 < 2 ^ 63 → x.resend = [] →
      x.sent < x.credit → x.psn - ((x.flight.head?).map (·.psn)).getD x.psn < 65536 → x.messageAt x.sent = some m →
      s.pickPath x none = some p →
      let n := min x.seg (min (m.off + m.bytes.length - x.sent) (x.credit - x.sent))
      ∃ t y, exec (.sendData a) s = .next t ∧ t.assoc? a = some y ∧ y.txSeq = x.txSeq + 1 ∧ y.psn = x.psn + 1 ∧
        y.sent = x.sent + n ∧ y.flight = x.flight ++
          [{ psn := x.psn, off := x.sent, len := n, eos := m.eos, path := p, at_ := s.timebase }]) ∧
    (∀ a, exec (.sendData a) s = .next (s.sendData a)) ∧
    (∀ a, exec (.rateControlPeriod a) s = .next (s.updAssoc a (fun x => { x with
      minMbs := s.regField offFabRc 31 16
      paths := x.paths.map (fun q => q.period (s.regField offFabRc 51 48) (s.regField offFabRc 31 16 * 65536)
        (s.regField offFabRc 47 32 * 65536) (s.portRate q.lane)) }))) ∧
    (∀ a x, s.assoc? a = some x →
      (0 < x.ackRun → exec (.ackDelayTimer a) s = .next (s.sendAck a)) ∧
      ((x.state = 2 ∨ x.state = 3) → 0 < x.waiting → x.credit ≤ x.sent → exec (.backlogAckTimer a) s = .next (s.sendAck a)) ∧
      ((x.state = 2 ∨ x.state = 3 ∨ x.state = 5) → x.rtoAt ≠ s.timebase →
        exec (.retransmitTimeout a) s = .next (s.expire (.retransmit a)) ∧
        s.late (.retransmit a) = s.retransmit a x) ∧
      (∀ p q, x.paths[p]? = some q → q.suspect = true → x.state ≠ 1 → x.state ≠ 4 → x.maySend = true →
        s.portSends q.lane q.family = true → exec (.pathProbeTimer a p) s = .next ((s.updAssoc a (fun y => { y with
          probes := (y.probes ++ [(y.txSeq, p, s.timebase)]).drop (y.probes.length - 63) })).sendSealed a p 3 0 0 0 [])) ∧
      ((x.state = 3 ∨ x.state = 5) → x.paths.any s.usable = false → exec (.assocNoPathTimeout a) s = .next (s.failAssoc a)) ∧
      (x.state = 1 ∨ x.est.isSome = true → exec (.assocOpenTimeout a) s = .next (s.endExchange a 0x5005)) ∧
      (∀ e, s.slcUp = true → x.est = some e → e.initiator = true →
        exec (.establishHelloRepeat a) s = .next (s.sendEstAll a x e.hello)) ∧
      (s.slcUp = true → x.est = none → exec (.establishHelloRepeat a) s = .next (s.startRekeys s.assocs.length)) ∧
      (x.erase = true → exec (.rekeyKeyEraseTimer a) s =
        .next ((s.updAssoc a (fun x => { x with rx := x.rx.drop 1, erase := false })).startRekeys s.assocs.length))) ∧
    (∀ a d, s.col.domain = some d → d.rekeyHours ≠ 0 → exec (.rekeyPolicyTimer a) s = .next (s.startRekey a)) ∧
    (∀ n y, s.fab.hellos[n]? = some y → s.slcUp = true → exec (.unpairedHelloExpiry n) s =
      .next (({ s with fab := { s.fab with hellos := s.fab.hellos.eraseIdx n } } : State).reject y.port y.src y.payload 3)) ∧
    (∀ port prio p, s.fabPort? port = some p → prio < 8 →
      (s.portUp port = true → bitAt (s.regField offFabCfg 15 8) prio = true → bitAt p.ignore prio = false → ∃ t y,
        exec (.receivePfcFrame port prio true) s = .next t ∧ t.fabPort? port = some y ∧ bitAt y.paused prio = true) ∧
      (bitAt p.paused prio = true → ∃ t y, exec (.pfcWatchdogExpiry port prio) s = .next t ∧ t.fabPort? port = some y ∧
        bitAt y.paused prio = false ∧ bitAt y.ignore prio = true) ∧
      (∃ t y, exec (.pfcIgnoreEnd port prio) s = .next t ∧ t.fabPort? port = some y ∧ bitAt y.ignore prio = false) ∧
      (p.state = 2 → ∀ lanes own, own = dedup (lanes.filter (fun l => decide (port ≤ l) && decide (l < port + p.lanes))) →
        exec (.portAlignmentLoss port lanes) s = .next ((s.updPort port (fun p =>
          p.goDown 1 (if own = [] then [p.worst port] else own))).portGone (fun l => l == port))) ∧
      (∀ ret u bad, p.state = 1 → s.chargeLanes bad (dedup (p.lost ++ bad)) = (ret, u) →
        (∀ l, l ∈ bad → port ≤ l ∧ l < port + p.lanes) → exec (.portRetrainComplete port bad) s =
          .next ((u.updPort port (fun p => { p with state := if ret then 4 else 2, lost := [], errs := [] })).reholdAll))) ∧
    (s.serving = true →
      (∀ g (v : Word), g < 8 → s.paused = false → regLegal (offGroupCfg g) (v.toNat &&& 0x37) = true →
        exec (.fabGroupModeWrite g v) s = .next (s.writeGroup g (v.toNat &&& 0x37))) ∧
      (∀ off g k m r (v : Word), portAddrReg off = some (g, k, m) → regInfo off = some r → s.portInUse (16 * g + k) = false →
        exec (.portAddressWrite off v) s = .next ((s.storeReg off (regMerge r (s.reg off) off 8 v.toNat)).reholdAll)))

/-- An instruction that only computes in registers changes its destination registers and nothing else (04_engines.md). -/
def Obligations.FrameOfRegisterInstructions : Prop :=
  ∀ (s t : State) (c : Instr) (e : Nat) (ds : List RegName) (r : EngRun) (l : Leaf),
    destOf c = some (e, ds) → Issued s e c r l → exec c s = .next t →
    (t = s.failAt l 0x1001 0 ∨ t = s.failAt l 0x1002 0) ∨
    ((∃ r', t.engRun e = some r' ∧ KeepsOthers ds r r' ∧ r'.rg 0 = 0 ∧ r'.pc = r.pc + 4 ∧ r'.steps = r.steps + engCost c r) ∧
      (∀ j, j ≠ e → t.engOf j = s.engOf j) ∧ (∀ a, Mem.read t.mem a = Mem.read s.mem a) ∧ t = { s with eng := t.eng })
end

