-- ==== Sys2Proof/Laws/State.lean ====
section
/-! SUPPORT. One lemma per field of the state per update of the state: what each update leaves alone, and the one field
that it changes. No later proof unfolds a record update. -/
namespace Sys2Proof.Machine

section
variable (s : State) (o v : Nat)
@[simp] theorem State.setReg_pending : (s.setReg o v).pending = s.pending := rfl
@[simp] theorem State.setReg_expired : (s.setReg o v).expired = s.expired := rfl
@[simp] theorem State.setReg_freeCtr : (s.setReg o v).freeCtr = s.freeCtr := rfl
@[simp] theorem State.setReg_outbox : (s.setReg o v).outbox = s.outbox := rfl
@[simp] theorem State.setReg_powerGood : (s.setReg o v).powerGood = s.powerGood := rfl
@[simp] theorem State.setReg_stopped : (s.setReg o v).stopped = s.stopped := rfl
@[simp] theorem State.setReg_timebase : (s.setReg o v).timebase = s.timebase := rfl
@[simp] theorem State.setReg_ppsStamp : (s.setReg o v).ppsStamp = s.ppsStamp := rfl
@[simp] theorem State.setReg_pins : (s.setReg o v).pins = s.pins := rfl
@[simp] theorem State.setReg_clkLost : (s.setReg o v).clkLost = s.clkLost := rfl
@[simp] theorem State.setReg_dev : (s.setReg o v).dev = s.dev := rfl
@[simp] theorem State.setReg_col : (s.setReg o v).col = s.col := rfl
@[simp] theorem State.setReg_log : (s.setReg o v).log = s.log := rfl
@[simp] theorem State.setReg_regs : (s.setReg o v).regs = Tab.set s.regs o (v % 2 ^ 64) := rfl
@[simp] theorem State.setReg_winRegs : (s.setReg o v).winRegs = s.winRegs := rfl
@[simp] theorem State.setReg_mem : (s.setReg o v).mem = s.mem := rfl
@[simp] theorem State.setReg_msixCtl : (s.setReg o v).msixCtl = s.msixCtl := rfl
@[simp] theorem State.setReg_link : (s.setReg o v).link = s.link := rfl
@[simp] theorem State.setReg_hostErrs : (s.setReg o v).hostErrs = s.hostErrs := rfl
@[simp] theorem State.setReg_insts : (s.setReg o v).insts = s.insts := rfl
@[simp] theorem State.setReg_cmds : (s.setReg o v).cmds = s.cmds := rfl
@[simp] theorem State.setReg_cmdNo : (s.setReg o v).cmdNo = s.cmdNo := rfl
@[simp] theorem State.setReg_rrAdmin : (s.setReg o v).rrAdmin = s.rrAdmin := rfl
@[simp] theorem State.setReg_rrIo : (s.setReg o v).rrIo = s.rrIo := rfl
@[simp] theorem State.setReg_hdm : (s.setReg o v).hdm = s.hdm := rfl
@[simp] theorem State.setReg_poison : (s.setReg o v).poison = s.poison := rfl
@[simp] theorem State.setReg_upsets : (s.setReg o v).upsets = s.upsets := rfl
@[simp] theorem State.setReg_pager : (s.setReg o v).pager = s.pager := rfl
@[simp] theorem State.setReg_chans : (s.setReg o v).chans = s.chans := rfl
@[simp] theorem State.setReg_hbm : (s.setReg o v).hbm = s.hbm := rfl
@[simp] theorem State.setReg_ports : (s.setReg o v).ports = s.ports := rfl
@[simp] theorem State.setReg_press : (s.setReg o v).press = s.press := rfl
@[simp] theorem State.setReg_xts : (s.setReg o v).xts = s.xts := rfl
@[simp] theorem State.setReg_slotWait : (s.setReg o v).slotWait = s.slotWait := rfl
@[simp] theorem State.setReg_groups : (s.setReg o v).groups = s.groups := rfl
@[simp] theorem State.setReg_banks : (s.setReg o v).banks = s.banks := rfl
@[simp] theorem State.setReg_copies : (s.setReg o v).copies = s.copies := rfl
@[simp] theorem State.setReg_slc : (s.setReg o v).slc = s.slc := rfl
@[simp] theorem State.setReg_shares : (s.setReg o v).shares = s.shares := rfl
@[simp] theorem State.setReg_eng : (s.setReg o v).eng = s.eng := rfl
@[simp] theorem State.setReg_folios : (s.setReg o v).folios = s.folios := rfl
@[simp] theorem State.setReg_runs : (s.setReg o v).runs = s.runs := rfl
@[simp] theorem State.setReg_leaves : (s.setReg o v).leaves = s.leaves := rfl
@[simp] theorem State.setReg_trims : (s.setReg o v).trims = s.trims := rfl
@[simp] theorem State.setReg_quires : (s.setReg o v).quires = s.quires := rfl
@[simp] theorem State.setReg_thumb : (s.setReg o v).thumb = s.thumb := rfl
@[simp] theorem State.setReg_coll : (s.setReg o v).coll = s.coll := rfl
@[simp] theorem State.setReg_arrivals : (s.setReg o v).arrivals = s.arrivals := rfl
@[simp] theorem State.setReg_assocs : (s.setReg o v).assocs = s.assocs := rfl
@[simp] theorem State.setReg_inboxes : (s.setReg o v).inboxes = s.inboxes := rfl
@[simp] theorem State.setReg_cry : (s.setReg o v).cry = s.cry := rfl
@[simp] theorem State.setReg_fab : (s.setReg o v).fab = s.fab := rfl
@[simp] theorem State.setReg_pwr : (s.setReg o v).pwr = s.pwr := rfl
@[simp] theorem State.setReg_apr : (s.setReg o v).apr = s.apr := rfl
end

section
variable (s : State) (fn o v : Nat)
@[simp] theorem State.setWinReg_pending : (s.setWinReg fn o v).pending = s.pending := rfl
@[simp] theorem State.setWinReg_expired : (s.setWinReg fn o v).expired = s.expired := rfl
@[simp] theorem State.setWinReg_freeCtr : (s.setWinReg fn o v).freeCtr = s.freeCtr := rfl
@[simp] theorem State.setWinReg_outbox : (s.setWinReg fn o v).outbox = s.outbox := rfl
@[simp] theorem State.setWinReg_powerGood : (s.setWinReg fn o v).powerGood = s.powerGood := rfl
@[simp] theorem State.setWinReg_stopped : (s.setWinReg fn o v).stopped = s.stopped := rfl
@[simp] theorem State.setWinReg_timebase : (s.setWinReg fn o v).timebase = s.timebase := rfl
@[simp] theorem State.setWinReg_ppsStamp : (s.setWinReg fn o v).ppsStamp = s.ppsStamp := rfl
@[simp] theorem State.setWinReg_pins : (s.setWinReg fn o v).pins = s.pins := rfl
@[simp] theorem State.setWinReg_clkLost : (s.setWinReg fn o v).clkLost = s.clkLost := rfl
@[simp] theorem State.setWinReg_dev : (s.setWinReg fn o v).dev = s.dev := rfl
@[simp] theorem State.setWinReg_col : (s.setWinReg fn o v).col = s.col := rfl
@[simp] theorem State.setWinReg_log : (s.setWinReg fn o v).log = s.log := rfl
@[simp] theorem State.setWinReg_regs : (s.setWinReg fn o v).regs = s.regs := rfl
@[simp] theorem State.setWinReg_winRegs : (s.setWinReg fn o v).winRegs = Tab.set s.winRegs (winKey fn o) (v % 2 ^ 64) := rfl
@[simp] theorem State.setWinReg_mem : (s.setWinReg fn o v).mem = s.mem := rfl
@[simp] theorem State.setWinReg_msixCtl : (s.setWinReg fn o v).msixCtl = s.msixCtl := rfl
@[simp] theorem State.setWinReg_link : (s.setWinReg fn o v).link = s.link := rfl
@[simp] theorem State.setWinReg_hostErrs : (s.setWinReg fn o v).hostErrs = s.hostErrs := rfl
@[simp] theorem State.setWinReg_insts : (s.setWinReg fn o v).insts = s.insts := rfl
@[simp] theorem State.setWinReg_cmds : (s.setWinReg fn o v).cmds = s.cmds := rfl
@[simp] theorem State.setWinReg_cmdNo : (s.setWinReg fn o v).cmdNo = s.cmdNo := rfl
@[simp] theorem State.setWinReg_rrAdmin : (s.setWinReg fn o v).rrAdmin = s.rrAdmin := rfl
@[simp] theorem State.setWinReg_rrIo : (s.setWinReg fn o v).rrIo = s.rrIo := rfl
@[simp] theorem State.setWinReg_hdm : (s.setWinReg fn o v).hdm = s.hdm := rfl
@[simp] theorem State.setWinReg_poison : (s.setWinReg fn o v).poison = s.poison := rfl
@[simp] theorem State.setWinReg_upsets : (s.setWinReg fn o v).upsets = s.upsets := rfl
@[simp] theorem State.setWinReg_pager : (s.setWinReg fn o v).pager = s.pager := rfl
@[simp] theorem State.setWinReg_chans : (s.setWinReg fn o v).chans = s.chans := rfl
@[simp] theorem State.setWinReg_hbm : (s.setWinReg fn o v).hbm = s.hbm := rfl
@[simp] theorem State.setWinReg_ports : (s.setWinReg fn o v).ports = s.ports := rfl
@[simp] theorem State.setWinReg_press : (s.setWinReg fn o v).press = s.press := rfl
@[simp] theorem State.setWinReg_xts : (s.setWinReg fn o v).xts = s.xts := rfl
@[simp] theorem State.setWinReg_slotWait : (s.setWinReg fn o v).slotWait = s.slotWait := rfl
@[simp] theorem State.setWinReg_groups : (s.setWinReg fn o v).groups = s.groups := rfl
@[simp] theorem State.setWinReg_banks : (s.setWinReg fn o v).banks = s.banks := rfl
@[simp] theorem State.setWinReg_copies : (s.setWinReg fn o v).copies = s.copies := rfl
@[simp] theorem State.setWinReg_slc : (s.setWinReg fn o v).slc = s.slc := rfl
@[simp] theorem State.setWinReg_shares : (s.setWinReg fn o v).shares = s.shares := rfl
@[simp] theorem State.setWinReg_eng : (s.setWinReg fn o v).eng = s.eng := rfl
@[simp] theorem State.setWinReg_folios : (s.setWinReg fn o v).folios = s.folios := rfl
@[simp] theorem State.setWinReg_runs : (s.setWinReg fn o v).runs = s.runs := rfl
@[simp] theorem State.setWinReg_leaves : (s.setWinReg fn o v).leaves = s.leaves := rfl
@[simp] theorem State.setWinReg_trims : (s.setWinReg fn o v).trims = s.trims := rfl
@[simp] theorem State.setWinReg_quires : (s.setWinReg fn o v).quires = s.quires := rfl
@[simp] theorem State.setWinReg_thumb : (s.setWinReg fn o v).thumb = s.thumb := rfl
@[simp] theorem State.setWinReg_coll : (s.setWinReg fn o v).coll = s.coll := rfl
@[simp] theorem State.setWinReg_arrivals : (s.setWinReg fn o v).arrivals = s.arrivals := rfl
@[simp] theorem State.setWinReg_assocs : (s.setWinReg fn o v).assocs = s.assocs := rfl
@[simp] theorem State.setWinReg_inboxes : (s.setWinReg fn o v).inboxes = s.inboxes := rfl
@[simp] theorem State.setWinReg_cry : (s.setWinReg fn o v).cry = s.cry := rfl
@[simp] theorem State.setWinReg_fab : (s.setWinReg fn o v).fab = s.fab := rfl
@[simp] theorem State.setWinReg_pwr : (s.setWinReg fn o v).pwr = s.pwr := rfl
@[simp] theorem State.setWinReg_apr : (s.setWinReg fn o v).apr = s.apr := rfl
end

section
variable (s : State) (sp : Space) (a : Nat) (b : Bytes)
@[simp] theorem State.wr_pending : (s.wr sp a b).pending = s.pending := rfl
@[simp] theorem State.wr_expired : (s.wr sp a b).expired = s.expired := rfl
@[simp] theorem State.wr_freeCtr : (s.wr sp a b).freeCtr = s.freeCtr := rfl
@[simp] theorem State.wr_outbox : (s.wr sp a b).outbox = s.outbox := rfl
@[simp] theorem State.wr_powerGood : (s.wr sp a b).powerGood = s.powerGood := rfl
@[simp] theorem State.wr_stopped : (s.wr sp a b).stopped = s.stopped := rfl
@[simp] theorem State.wr_timebase : (s.wr sp a b).timebase = s.timebase := rfl
@[simp] theorem State.wr_ppsStamp : (s.wr sp a b).ppsStamp = s.ppsStamp := rfl
@[simp] theorem State.wr_pins : (s.wr sp a b).pins = s.pins := rfl
@[simp] theorem State.wr_clkLost : (s.wr sp a b).clkLost = s.clkLost := rfl
@[simp] theorem State.wr_dev : (s.wr sp a b).dev = s.dev := rfl
@[simp] theorem State.wr_col : (s.wr sp a b).col = s.col := rfl
@[simp] theorem State.wr_log : (s.wr sp a b).log = s.log := rfl
@[simp] theorem State.wr_regs : (s.wr sp a b).regs = s.regs := rfl
@[simp] theorem State.wr_winRegs : (s.wr sp a b).winRegs = s.winRegs := rfl
@[simp] theorem State.wr_mem : (s.wr sp a b).mem = Mem.writeN s.mem (sp.base + a) b := rfl
@[simp] theorem State.wr_msixCtl : (s.wr sp a b).msixCtl = s.msixCtl := rfl
@[simp] theorem State.wr_link : (s.wr sp a b).link = s.link := rfl
@[simp] theorem State.wr_hostErrs : (s.wr sp a b).hostErrs = s.hostErrs := rfl
@[simp] theorem State.wr_insts : (s.wr sp a b).insts = s.insts := rfl
@[simp] theorem State.wr_cmds : (s.wr sp a b).cmds = s.cmds := rfl
@[simp] theorem State.wr_cmdNo : (s.wr sp a b).cmdNo = s.cmdNo := rfl
@[simp] theorem State.wr_rrAdmin : (s.wr sp a b).rrAdmin = s.rrAdmin := rfl
@[simp] theorem State.wr_rrIo : (s.wr sp a b).rrIo = s.rrIo := rfl
@[simp] theorem State.wr_hdm : (s.wr sp a b).hdm = s.hdm := rfl
@[simp] theorem State.wr_poison : (s.wr sp a b).poison = s.poison := rfl
@[simp] theorem State.wr_upsets : (s.wr sp a b).upsets = s.upsets := rfl
@[simp] theorem State.wr_pager : (s.wr sp a b).pager = s.pager := rfl
@[simp] theorem State.wr_chans : (s.wr sp a b).chans = s.chans := rfl
@[simp] theorem State.wr_hbm : (s.wr sp a b).hbm = s.hbm := rfl
@[simp] theorem State.wr_ports : (s.wr sp a b).ports = s.ports := rfl
@[simp] theorem State.wr_press : (s.wr sp a b).press = s.press := rfl
@[simp] theorem State.wr_xts : (s.wr sp a b).xts = s.xts := rfl
@[simp] theorem State.wr_slotWait : (s.wr sp a b).slotWait = s.slotWait := rfl
@[simp] theorem State.wr_groups : (s.wr sp a b).groups = s.groups := rfl
@[simp] theorem State.wr_banks : (s.wr sp a b).banks = s.banks := rfl
@[simp] theorem State.wr_copies : (s.wr sp a b).copies = s.copies := rfl
@[simp] theorem State.wr_slc : (s.wr sp a b).slc = s.slc := rfl
@[simp] theorem State.wr_shares : (s.wr sp a b).shares = s.shares := rfl
@[simp] theorem State.wr_eng : (s.wr sp a b).eng = s.eng := rfl
@[simp] theorem State.wr_folios : (s.wr sp a b).folios = s.folios := rfl
@[simp] theorem State.wr_runs : (s.wr sp a b).runs = s.runs := rfl
@[simp] theorem State.wr_leaves : (s.wr sp a b).leaves = s.leaves := rfl
@[simp] theorem State.wr_trims : (s.wr sp a b).trims = s.trims := rfl
@[simp] theorem State.wr_quires : (s.wr sp a b).quires = s.quires := rfl
@[simp] theorem State.wr_thumb : (s.wr sp a b).thumb = s.thumb := rfl
@[simp] theorem State.wr_coll : (s.wr sp a b).coll = s.coll := rfl
@[simp] theorem State.wr_arrivals : (s.wr sp a b).arrivals = s.arrivals := rfl
@[simp] theorem State.wr_assocs : (s.wr sp a b).assocs = s.assocs := rfl
@[simp] theorem State.wr_inboxes : (s.wr sp a b).inboxes = s.inboxes := rfl
@[simp] theorem State.wr_cry : (s.wr sp a b).cry = s.cry := rfl
@[simp] theorem State.wr_fab : (s.wr sp a b).fab = s.fab := rfl
@[simp] theorem State.wr_pwr : (s.wr sp a b).pwr = s.pwr := rfl
@[simp] theorem State.wr_apr : (s.wr sp a b).apr = s.apr := rfl
end

section
variable (s : State) (sp : Space) (a n : Nat)
@[simp] theorem State.zero_pending : (s.zero sp a n).pending = s.pending := rfl
@[simp] theorem State.zero_expired : (s.zero sp a n).expired = s.expired := rfl
@[simp] theorem State.zero_freeCtr : (s.zero sp a n).freeCtr = s.freeCtr := rfl
@[simp] theorem State.zero_outbox : (s.zero sp a n).outbox = s.outbox := rfl
@[simp] theorem State.zero_powerGood : (s.zero sp a n).powerGood = s.powerGood := rfl
@[simp] theorem State.zero_stopped : (s.zero sp a n).stopped = s.stopped := rfl
@[simp] theorem State.zero_timebase : (s.zero sp a n).timebase = s.timebase := rfl
@[simp] theorem State.zero_ppsStamp : (s.zero sp a n).ppsStamp = s.ppsStamp := rfl
@[simp] theorem State.zero_pins : (s.zero sp a n).pins = s.pins := rfl
@[simp] theorem State.zero_clkLost : (s.zero sp a n).clkLost = s.clkLost := rfl
@[simp] theorem State.zero_dev : (s.zero sp a n).dev = s.dev := rfl
@[simp] theorem State.zero_col : (s.zero sp a n).col = s.col := rfl
@[simp] theorem State.zero_log : (s.zero sp a n).log = s.log := rfl
@[simp] theorem State.zero_regs : (s.zero sp a n).regs = s.regs := rfl
@[simp] theorem State.zero_winRegs : (s.zero sp a n).winRegs = s.winRegs := rfl
@[simp] theorem State.zero_mem : (s.zero sp a n).mem = Mem.clear s.mem (sp.base + a) n := rfl
@[simp] theorem State.zero_msixCtl : (s.zero sp a n).msixCtl = s.msixCtl := rfl
@[simp] theorem State.zero_link : (s.zero sp a n).link = s.link := rfl
@[simp] theorem State.zero_hostErrs : (s.zero sp a n).hostErrs = s.hostErrs := rfl
@[simp] theorem State.zero_insts : (s.zero sp a n).insts = s.insts := rfl
@[simp] theorem State.zero_cmds : (s.zero sp a n).cmds = s.cmds := rfl
@[simp] theorem State.zero_cmdNo : (s.zero sp a n).cmdNo = s.cmdNo := rfl
@[simp] theorem State.zero_rrAdmin : (s.zero sp a n).rrAdmin = s.rrAdmin := rfl
@[simp] theorem State.zero_rrIo : (s.zero sp a n).rrIo = s.rrIo := rfl
@[simp] theorem State.zero_hdm : (s.zero sp a n).hdm = s.hdm := rfl
@[simp] theorem State.zero_poison : (s.zero sp a n).poison = s.poison := rfl
@[simp] theorem State.zero_upsets : (s.zero sp a n).upsets = s.upsets := rfl
@[simp] theorem State.zero_pager : (s.zero sp a n).pager = s.pager := rfl
@[simp] theorem State.zero_chans : (s.zero sp a n).chans = s.chans := rfl
@[simp] theorem State.zero_hbm : (s.zero sp a n).hbm = s.hbm := rfl
@[simp] theorem State.zero_ports : (s.zero sp a n).ports = s.ports := rfl
@[simp] theorem State.zero_press : (s.zero sp a n).press = s.press := rfl
@[simp] theorem State.zero_xts : (s.zero sp a n).xts = s.xts := rfl
@[simp] theorem State.zero_slotWait : (s.zero sp a n).slotWait = s.slotWait := rfl
@[simp] theorem State.zero_groups : (s.zero sp a n).groups = s.groups := rfl
@[simp] theorem State.zero_banks : (s.zero sp a n).banks = s.banks := rfl
@[simp] theorem State.zero_copies : (s.zero sp a n).copies = s.copies := rfl
@[simp] theorem State.zero_slc : (s.zero sp a n).slc = s.slc := rfl
@[simp] theorem State.zero_shares : (s.zero sp a n).shares = s.shares := rfl
@[simp] theorem State.zero_eng : (s.zero sp a n).eng = s.eng := rfl
@[simp] theorem State.zero_folios : (s.zero sp a n).folios = s.folios := rfl
@[simp] theorem State.zero_runs : (s.zero sp a n).runs = s.runs := rfl
@[simp] theorem State.zero_leaves : (s.zero sp a n).leaves = s.leaves := rfl
@[simp] theorem State.zero_trims : (s.zero sp a n).trims = s.trims := rfl
@[simp] theorem State.zero_quires : (s.zero sp a n).quires = s.quires := rfl
@[simp] theorem State.zero_thumb : (s.zero sp a n).thumb = s.thumb := rfl
@[simp] theorem State.zero_coll : (s.zero sp a n).coll = s.coll := rfl
@[simp] theorem State.zero_arrivals : (s.zero sp a n).arrivals = s.arrivals := rfl
@[simp] theorem State.zero_assocs : (s.zero sp a n).assocs = s.assocs := rfl
@[simp] theorem State.zero_inboxes : (s.zero sp a n).inboxes = s.inboxes := rfl
@[simp] theorem State.zero_cry : (s.zero sp a n).cry = s.cry := rfl
@[simp] theorem State.zero_fab : (s.zero sp a n).fab = s.fab := rfl
@[simp] theorem State.zero_pwr : (s.zero sp a n).pwr = s.pwr := rfl
@[simp] theorem State.zero_apr : (s.zero sp a n).apr = s.apr := rfl
end

section
variable (s : State) (o : Output)
@[simp] theorem State.emit_pending : (s.emit o).pending = s.pending := rfl
@[simp] theorem State.emit_expired : (s.emit o).expired = s.expired := rfl
@[simp] theorem State.emit_freeCtr : (s.emit o).freeCtr = s.freeCtr := rfl
@[simp] theorem State.emit_outbox : (s.emit o).outbox = s.outbox ++ [o] := rfl
@[simp] theorem State.emit_powerGood : (s.emit o).powerGood = s.powerGood := rfl
@[simp] theorem State.emit_stopped : (s.emit o).stopped = s.stopped := rfl
@[simp] theorem State.emit_timebase : (s.emit o).timebase = s.timebase := rfl
@[simp] theorem State.emit_ppsStamp : (s.emit o).ppsStamp = s.ppsStamp := rfl
@[simp] theorem State.emit_pins : (s.emit o).pins = s.pins := rfl
@[simp] theorem State.emit_clkLost : (s.emit o).clkLost = s.clkLost := rfl
@[simp] theorem State.emit_dev : (s.emit o).dev = s.dev := rfl
@[simp] theorem State.emit_col : (s.emit o).col = s.col := rfl
@[simp] theorem State.emit_log : (s.emit o).log = s.log := rfl
@[simp] theorem State.emit_regs : (s.emit o).regs = s.regs := rfl
@[simp] theorem State.emit_winRegs : (s.emit o).winRegs = s.winRegs := rfl
@[simp] theorem State.emit_mem : (s.emit o).mem = s.mem := rfl
@[simp] theorem State.emit_msixCtl : (s.emit o).msixCtl = s.msixCtl := rfl
@[simp] theorem State.emit_link : (s.emit o).link = s.link := rfl
@[simp] theorem State.emit_hostErrs : (s.emit o).hostErrs = s.hostErrs := rfl
@[simp] theorem State.emit_insts : (s.emit o).insts = s.insts := rfl
@[simp] theorem State.emit_cmds : (s.emit o).cmds = s.cmds := rfl
@[simp] theorem State.emit_cmdNo : (s.emit o).cmdNo = s.cmdNo := rfl
@[simp] theorem State.emit_rrAdmin : (s.emit o).rrAdmin = s.rrAdmin := rfl
@[simp] theorem State.emit_rrIo : (s.emit o).rrIo = s.rrIo := rfl
@[simp] theorem State.emit_hdm : (s.emit o).hdm = s.hdm := rfl
@[simp] theorem State.emit_poison : (s.emit o).poison = s.poison := rfl
@[simp] theorem State.emit_upsets : (s.emit o).upsets = s.upsets := rfl
@[simp] theorem State.emit_pager : (s.emit o).pager = s.pager := rfl
@[simp] theorem State.emit_chans : (s.emit o).chans = s.chans := rfl
@[simp] theorem State.emit_hbm : (s.emit o).hbm = s.hbm := rfl
@[simp] theorem State.emit_ports : (s.emit o).ports = s.ports := rfl
@[simp] theorem State.emit_press : (s.emit o).press = s.press := rfl
@[simp] theorem State.emit_xts : (s.emit o).xts = s.xts := rfl
@[simp] theorem State.emit_slotWait : (s.emit o).slotWait = s.slotWait := rfl
@[simp] theorem State.emit_groups : (s.emit o).groups = s.groups := rfl
@[simp] theorem State.emit_banks : (s.emit o).banks = s.banks := rfl
@[simp] theorem State.emit_copies : (s.emit o).copies = s.copies := rfl
@[simp] theorem State.emit_slc : (s.emit o).slc = s.slc := rfl
@[simp] theorem State.emit_shares : (s.emit o).shares = s.shares := rfl
@[simp] theorem State.emit_eng : (s.emit o).eng = s.eng := rfl
@[simp] theorem State.emit_folios : (s.emit o).folios = s.folios := rfl
@[simp] theorem State.emit_runs : (s.emit o).runs = s.runs := rfl
@[simp] theorem State.emit_leaves : (s.emit o).leaves = s.leaves := rfl
@[simp] theorem State.emit_trims : (s.emit o).trims = s.trims := rfl
@[simp] theorem State.emit_quires : (s.emit o).quires = s.quires := rfl
@[simp] theorem State.emit_thumb : (s.emit o).thumb = s.thumb := rfl
@[simp] theorem State.emit_coll : (s.emit o).coll = s.coll := rfl
@[simp] theorem State.emit_arrivals : (s.emit o).arrivals = s.arrivals := rfl
@[simp] theorem State.emit_assocs : (s.emit o).assocs = s.assocs := rfl
@[simp] theorem State.emit_inboxes : (s.emit o).inboxes = s.inboxes := rfl
@[simp] theorem State.emit_cry : (s.emit o).cry = s.cry := rfl
@[simp] theorem State.emit_fab : (s.emit o).fab = s.fab := rfl
@[simp] theorem State.emit_pwr : (s.emit o).pwr = s.pwr := rfl
@[simp] theorem State.emit_apr : (s.emit o).apr = s.apr := rfl
end

section
variable (s : State) (i : Nat) (f : Inst → Inst)
@[simp] theorem State.updInst_pending : (s.updInst i f).pending = s.pending := rfl
@[simp] theorem State.updInst_expired : (s.updInst i f).expired = s.expired := rfl
@[simp] theorem State.updInst_freeCtr : (s.updInst i f).freeCtr = s.freeCtr := rfl
@[simp] theorem State.updInst_outbox : (s.updInst i f).outbox = s.outbox := rfl
@[simp] theorem State.updInst_powerGood : (s.updInst i f).powerGood = s.powerGood := rfl
@[simp] theorem State.updInst_stopped : (s.updInst i f).stopped = s.stopped := rfl
@[simp] theorem State.updInst_timebase : (s.updInst i f).timebase = s.timebase := rfl
@[simp] theorem State.updInst_ppsStamp : (s.updInst i f).ppsStamp = s.ppsStamp := rfl
@[simp] theorem State.updInst_pins : (s.updInst i f).pins = s.pins := rfl
@[simp] theorem State.updInst_clkLost : (s.updInst i f).clkLost = s.clkLost := rfl
@[simp] theorem State.updInst_dev : (s.updInst i f).dev = s.dev := rfl
@[simp] theorem State.updInst_col : (s.updInst i f).col = s.col := rfl
@[simp] theorem State.updInst_log : (s.updInst i f).log = s.log := rfl
@[simp] theorem State.updInst_regs : (s.updInst i f).regs = s.regs := rfl
@[simp] theorem State.updInst_winRegs : (s.updInst i f).winRegs = s.winRegs := rfl
@[simp] theorem State.updInst_mem : (s.updInst i f).mem = s.mem := rfl
@[simp] theorem State.updInst_msixCtl : (s.updInst i f).msixCtl = s.msixCtl := rfl
@[simp] theorem State.updInst_link : (s.updInst i f).link = s.link := rfl
@[simp] theorem State.updInst_hostErrs : (s.updInst i f).hostErrs = s.hostErrs := rfl
@[simp] theorem State.updInst_insts : (s.updInst i f).insts = Tab.upd s.insts i f := rfl
@[simp] theorem State.updInst_cmds : (s.updInst i f).cmds = s.cmds := rfl
@[simp] theorem State.updInst_cmdNo : (s.updInst i f).cmdNo = s.cmdNo := rfl
@[simp] theorem State.updInst_rrAdmin : (s.updInst i f).rrAdmin = s.rrAdmin := rfl
@[simp] theorem State.updInst_rrIo : (s.updInst i f).rrIo = s.rrIo := rfl
@[simp] theorem State.updInst_hdm : (s.updInst i f).hdm = s.hdm := rfl
@[simp] theorem State.updInst_poison : (s.updInst i f).poison = s.poison := rfl
@[simp] theorem State.updInst_upsets : (s.updInst i f).upsets = s.upsets := rfl
@[simp] theorem State.updInst_pager : (s.updInst i f).pager = s.pager := rfl
@[simp] theorem State.updInst_chans : (s.updInst i f).chans = s.chans := rfl
@[simp] theorem State.updInst_hbm : (s.updInst i f).hbm = s.hbm := rfl
@[simp] theorem State.updInst_ports : (s.updInst i f).ports = s.ports := rfl
@[simp] theorem State.updInst_press : (s.updInst i f).press = s.press := rfl
@[simp] theorem State.updInst_xts : (s.updInst i f).xts = s.xts := rfl
@[simp] theorem State.updInst_slotWait : (s.updInst i f).slotWait = s.slotWait := rfl
@[simp] theorem State.updInst_groups : (s.updInst i f).groups = s.groups := rfl
@[simp] theorem State.updInst_banks : (s.updInst i f).banks = s.banks := rfl
@[simp] theorem State.updInst_copies : (s.updInst i f).copies = s.copies := rfl
@[simp] theorem State.updInst_slc : (s.updInst i f).slc = s.slc := rfl
@[simp] theorem State.updInst_shares : (s.updInst i f).shares = s.shares := rfl
@[simp] theorem State.updInst_eng : (s.updInst i f).eng = s.eng := rfl
@[simp] theorem State.updInst_folios : (s.updInst i f).folios = s.folios := rfl
@[simp] theorem State.updInst_runs : (s.updInst i f).runs = s.runs := rfl
@[simp] theorem State.updInst_leaves : (s.updInst i f).leaves = s.leaves := rfl
@[simp] theorem State.updInst_trims : (s.updInst i f).trims = s.trims := rfl
@[simp] theorem State.updInst_quires : (s.updInst i f).quires = s.quires := rfl
@[simp] theorem State.updInst_thumb : (s.updInst i f).thumb = s.thumb := rfl
@[simp] theorem State.updInst_coll : (s.updInst i f).coll = s.coll := rfl
@[simp] theorem State.updInst_arrivals : (s.updInst i f).arrivals = s.arrivals := rfl
@[simp] theorem State.updInst_assocs : (s.updInst i f).assocs = s.assocs := rfl
@[simp] theorem State.updInst_inboxes : (s.updInst i f).inboxes = s.inboxes := rfl
@[simp] theorem State.updInst_cry : (s.updInst i f).cry = s.cry := rfl
@[simp] theorem State.updInst_fab : (s.updInst i f).fab = s.fab := rfl
@[simp] theorem State.updInst_pwr : (s.updInst i f).pwr = s.pwr := rfl
@[simp] theorem State.updInst_apr : (s.updInst i f).apr = s.apr := rfl
end

section
variable (s : State) (n : Nat)
@[simp] theorem State.dropCmd_pending : (s.dropCmd n).pending = s.pending := rfl
@[simp] theorem State.dropCmd_expired : (s.dropCmd n).expired = s.expired := rfl
@[simp] theorem State.dropCmd_freeCtr : (s.dropCmd n).freeCtr = s.freeCtr := rfl
@[simp] theorem State.dropCmd_outbox : (s.dropCmd n).outbox = s.outbox := rfl
@[simp] theorem State.dropCmd_powerGood : (s.dropCmd n).powerGood = s.powerGood := rfl
@[simp] theorem State.dropCmd_stopped : (s.dropCmd n).stopped = s.stopped := rfl
@[simp] theorem State.dropCmd_timebase : (s.dropCmd n).timebase = s.timebase := rfl
@[simp] theorem State.dropCmd_ppsStamp : (s.dropCmd n).ppsStamp = s.ppsStamp := rfl
@[simp] theorem State.dropCmd_pins : (s.dropCmd n).pins = s.pins := rfl
@[simp] theorem State.dropCmd_clkLost : (s.dropCmd n).clkLost = s.clkLost := rfl
@[simp] theorem State.dropCmd_dev : (s.dropCmd n).dev = s.dev := rfl
@[simp] theorem State.dropCmd_col : (s.dropCmd n).col = s.col := rfl
@[simp] theorem State.dropCmd_log : (s.dropCmd n).log = s.log := rfl
@[simp] theorem State.dropCmd_regs : (s.dropCmd n).regs = s.regs := rfl
@[simp] theorem State.dropCmd_winRegs : (s.dropCmd n).winRegs = s.winRegs := rfl
@[simp] theorem State.dropCmd_mem : (s.dropCmd n).mem = s.mem := rfl
@[simp] theorem State.dropCmd_msixCtl : (s.dropCmd n).msixCtl = s.msixCtl := rfl
@[simp] theorem State.dropCmd_link : (s.dropCmd n).link = s.link := rfl
@[simp] theorem State.dropCmd_hostErrs : (s.dropCmd n).hostErrs = s.hostErrs := rfl
@[simp] theorem State.dropCmd_insts : (s.dropCmd n).insts = s.insts := rfl
@[simp] theorem State.dropCmd_cmds : (s.dropCmd n).cmds = s.cmds.filter (fun c => c.no != n) := rfl
@[simp] theorem State.dropCmd_cmdNo : (s.dropCmd n).cmdNo = s.cmdNo := rfl
@[simp] theorem State.dropCmd_rrAdmin : (s.dropCmd n).rrAdmin = s.rrAdmin := rfl
@[simp] theorem State.dropCmd_rrIo : (s.dropCmd n).rrIo = s.rrIo := rfl
@[simp] theorem State.dropCmd_hdm : (s.dropCmd n).hdm = s.hdm := rfl
@[simp] theorem State.dropCmd_poison : (s.dropCmd n).poison = s.poison := rfl
@[simp] theorem State.dropCmd_upsets : (s.dropCmd n).upsets = s.upsets := rfl
@[simp] theorem State.dropCmd_pager : (s.dropCmd n).pager = s.pager := rfl
@[simp] theorem State.dropCmd_chans : (s.dropCmd n).chans = s.chans := rfl
@[simp] theorem State.dropCmd_hbm : (s.dropCmd n).hbm = s.hbm := rfl
@[simp] theorem State.dropCmd_ports : (s.dropCmd n).ports = s.ports := rfl
@[simp] theorem State.dropCmd_press : (s.dropCmd n).press = s.press := rfl
@[simp] theorem State.dropCmd_xts : (s.dropCmd n).xts = s.xts := rfl
@[simp] theorem State.dropCmd_slotWait : (s.dropCmd n).slotWait = s.slotWait := rfl
@[simp] theorem State.dropCmd_groups : (s.dropCmd n).groups = s.groups := rfl
@[simp] theorem State.dropCmd_banks : (s.dropCmd n).banks = s.banks := rfl
@[simp] theorem State.dropCmd_copies : (s.dropCmd n).copies = s.copies := rfl
@[simp] theorem State.dropCmd_slc : (s.dropCmd n).slc = s.slc := rfl
@[simp] theorem State.dropCmd_shares : (s.dropCmd n).shares = s.shares := rfl
@[simp] theorem State.dropCmd_eng : (s.dropCmd n).eng = s.eng := rfl
@[simp] theorem State.dropCmd_folios : (s.dropCmd n).folios = s.folios := rfl
@[simp] theorem State.dropCmd_runs : (s.dropCmd n).runs = s.runs := rfl
@[simp] theorem State.dropCmd_leaves : (s.dropCmd n).leaves = s.leaves := rfl
@[simp] theorem State.dropCmd_trims : (s.dropCmd n).trims = s.trims := rfl
@[simp] theorem State.dropCmd_quires : (s.dropCmd n).quires = s.quires := rfl
@[simp] theorem State.dropCmd_thumb : (s.dropCmd n).thumb = s.thumb := rfl
@[simp] theorem State.dropCmd_coll : (s.dropCmd n).coll = s.coll := rfl
@[simp] theorem State.dropCmd_arrivals : (s.dropCmd n).arrivals = s.arrivals := rfl
@[simp] theorem State.dropCmd_assocs : (s.dropCmd n).assocs = s.assocs := rfl
@[simp] theorem State.dropCmd_inboxes : (s.dropCmd n).inboxes = s.inboxes := rfl
@[simp] theorem State.dropCmd_cry : (s.dropCmd n).cry = s.cry := rfl
@[simp] theorem State.dropCmd_fab : (s.dropCmd n).fab = s.fab := rfl
@[simp] theorem State.dropCmd_pwr : (s.dropCmd n).pwr = s.pwr := rfl
@[simp] theorem State.dropCmd_apr : (s.dropCmd n).apr = s.apr := rfl
end

section
variable (s : State) (n : Nat) (f : Cmd → Cmd)
@[simp] theorem State.updCmd_pending : (s.updCmd n f).pending = s.pending := rfl
@[simp] theorem State.updCmd_expired : (s.updCmd n f).expired = s.expired := rfl
@[simp] theorem State.updCmd_freeCtr : (s.updCmd n f).freeCtr = s.freeCtr := rfl
@[simp] theorem State.updCmd_outbox : (s.updCmd n f).outbox = s.outbox := rfl
@[simp] theorem State.updCmd_powerGood : (s.updCmd n f).powerGood = s.powerGood := rfl
@[simp] theorem State.updCmd_stopped : (s.updCmd n f).stopped = s.stopped := rfl
@[simp] theorem State.updCmd_timebase : (s.updCmd n f).timebase = s.timebase := rfl
@[simp] theorem State.updCmd_ppsStamp : (s.updCmd n f).ppsStamp = s.ppsStamp := rfl
@[simp] theorem State.updCmd_pins : (s.updCmd n f).pins = s.pins := rfl
@[simp] theorem State.updCmd_clkLost : (s.updCmd n f).clkLost = s.clkLost := rfl
@[simp] theorem State.updCmd_dev : (s.updCmd n f).dev = s.dev := rfl
@[simp] theorem State.updCmd_col : (s.updCmd n f).col = s.col := rfl
@[simp] theorem State.updCmd_log : (s.updCmd n f).log = s.log := rfl
@[simp] theorem State.updCmd_regs : (s.updCmd n f).regs = s.regs := rfl
@[simp] theorem State.updCmd_winRegs : (s.updCmd n f).winRegs = s.winRegs := rfl
@[simp] theorem State.updCmd_mem : (s.updCmd n f).mem = s.mem := rfl
@[simp] theorem State.updCmd_msixCtl : (s.updCmd n f).msixCtl = s.msixCtl := rfl
@[simp] theorem State.updCmd_link : (s.updCmd n f).link = s.link := rfl
@[simp] theorem State.updCmd_hostErrs : (s.updCmd n f).hostErrs = s.hostErrs := rfl
@[simp] theorem State.updCmd_insts : (s.updCmd n f).insts = s.insts := rfl
@[simp] theorem State.updCmd_cmds : (s.updCmd n f).cmds = updWhere s.cmds (fun c => c.no == n) f := rfl
@[simp] theorem State.updCmd_cmdNo : (s.updCmd n f).cmdNo = s.cmdNo := rfl
@[simp] theorem State.updCmd_rrAdmin : (s.updCmd n f).rrAdmin = s.rrAdmin := rfl
@[simp] theorem State.updCmd_rrIo : (s.updCmd n f).rrIo = s.rrIo := rfl
@[simp] theorem State.updCmd_hdm : (s.updCmd n f).hdm = s.hdm := rfl
@[simp] theorem State.updCmd_poison : (s.updCmd n f).poison = s.poison := rfl
@[simp] theorem State.updCmd_upsets : (s.updCmd n f).upsets = s.upsets := rfl
@[simp] theorem State.updCmd_pager : (s.updCmd n f).pager = s.pager := rfl
@[simp] theorem State.updCmd_chans : (s.updCmd n f).chans = s.chans := rfl
@[simp] theorem State.updCmd_hbm : (s.updCmd n f).hbm = s.hbm := rfl
@[simp] theorem State.updCmd_ports : (s.updCmd n f).ports = s.ports := rfl
@[simp] theorem State.updCmd_press : (s.updCmd n f).press = s.press := rfl
@[simp] theorem State.updCmd_xts : (s.updCmd n f).xts = s.xts := rfl
@[simp] theorem State.updCmd_slotWait : (s.updCmd n f).slotWait = s.slotWait := rfl
@[simp] theorem State.updCmd_groups : (s.updCmd n f).groups = s.groups := rfl
@[simp] theorem State.updCmd_banks : (s.updCmd n f).banks = s.banks := rfl
@[simp] theorem State.updCmd_copies : (s.updCmd n f).copies = s.copies := rfl
@[simp] theorem State.updCmd_slc : (s.updCmd n f).slc = s.slc := rfl
@[simp] theorem State.updCmd_shares : (s.updCmd n f).shares = s.shares := rfl
@[simp] theorem State.updCmd_eng : (s.updCmd n f).eng = s.eng := rfl
@[simp] theorem State.updCmd_folios : (s.updCmd n f).folios = s.folios := rfl
@[simp] theorem State.updCmd_runs : (s.updCmd n f).runs = s.runs := rfl
@[simp] theorem State.updCmd_leaves : (s.updCmd n f).leaves = s.leaves := rfl
@[simp] theorem State.updCmd_trims : (s.updCmd n f).trims = s.trims := rfl
@[simp] theorem State.updCmd_quires : (s.updCmd n f).quires = s.quires := rfl
@[simp] theorem State.updCmd_thumb : (s.updCmd n f).thumb = s.thumb := rfl
@[simp] theorem State.updCmd_coll : (s.updCmd n f).coll = s.coll := rfl
@[simp] theorem State.updCmd_arrivals : (s.updCmd n f).arrivals = s.arrivals := rfl
@[simp] theorem State.updCmd_assocs : (s.updCmd n f).assocs = s.assocs := rfl
@[simp] theorem State.updCmd_inboxes : (s.updCmd n f).inboxes = s.inboxes := rfl
@[simp] theorem State.updCmd_cry : (s.updCmd n f).cry = s.cry := rfl
@[simp] theorem State.updCmd_fab : (s.updCmd n f).fab = s.fab := rfl
@[simp] theorem State.updCmd_pwr : (s.updCmd n f).pwr = s.pwr := rfl
@[simp] theorem State.updCmd_apr : (s.updCmd n f).apr = s.apr := rfl
end

section
variable (s : State) (k : Nat) (f : Run → Run)
@[simp] theorem State.updRun_pending : (s.updRun k f).pending = s.pending := rfl
@[simp] theorem State.updRun_expired : (s.updRun k f).expired = s.expired := rfl
@[simp] theorem State.updRun_freeCtr : (s.updRun k f).freeCtr = s.freeCtr := rfl
@[simp] theorem State.updRun_outbox : (s.updRun k f).outbox = s.outbox := rfl
@[simp] theorem State.updRun_powerGood : (s.updRun k f).powerGood = s.powerGood := rfl
@[simp] theorem State.updRun_stopped : (s.updRun k f).stopped = s.stopped := rfl
@[simp] theorem State.updRun_timebase : (s.updRun k f).timebase = s.timebase := rfl
@[simp] theorem State.updRun_ppsStamp : (s.updRun k f).ppsStamp = s.ppsStamp := rfl
@[simp] theorem State.updRun_pins : (s.updRun k f).pins = s.pins := rfl
@[simp] theorem State.updRun_clkLost : (s.updRun k f).clkLost = s.clkLost := rfl
@[simp] theorem State.updRun_dev : (s.updRun k f).dev = s.dev := rfl
@[simp] theorem State.updRun_col : (s.updRun k f).col = s.col := rfl
@[simp] theorem State.updRun_log : (s.updRun k f).log = s.log := rfl
@[simp] theorem State.updRun_regs : (s.updRun k f).regs = s.regs := rfl
@[simp] theorem State.updRun_winRegs : (s.updRun k f).winRegs = s.winRegs := rfl
@[simp] theorem State.updRun_mem : (s.updRun k f).mem = s.mem := rfl
@[simp] theorem State.updRun_msixCtl : (s.updRun k f).msixCtl = s.msixCtl := rfl
@[simp] theorem State.updRun_link : (s.updRun k f).link = s.link := rfl
@[simp] theorem State.updRun_hostErrs : (s.updRun k f).hostErrs = s.hostErrs := rfl
@[simp] theorem State.updRun_insts : (s.updRun k f).insts = s.insts := rfl
@[simp] theorem State.updRun_cmds : (s.updRun k f).cmds = s.cmds := rfl
@[simp] theorem State.updRun_cmdNo : (s.updRun k f).cmdNo = s.cmdNo := rfl
@[simp] theorem State.updRun_rrAdmin : (s.updRun k f).rrAdmin = s.rrAdmin := rfl
@[simp] theorem State.updRun_rrIo : (s.updRun k f).rrIo = s.rrIo := rfl
@[simp] theorem State.updRun_hdm : (s.updRun k f).hdm = s.hdm := rfl
@[simp] theorem State.updRun_poison : (s.updRun k f).poison = s.poison := rfl
@[simp] theorem State.updRun_upsets : (s.updRun k f).upsets = s.upsets := rfl
@[simp] theorem State.updRun_pager : (s.updRun k f).pager = s.pager := rfl
@[simp] theorem State.updRun_chans : (s.updRun k f).chans = s.chans := rfl
@[simp] theorem State.updRun_hbm : (s.updRun k f).hbm = s.hbm := rfl
@[simp] theorem State.updRun_ports : (s.updRun k f).ports = s.ports := rfl
@[simp] theorem State.updRun_press : (s.updRun k f).press = s.press := rfl
@[simp] theorem State.updRun_xts : (s.updRun k f).xts = s.xts := rfl
@[simp] theorem State.updRun_slotWait : (s.updRun k f).slotWait = s.slotWait := rfl
@[simp] theorem State.updRun_groups : (s.updRun k f).groups = s.groups := rfl
@[simp] theorem State.updRun_banks : (s.updRun k f).banks = s.banks := rfl
@[simp] theorem State.updRun_copies : (s.updRun k f).copies = s.copies := rfl
@[simp] theorem State.updRun_slc : (s.updRun k f).slc = s.slc := rfl
@[simp] theorem State.updRun_shares : (s.updRun k f).shares = s.shares := rfl
@[simp] theorem State.updRun_eng : (s.updRun k f).eng = s.eng := rfl
@[simp] theorem State.updRun_folios : (s.updRun k f).folios = s.folios := rfl
@[simp] theorem State.updRun_runs : (s.updRun k f).runs = Tab.upd s.runs k f := rfl
@[simp] theorem State.updRun_leaves : (s.updRun k f).leaves = s.leaves := rfl
@[simp] theorem State.updRun_trims : (s.updRun k f).trims = s.trims := rfl
@[simp] theorem State.updRun_quires : (s.updRun k f).quires = s.quires := rfl
@[simp] theorem State.updRun_thumb : (s.updRun k f).thumb = s.thumb := rfl
@[simp] theorem State.updRun_coll : (s.updRun k f).coll = s.coll := rfl
@[simp] theorem State.updRun_arrivals : (s.updRun k f).arrivals = s.arrivals := rfl
@[simp] theorem State.updRun_assocs : (s.updRun k f).assocs = s.assocs := rfl
@[simp] theorem State.updRun_inboxes : (s.updRun k f).inboxes = s.inboxes := rfl
@[simp] theorem State.updRun_cry : (s.updRun k f).cry = s.cry := rfl
@[simp] theorem State.updRun_fab : (s.updRun k f).fab = s.fab := rfl
@[simp] theorem State.updRun_pwr : (s.updRun k f).pwr = s.pwr := rfl
@[simp] theorem State.updRun_apr : (s.updRun k f).apr = s.apr := rfl
end

section
variable (s : State) (i : Nat) (f : Leaf → Leaf)
@[simp] theorem State.updLeaf_pending : (s.updLeaf i f).pending = s.pending := rfl
@[simp] theorem State.updLeaf_expired : (s.updLeaf i f).expired = s.expired := rfl
@[simp] theorem State.updLeaf_freeCtr : (s.updLeaf i f).freeCtr = s.freeCtr := rfl
@[simp] theorem State.updLeaf_outbox : (s.updLeaf i f).outbox = s.outbox := rfl
@[simp] theorem State.updLeaf_powerGood : (s.updLeaf i f).powerGood = s.powerGood := rfl
@[simp] theorem State.updLeaf_stopped : (s.updLeaf i f).stopped = s.stopped := rfl
@[simp] theorem State.updLeaf_timebase : (s.updLeaf i f).timebase = s.timebase := rfl
@[simp] theorem State.updLeaf_ppsStamp : (s.updLeaf i f).ppsStamp = s.ppsStamp := rfl
@[simp] theorem State.updLeaf_pins : (s.updLeaf i f).pins = s.pins := rfl
@[simp] theorem State.updLeaf_clkLost : (s.updLeaf i f).clkLost = s.clkLost := rfl
@[simp] theorem State.updLeaf_dev : (s.updLeaf i f).dev = s.dev := rfl
@[simp] theorem State.updLeaf_col : (s.updLeaf i f).col = s.col := rfl
@[simp] theorem State.updLeaf_log : (s.updLeaf i f).log = s.log := rfl
@[simp] theorem State.updLeaf_regs : (s.updLeaf i f).regs = s.regs := rfl
@[simp] theorem State.updLeaf_winRegs : (s.updLeaf i f).winRegs = s.winRegs := rfl
@[simp] theorem State.updLeaf_mem : (s.updLeaf i f).mem = s.mem := rfl
@[simp] theorem State.updLeaf_msixCtl : (s.updLeaf i f).msixCtl = s.msixCtl := rfl
@[simp] theorem State.updLeaf_link : (s.updLeaf i f).link = s.link := rfl
@[simp] theorem State.updLeaf_hostErrs : (s.updLeaf i f).hostErrs = s.hostErrs := rfl
@[simp] theorem State.updLeaf_insts : (s.updLeaf i f).insts = s.insts := rfl
@[simp] theorem State.updLeaf_cmds : (s.updLeaf i f).cmds = s.cmds := rfl
@[simp] theorem State.updLeaf_cmdNo : (s.updLeaf i f).cmdNo = s.cmdNo := rfl
@[simp] theorem State.updLeaf_rrAdmin : (s.updLeaf i f).rrAdmin = s.rrAdmin := rfl
@[simp] theorem State.updLeaf_rrIo : (s.updLeaf i f).rrIo = s.rrIo := rfl
@[simp] theorem State.updLeaf_hdm : (s.updLeaf i f).hdm = s.hdm := rfl
@[simp] theorem State.updLeaf_poison : (s.updLeaf i f).poison = s.poison := rfl
@[simp] theorem State.updLeaf_upsets : (s.updLeaf i f).upsets = s.upsets := rfl
@[simp] theorem State.updLeaf_pager : (s.updLeaf i f).pager = s.pager := rfl
@[simp] theorem State.updLeaf_chans : (s.updLeaf i f).chans = s.chans := rfl
@[simp] theorem State.updLeaf_hbm : (s.updLeaf i f).hbm = s.hbm := rfl
@[simp] theorem State.updLeaf_ports : (s.updLeaf i f).ports = s.ports := rfl
@[simp] theorem State.updLeaf_press : (s.updLeaf i f).press = s.press := rfl
@[simp] theorem State.updLeaf_xts : (s.updLeaf i f).xts = s.xts := rfl
@[simp] theorem State.updLeaf_slotWait : (s.updLeaf i f).slotWait = s.slotWait := rfl
@[simp] theorem State.updLeaf_groups : (s.updLeaf i f).groups = s.groups := rfl
@[simp] theorem State.updLeaf_banks : (s.updLeaf i f).banks = s.banks := rfl
@[simp] theorem State.updLeaf_copies : (s.updLeaf i f).copies = s.copies := rfl
@[simp] theorem State.updLeaf_slc : (s.updLeaf i f).slc = s.slc := rfl
@[simp] theorem State.updLeaf_shares : (s.updLeaf i f).shares = s.shares := rfl
@[simp] theorem State.updLeaf_eng : (s.updLeaf i f).eng = s.eng := rfl
@[simp] theorem State.updLeaf_folios : (s.updLeaf i f).folios = s.folios := rfl
@[simp] theorem State.updLeaf_runs : (s.updLeaf i f).runs = s.runs := rfl
@[simp] theorem State.updLeaf_leaves : (s.updLeaf i f).leaves = Tab.upd s.leaves i f := rfl
@[simp] theorem State.updLeaf_trims : (s.updLeaf i f).trims = s.trims := rfl
@[simp] theorem State.updLeaf_quires : (s.updLeaf i f).quires = s.quires := rfl
@[simp] theorem State.updLeaf_thumb : (s.updLeaf i f).thumb = s.thumb := rfl
@[simp] theorem State.updLeaf_coll : (s.updLeaf i f).coll = s.coll := rfl
@[simp] theorem State.updLeaf_arrivals : (s.updLeaf i f).arrivals = s.arrivals := rfl
@[simp] theorem State.updLeaf_assocs : (s.updLeaf i f).assocs = s.assocs := rfl
@[simp] theorem State.updLeaf_inboxes : (s.updLeaf i f).inboxes = s.inboxes := rfl
@[simp] theorem State.updLeaf_cry : (s.updLeaf i f).cry = s.cry := rfl
@[simp] theorem State.updLeaf_fab : (s.updLeaf i f).fab = s.fab := rfl
@[simp] theorem State.updLeaf_pwr : (s.updLeaf i f).pwr = s.pwr := rfl
@[simp] theorem State.updLeaf_apr : (s.updLeaf i f).apr = s.apr := rfl
end

section
variable (s : State) (e : Nat) (f : Eng → Eng)
@[simp] theorem State.updEng_pending : (s.updEng e f).pending = s.pending := rfl
@[simp] theorem State.updEng_expired : (s.updEng e f).expired = s.expired := rfl
@[simp] theorem State.updEng_freeCtr : (s.updEng e f).freeCtr = s.freeCtr := rfl
@[simp] theorem State.updEng_outbox : (s.updEng e f).outbox = s.outbox := rfl
@[simp] theorem State.updEng_powerGood : (s.updEng e f).powerGood = s.powerGood := rfl
@[simp] theorem State.updEng_stopped : (s.updEng e f).stopped = s.stopped := rfl
@[simp] theorem State.updEng_timebase : (s.updEng e f).timebase = s.timebase := rfl
@[simp] theorem State.updEng_ppsStamp : (s.updEng e f).ppsStamp = s.ppsStamp := rfl
@[simp] theorem State.updEng_pins : (s.updEng e f).pins = s.pins := rfl
@[simp] theorem State.updEng_clkLost : (s.updEng e f).clkLost = s.clkLost := rfl
@[simp] theorem State.updEng_dev : (s.updEng e f).dev = s.dev := rfl
@[simp] theorem State.updEng_col : (s.updEng e f).col = s.col := rfl
@[simp] theorem State.updEng_log : (s.updEng e f).log = s.log := rfl
@[simp] theorem State.updEng_regs : (s.updEng e f).regs = s.regs := rfl
@[simp] theorem State.updEng_winRegs : (s.updEng e f).winRegs = s.winRegs := rfl
@[simp] theorem State.updEng_mem : (s.updEng e f).mem = s.mem := rfl
@[simp] theorem State.updEng_msixCtl : (s.updEng e f).msixCtl = s.msixCtl := rfl
@[simp] theorem State.updEng_link : (s.updEng e f).link = s.link := rfl
@[simp] theorem State.updEng_hostErrs : (s.updEng e f).hostErrs = s.hostErrs := rfl
@[simp] theorem State.updEng_insts : (s.updEng e f).insts = s.insts := rfl
@[simp] theorem State.updEng_cmds : (s.updEng e f).cmds = s.cmds := rfl
@[simp] theorem State.updEng_cmdNo : (s.updEng e f).cmdNo = s.cmdNo := rfl
@[simp] theorem State.updEng_rrAdmin : (s.updEng e f).rrAdmin = s.rrAdmin := rfl
@[simp] theorem State.updEng_rrIo : (s.updEng e f).rrIo = s.rrIo := rfl
@[simp] theorem State.updEng_hdm : (s.updEng e f).hdm = s.hdm := rfl
@[simp] theorem State.updEng_poison : (s.updEng e f).poison = s.poison := rfl
@[simp] theorem State.updEng_upsets : (s.updEng e f).upsets = s.upsets := rfl
@[simp] theorem State.updEng_pager : (s.updEng e f).pager = s.pager := rfl
@[simp] theorem State.updEng_chans : (s.updEng e f).chans = s.chans := rfl
@[simp] theorem State.updEng_hbm : (s.updEng e f).hbm = s.hbm := rfl
@[simp] theorem State.updEng_ports : (s.updEng e f).ports = s.ports := rfl
@[simp] theorem State.updEng_press : (s.updEng e f).press = s.press := rfl
@[simp] theorem State.updEng_xts : (s.updEng e f).xts = s.xts := rfl
@[simp] theorem State.updEng_slotWait : (s.updEng e f).slotWait = s.slotWait := rfl
@[simp] theorem State.updEng_groups : (s.updEng e f).groups = s.groups := rfl
@[simp] theorem State.updEng_banks : (s.updEng e f).banks = s.banks := rfl
@[simp] theorem State.updEng_copies : (s.updEng e f).copies = s.copies := rfl
@[simp] theorem State.updEng_slc : (s.updEng e f).slc = s.slc := rfl
@[simp] theorem State.updEng_shares : (s.updEng e f).shares = s.shares := rfl
@[simp] theorem State.updEng_eng : (s.updEng e f).eng = Tab.set s.eng e (f (s.engOf e)) := rfl
@[simp] theorem State.updEng_folios : (s.updEng e f).folios = s.folios := rfl
@[simp] theorem State.updEng_runs : (s.updEng e f).runs = s.runs := rfl
@[simp] theorem State.updEng_leaves : (s.updEng e f).leaves = s.leaves := rfl
@[simp] theorem State.updEng_trims : (s.updEng e f).trims = s.trims := rfl
@[simp] theorem State.updEng_quires : (s.updEng e f).quires = s.quires := rfl
@[simp] theorem State.updEng_thumb : (s.updEng e f).thumb = s.thumb := rfl
@[simp] theorem State.updEng_coll : (s.updEng e f).coll = s.coll := rfl
@[simp] theorem State.updEng_arrivals : (s.updEng e f).arrivals = s.arrivals := rfl
@[simp] theorem State.updEng_assocs : (s.updEng e f).assocs = s.assocs := rfl
@[simp] theorem State.updEng_inboxes : (s.updEng e f).inboxes = s.inboxes := rfl
@[simp] theorem State.updEng_cry : (s.updEng e f).cry = s.cry := rfl
@[simp] theorem State.updEng_fab : (s.updEng e f).fab = s.fab := rfl
@[simp] theorem State.updEng_pwr : (s.updEng e f).pwr = s.pwr := rfl
@[simp] theorem State.updEng_apr : (s.updEng e f).apr = s.apr := rfl
end

section
variable (s : State) (e : Nat) (r : EngRun)
@[simp] theorem State.setRun_pending : (s.setRun e r).pending = s.pending := rfl
@[simp] theorem State.setRun_expired : (s.setRun e r).expired = s.expired := rfl
@[simp] theorem State.setRun_freeCtr : (s.setRun e r).freeCtr = s.freeCtr := rfl
@[simp] theorem State.setRun_outbox : (s.setRun e r).outbox = s.outbox := rfl
@[simp] theorem State.setRun_powerGood : (s.setRun e r).powerGood = s.powerGood := rfl
@[simp] theorem State.setRun_stopped : (s.setRun e r).stopped = s.stopped := rfl
@[simp] theorem State.setRun_timebase : (s.setRun e r).timebase = s.timebase := rfl
@[simp] theorem State.setRun_ppsStamp : (s.setRun e r).ppsStamp = s.ppsStamp := rfl
@[simp] theorem State.setRun_pins : (s.setRun e r).pins = s.pins := rfl
@[simp] theorem State.setRun_clkLost : (s.setRun e r).clkLost = s.clkLost := rfl
@[simp] theorem State.setRun_dev : (s.setRun e r).dev = s.dev := rfl
@[simp] theorem State.setRun_col : (s.setRun e r).col = s.col := rfl
@[simp] theorem State.setRun_log : (s.setRun e r).log = s.log := rfl
@[simp] theorem State.setRun_regs : (s.setRun e r).regs = s.regs := rfl
@[simp] theorem State.setRun_winRegs : (s.setRun e r).winRegs = s.winRegs := rfl
@[simp] theorem State.setRun_mem : (s.setRun e r).mem = s.mem := rfl
@[simp] theorem State.setRun_msixCtl : (s.setRun e r).msixCtl = s.msixCtl := rfl
@[simp] theorem State.setRun_link : (s.setRun e r).link = s.link := rfl
@[simp] theorem State.setRun_hostErrs : (s.setRun e r).hostErrs = s.hostErrs := rfl
@[simp] theorem State.setRun_insts : (s.setRun e r).insts = s.insts := rfl
@[simp] theorem State.setRun_cmds : (s.setRun e r).cmds = s.cmds := rfl
@[simp] theorem State.setRun_cmdNo : (s.setRun e r).cmdNo = s.cmdNo := rfl
@[simp] theorem State.setRun_rrAdmin : (s.setRun e r).rrAdmin = s.rrAdmin := rfl
@[simp] theorem State.setRun_rrIo : (s.setRun e r).rrIo = s.rrIo := rfl
@[simp] theorem State.setRun_hdm : (s.setRun e r).hdm = s.hdm := rfl
@[simp] theorem State.setRun_poison : (s.setRun e r).poison = s.poison := rfl
@[simp] theorem State.setRun_upsets : (s.setRun e r).upsets = s.upsets := rfl
@[simp] theorem State.setRun_pager : (s.setRun e r).pager = s.pager := rfl
@[simp] theorem State.setRun_chans : (s.setRun e r).chans = s.chans := rfl
@[simp] theorem State.setRun_hbm : (s.setRun e r).hbm = s.hbm := rfl
@[simp] theorem State.setRun_ports : (s.setRun e r).ports = s.ports := rfl
@[simp] theorem State.setRun_press : (s.setRun e r).press = s.press := rfl
@[simp] theorem State.setRun_xts : (s.setRun e r).xts = s.xts := rfl
@[simp] theorem State.setRun_slotWait : (s.setRun e r).slotWait = s.slotWait := rfl
@[simp] theorem State.setRun_groups : (s.setRun e r).groups = s.groups := rfl
@[simp] theorem State.setRun_banks : (s.setRun e r).banks = s.banks := rfl
@[simp] theorem State.setRun_copies : (s.setRun e r).copies = s.copies := rfl
@[simp] theorem State.setRun_slc : (s.setRun e r).slc = s.slc := rfl
@[simp] theorem State.setRun_shares : (s.setRun e r).shares = s.shares := rfl
@[simp] theorem State.setRun_eng : (s.setRun e r).eng = Tab.set s.eng e (({ s.engOf e with run := some r } : Eng)) := rfl
@[simp] theorem State.setRun_folios : (s.setRun e r).folios = s.folios := rfl
@[simp] theorem State.setRun_runs : (s.setRun e r).runs = s.runs := rfl
@[simp] theorem State.setRun_leaves : (s.setRun e r).leaves = s.leaves := rfl
@[simp] theorem State.setRun_trims : (s.setRun e r).trims = s.trims := rfl
@[simp] theorem State.setRun_quires : (s.setRun e r).quires = s.quires := rfl
@[simp] theorem State.setRun_thumb : (s.setRun e r).thumb = s.thumb := rfl
@[simp] theorem State.setRun_coll : (s.setRun e r).coll = s.coll := rfl
@[simp] theorem State.setRun_arrivals : (s.setRun e r).arrivals = s.arrivals := rfl
@[simp] theorem State.setRun_assocs : (s.setRun e r).assocs = s.assocs := rfl
@[simp] theorem State.setRun_inboxes : (s.setRun e r).inboxes = s.inboxes := rfl
@[simp] theorem State.setRun_cry : (s.setRun e r).cry = s.cry := rfl
@[simp] theorem State.setRun_fab : (s.setRun e r).fab = s.fab := rfl
@[simp] theorem State.setRun_pwr : (s.setRun e r).pwr = s.pwr := rfl
@[simp] theorem State.setRun_apr : (s.setRun e r).apr = s.apr := rfl
end

section
variable (s : State) (q : Nat) (f : Quire → Quire)
@[simp] theorem State.updQuire_pending : (s.updQuire q f).pending = s.pending := rfl
@[simp] theorem State.updQuire_expired : (s.updQuire q f).expired = s.expired := rfl
@[simp] theorem State.updQuire_freeCtr : (s.updQuire q f).freeCtr = s.freeCtr := rfl
@[simp] theorem State.updQuire_outbox : (s.updQuire q f).outbox = s.outbox := rfl
@[simp] theorem State.updQuire_powerGood : (s.updQuire q f).powerGood = s.powerGood := rfl
@[simp] theorem State.updQuire_stopped : (s.updQuire q f).stopped = s.stopped := rfl
@[simp] theorem State.updQuire_timebase : (s.updQuire q f).timebase = s.timebase := rfl
@[simp] theorem State.updQuire_ppsStamp : (s.updQuire q f).ppsStamp = s.ppsStamp := rfl
@[simp] theorem State.updQuire_pins : (s.updQuire q f).pins = s.pins := rfl
@[simp] theorem State.updQuire_clkLost : (s.updQuire q f).clkLost = s.clkLost := rfl
@[simp] theorem State.updQuire_dev : (s.updQuire q f).dev = s.dev := rfl
@[simp] theorem State.updQuire_col : (s.updQuire q f).col = s.col := rfl
@[simp] theorem State.updQuire_log : (s.updQuire q f).log = s.log := rfl
@[simp] theorem State.updQuire_regs : (s.updQuire q f).regs = s.regs := rfl
@[simp] theorem State.updQuire_winRegs : (s.updQuire q f).winRegs = s.winRegs := rfl
@[simp] theorem State.updQuire_mem : (s.updQuire q f).mem = s.mem := rfl
@[simp] theorem State.updQuire_msixCtl : (s.updQuire q f).msixCtl = s.msixCtl := rfl
@[simp] theorem State.updQuire_link : (s.updQuire q f).link = s.link := rfl
@[simp] theorem State.updQuire_hostErrs : (s.updQuire q f).hostErrs = s.hostErrs := rfl
@[simp] theorem State.updQuire_insts : (s.updQuire q f).insts = s.insts := rfl
@[simp] theorem State.updQuire_cmds : (s.updQuire q f).cmds = s.cmds := rfl
@[simp] theorem State.updQuire_cmdNo : (s.updQuire q f).cmdNo = s.cmdNo := rfl
@[simp] theorem State.updQuire_rrAdmin : (s.updQuire q f).rrAdmin = s.rrAdmin := rfl
@[simp] theorem State.updQuire_rrIo : (s.updQuire q f).rrIo = s.rrIo := rfl
@[simp] theorem State.updQuire_hdm : (s.updQuire q f).hdm = s.hdm := rfl
@[simp] theorem State.updQuire_poison : (s.updQuire q f).poison = s.poison := rfl
@[simp] theorem State.updQuire_upsets : (s.updQuire q f).upsets = s.upsets := rfl
@[simp] theorem State.updQuire_pager : (s.updQuire q f).pager = s.pager := rfl
@[simp] theorem State.updQuire_chans : (s.updQuire q f).chans = s.chans := rfl
@[simp] theorem State.updQuire_hbm : (s.updQuire q f).hbm = s.hbm := rfl
@[simp] theorem State.updQuire_ports : (s.updQuire q f).ports = s.ports := rfl
@[simp] theorem State.updQuire_press : (s.updQuire q f).press = s.press := rfl
@[simp] theorem State.updQuire_xts : (s.updQuire q f).xts = s.xts := rfl
@[simp] theorem State.updQuire_slotWait : (s.updQuire q f).slotWait = s.slotWait := rfl
@[simp] theorem State.updQuire_groups : (s.updQuire q f).groups = s.groups := rfl
@[simp] theorem State.updQuire_banks : (s.updQuire q f).banks = s.banks := rfl
@[simp] theorem State.updQuire_copies : (s.updQuire q f).copies = s.copies := rfl
@[simp] theorem State.updQuire_slc : (s.updQuire q f).slc = s.slc := rfl
@[simp] theorem State.updQuire_shares : (s.updQuire q f).shares = s.shares := rfl
@[simp] theorem State.updQuire_eng : (s.updQuire q f).eng = s.eng := rfl
@[simp] theorem State.updQuire_folios : (s.updQuire q f).folios = s.folios := rfl
@[simp] theorem State.updQuire_runs : (s.updQuire q f).runs = s.runs := rfl
@[simp] theorem State.updQuire_leaves : (s.updQuire q f).leaves = s.leaves := rfl
@[simp] theorem State.updQuire_trims : (s.updQuire q f).trims = s.trims := rfl
@[simp] theorem State.updQuire_quires : (s.updQuire q f).quires = Tab.set s.quires q (f (s.quire q)) := rfl
@[simp] theorem State.updQuire_thumb : (s.updQuire q f).thumb = s.thumb := rfl
@[simp] theorem State.updQuire_coll : (s.updQuire q f).coll = s.coll := rfl
@[simp] theorem State.updQuire_arrivals : (s.updQuire q f).arrivals = s.arrivals := rfl
@[simp] theorem State.updQuire_assocs : (s.updQuire q f).assocs = s.assocs := rfl
@[simp] theorem State.updQuire_inboxes : (s.updQuire q f).inboxes = s.inboxes := rfl
@[simp] theorem State.updQuire_cry : (s.updQuire q f).cry = s.cry := rfl
@[simp] theorem State.updQuire_fab : (s.updQuire q f).fab = s.fab := rfl
@[simp] theorem State.updQuire_pwr : (s.updQuire q f).pwr = s.pwr := rfl
@[simp] theorem State.updQuire_apr : (s.updQuire q f).apr = s.apr := rfl
end

section
variable (s : State) (f : Pwr → Pwr)
@[simp] theorem State.updPwr_pending : (s.updPwr f).pending = s.pending := rfl
@[simp] theorem State.updPwr_expired : (s.updPwr f).expired = s.expired := rfl
@[simp] theorem State.updPwr_freeCtr : (s.updPwr f).freeCtr = s.freeCtr := rfl
@[simp] theorem State.updPwr_outbox : (s.updPwr f).outbox = s.outbox := rfl
@[simp] theorem State.updPwr_powerGood : (s.updPwr f).powerGood = s.powerGood := rfl
@[simp] theorem State.updPwr_stopped : (s.updPwr f).stopped = s.stopped := rfl
@[simp] theorem State.updPwr_timebase : (s.updPwr f).timebase = s.timebase := rfl
@[simp] theorem State.updPwr_ppsStamp : (s.updPwr f).ppsStamp = s.ppsStamp := rfl
@[simp] theorem State.updPwr_pins : (s.updPwr f).pins = s.pins := rfl
@[simp] theorem State.updPwr_clkLost : (s.updPwr f).clkLost = s.clkLost := rfl
@[simp] theorem State.updPwr_dev : (s.updPwr f).dev = s.dev := rfl
@[simp] theorem State.updPwr_col : (s.updPwr f).col = s.col := rfl
@[simp] theorem State.updPwr_log : (s.updPwr f).log = s.log := rfl
@[simp] theorem State.updPwr_regs : (s.updPwr f).regs = s.regs := rfl
@[simp] theorem State.updPwr_winRegs : (s.updPwr f).winRegs = s.winRegs := rfl
@[simp] theorem State.updPwr_mem : (s.updPwr f).mem = s.mem := rfl
@[simp] theorem State.updPwr_msixCtl : (s.updPwr f).msixCtl = s.msixCtl := rfl
@[simp] theorem State.updPwr_link : (s.updPwr f).link = s.link := rfl
@[simp] theorem State.updPwr_hostErrs : (s.updPwr f).hostErrs = s.hostErrs := rfl
@[simp] theorem State.updPwr_insts : (s.updPwr f).insts = s.insts := rfl
@[simp] theorem State.updPwr_cmds : (s.updPwr f).cmds = s.cmds := rfl
@[simp] theorem State.updPwr_cmdNo : (s.updPwr f).cmdNo = s.cmdNo := rfl
@[simp] theorem State.updPwr_rrAdmin : (s.updPwr f).rrAdmin = s.rrAdmin := rfl
@[simp] theorem State.updPwr_rrIo : (s.updPwr f).rrIo = s.rrIo := rfl
@[simp] theorem State.updPwr_hdm : (s.updPwr f).hdm = s.hdm := rfl
@[simp] theorem State.updPwr_poison : (s.updPwr f).poison = s.poison := rfl
@[simp] theorem State.updPwr_upsets : (s.updPwr f).upsets = s.upsets := rfl
@[simp] theorem State.updPwr_pager : (s.updPwr f).pager = s.pager := rfl
@[simp] theorem State.updPwr_chans : (s.updPwr f).chans = s.chans := rfl
@[simp] theorem State.updPwr_hbm : (s.updPwr f).hbm = s.hbm := rfl
@[simp] theorem State.updPwr_ports : (s.updPwr f).ports = s.ports := rfl
@[simp] theorem State.updPwr_press : (s.updPwr f).press = s.press := rfl
@[simp] theorem State.updPwr_xts : (s.updPwr f).xts = s.xts := rfl
@[simp] theorem State.updPwr_slotWait : (s.updPwr f).slotWait = s.slotWait := rfl
@[simp] theorem State.updPwr_groups : (s.updPwr f).groups = s.groups := rfl
@[simp] theorem State.updPwr_banks : (s.updPwr f).banks = s.banks := rfl
@[simp] theorem State.updPwr_copies : (s.updPwr f).copies = s.copies := rfl
@[simp] theorem State.updPwr_slc : (s.updPwr f).slc = s.slc := rfl
@[simp] theorem State.updPwr_shares : (s.updPwr f).shares = s.shares := rfl
@[simp] theorem State.updPwr_eng : (s.updPwr f).eng = s.eng := rfl
@[simp] theorem State.updPwr_folios : (s.updPwr f).folios = s.folios := rfl
@[simp] theorem State.updPwr_runs : (s.updPwr f).runs = s.runs := rfl
@[simp] theorem State.updPwr_leaves : (s.updPwr f).leaves = s.leaves := rfl
@[simp] theorem State.updPwr_trims : (s.updPwr f).trims = s.trims := rfl
@[simp] theorem State.updPwr_quires : (s.updPwr f).quires = s.quires := rfl
@[simp] theorem State.updPwr_thumb : (s.updPwr f).thumb = s.thumb := rfl
@[simp] theorem State.updPwr_coll : (s.updPwr f).coll = s.coll := rfl
@[simp] theorem State.updPwr_arrivals : (s.updPwr f).arrivals = s.arrivals := rfl
@[simp] theorem State.updPwr_assocs : (s.updPwr f).assocs = s.assocs := rfl
@[simp] theorem State.updPwr_inboxes : (s.updPwr f).inboxes = s.inboxes := rfl
@[simp] theorem State.updPwr_cry : (s.updPwr f).cry = s.cry := rfl
@[simp] theorem State.updPwr_fab : (s.updPwr f).fab = s.fab := rfl
@[simp] theorem State.updPwr_pwr : (s.updPwr f).pwr = f s.pwr := rfl
@[simp] theorem State.updPwr_apr : (s.updPwr f).apr = s.apr := rfl
end

section
variable (s : State) (f : Pager → Pager)
@[simp] theorem State.updPager_pending : (s.updPager f).pending = s.pending := rfl
@[simp] theorem State.updPager_expired : (s.updPager f).expired = s.expired := rfl
@[simp] theorem State.updPager_freeCtr : (s.updPager f).freeCtr = s.freeCtr := rfl
@[simp] theorem State.updPager_outbox : (s.updPager f).outbox = s.outbox := rfl
@[simp] theorem State.updPager_powerGood : (s.updPager f).powerGood = s.powerGood := rfl
@[simp] theorem State.updPager_stopped : (s.updPager f).stopped = s.stopped := rfl
@[simp] theorem State.updPager_timebase : (s.updPager f).timebase = s.timebase := rfl
@[simp] theorem State.updPager_ppsStamp : (s.updPager f).ppsStamp = s.ppsStamp := rfl
@[simp] theorem State.updPager_pins : (s.updPager f).pins = s.pins := rfl
@[simp] theorem State.updPager_clkLost : (s.updPager f).clkLost = s.clkLost := rfl
@[simp] theorem State.updPager_dev : (s.updPager f).dev = s.dev := rfl
@[simp] theorem State.updPager_col : (s.updPager f).col = s.col := rfl
@[simp] theorem State.updPager_log : (s.updPager f).log = s.log := rfl
@[simp] theorem State.updPager_regs : (s.updPager f).regs = s.regs := rfl
@[simp] theorem State.updPager_winRegs : (s.updPager f).winRegs = s.winRegs := rfl
@[simp] theorem State.updPager_mem : (s.updPager f).mem = s.mem := rfl
@[simp] theorem State.updPager_msixCtl : (s.updPager f).msixCtl = s.msixCtl := rfl
@[simp] theorem State.updPager_link : (s.updPager f).link = s.link := rfl
@[simp] theorem State.updPager_hostErrs : (s.updPager f).hostErrs = s.hostErrs := rfl
@[simp] theorem State.updPager_insts : (s.updPager f).insts = s.insts := rfl
@[simp] theorem State.updPager_cmds : (s.updPager f).cmds = s.cmds := rfl
@[simp] theorem State.updPager_cmdNo : (s.updPager f).cmdNo = s.cmdNo := rfl
@[simp] theorem State.updPager_rrAdmin : (s.updPager f).rrAdmin = s.rrAdmin := rfl
@[simp] theorem State.updPager_rrIo : (s.updPager f).rrIo = s.rrIo := rfl
@[simp] theorem State.updPager_hdm : (s.updPager f).hdm = s.hdm := rfl
@[simp] theorem State.updPager_poison : (s.updPager f).poison = s.poison := rfl
@[simp] theorem State.updPager_upsets : (s.updPager f).upsets = s.upsets := rfl
@[simp] theorem State.updPager_pager : (s.updPager f).pager = f s.pager := rfl
@[simp] theorem State.updPager_chans : (s.updPager f).chans = s.chans := rfl
@[simp] theorem State.updPager_hbm : (s.updPager f).hbm = s.hbm := rfl
@[simp] theorem State.updPager_ports : (s.updPager f).ports = s.ports := rfl
@[simp] theorem State.updPager_press : (s.updPager f).press = s.press := rfl
@[simp] theorem State.updPager_xts : (s.updPager f).xts = s.xts := rfl
@[simp] theorem State.updPager_slotWait : (s.updPager f).slotWait = s.slotWait := rfl
@[simp] theorem State.updPager_groups : (s.updPager f).groups = s.groups := rfl
@[simp] theorem State.updPager_banks : (s.updPager f).banks = s.banks := rfl
@[simp] theorem State.updPager_copies : (s.updPager f).copies = s.copies := rfl
@[simp] theorem State.updPager_slc : (s.updPager f).slc = s.slc := rfl
@[simp] theorem State.updPager_shares : (s.updPager f).shares = s.shares := rfl
@[simp] theorem State.updPager_eng : (s.updPager f).eng = s.eng := rfl
@[simp] theorem State.updPager_folios : (s.updPager f).folios = s.folios := rfl
@[simp] theorem State.updPager_runs : (s.updPager f).runs = s.runs := rfl
@[simp] theorem State.updPager_leaves : (s.updPager f).leaves = s.leaves := rfl
@[simp] theorem State.updPager_trims : (s.updPager f).trims = s.trims := rfl
@[simp] theorem State.updPager_quires : (s.updPager f).quires = s.quires := rfl
@[simp] theorem State.updPager_thumb : (s.updPager f).thumb = s.thumb := rfl
@[simp] theorem State.updPager_coll : (s.updPager f).coll = s.coll := rfl
@[simp] theorem State.updPager_arrivals : (s.updPager f).arrivals = s.arrivals := rfl
@[simp] theorem State.updPager_assocs : (s.updPager f).assocs = s.assocs := rfl
@[simp] theorem State.updPager_inboxes : (s.updPager f).inboxes = s.inboxes := rfl
@[simp] theorem State.updPager_cry : (s.updPager f).cry = s.cry := rfl
@[simp] theorem State.updPager_fab : (s.updPager f).fab = s.fab := rfl
@[simp] theorem State.updPager_pwr : (s.updPager f).pwr = s.pwr := rfl
@[simp] theorem State.updPager_apr : (s.updPager f).apr = s.apr := rfl
end

section
variable (s : State) (a : Nat) (f : Assoc → Assoc)
@[simp] theorem State.updAssoc_pending : (s.updAssoc a f).pending = s.pending := rfl
@[simp] theorem State.updAssoc_expired : (s.updAssoc a f).expired = s.expired := rfl
@[simp] theorem State.updAssoc_freeCtr : (s.updAssoc a f).freeCtr = s.freeCtr := rfl
@[simp] theorem State.updAssoc_outbox : (s.updAssoc a f).outbox = s.outbox := rfl
@[simp] theorem State.updAssoc_powerGood : (s.updAssoc a f).powerGood = s.powerGood := rfl
@[simp] theorem State.updAssoc_stopped : (s.updAssoc a f).stopped = s.stopped := rfl
@[simp] theorem State.updAssoc_timebase : (s.updAssoc a f).timebase = s.timebase := rfl
@[simp] theorem State.updAssoc_ppsStamp : (s.updAssoc a f).ppsStamp = s.ppsStamp := rfl
@[simp] theorem State.updAssoc_pins : (s.updAssoc a f).pins = s.pins := rfl
@[simp] theorem State.updAssoc_clkLost : (s.updAssoc a f).clkLost = s.clkLost := rfl
@[simp] theorem State.updAssoc_dev : (s.updAssoc a f).dev = s.dev := rfl
@[simp] theorem State.updAssoc_col : (s.updAssoc a f).col = s.col := rfl
@[simp] theorem State.updAssoc_log : (s.updAssoc a f).log = s.log := rfl
@[simp] theorem State.updAssoc_regs : (s.updAssoc a f).regs = s.regs := rfl
@[simp] theorem State.updAssoc_winRegs : (s.updAssoc a f).winRegs = s.winRegs := rfl
@[simp] theorem State.updAssoc_mem : (s.updAssoc a f).mem = s.mem := rfl
@[simp] theorem State.updAssoc_msixCtl : (s.updAssoc a f).msixCtl = s.msixCtl := rfl
@[simp] theorem State.updAssoc_link : (s.updAssoc a f).link = s.link := rfl
@[simp] theorem State.updAssoc_hostErrs : (s.updAssoc a f).hostErrs = s.hostErrs := rfl
@[simp] theorem State.updAssoc_insts : (s.updAssoc a f).insts = s.insts := rfl
@[simp] theorem State.updAssoc_cmds : (s.updAssoc a f).cmds = s.cmds := rfl
@[simp] theorem State.updAssoc_cmdNo : (s.updAssoc a f).cmdNo = s.cmdNo := rfl
@[simp] theorem State.updAssoc_rrAdmin : (s.updAssoc a f).rrAdmin = s.rrAdmin := rfl
@[simp] theorem State.updAssoc_rrIo : (s.updAssoc a f).rrIo = s.rrIo := rfl
@[simp] theorem State.updAssoc_hdm : (s.updAssoc a f).hdm = s.hdm := rfl
@[simp] theorem State.updAssoc_poison : (s.updAssoc a f).poison = s.poison := rfl
@[simp] theorem State.updAssoc_upsets : (s.updAssoc a f).upsets = s.upsets := rfl
@[simp] theorem State.updAssoc_pager : (s.updAssoc a f).pager = s.pager := rfl
@[simp] theorem State.updAssoc_chans : (s.updAssoc a f).chans = s.chans := rfl
@[simp] theorem State.updAssoc_hbm : (s.updAssoc a f).hbm = s.hbm := rfl
@[simp] theorem State.updAssoc_ports : (s.updAssoc a f).ports = s.ports := rfl
@[simp] theorem State.updAssoc_press : (s.updAssoc a f).press = s.press := rfl
@[simp] theorem State.updAssoc_xts : (s.updAssoc a f).xts = s.xts := rfl
@[simp] theorem State.updAssoc_slotWait : (s.updAssoc a f).slotWait = s.slotWait := rfl
@[simp] theorem State.updAssoc_groups : (s.updAssoc a f).groups = s.groups := rfl
@[simp] theorem State.updAssoc_banks : (s.updAssoc a f).banks = s.banks := rfl
@[simp] theorem State.updAssoc_copies : (s.updAssoc a f).copies = s.copies := rfl
@[simp] theorem State.updAssoc_slc : (s.updAssoc a f).slc = s.slc := rfl
@[simp] theorem State.updAssoc_shares : (s.updAssoc a f).shares = s.shares := rfl
@[simp] theorem State.updAssoc_eng : (s.updAssoc a f).eng = s.eng := rfl
@[simp] theorem State.updAssoc_folios : (s.updAssoc a f).folios = s.folios := rfl
@[simp] theorem State.updAssoc_runs : (s.updAssoc a f).runs = s.runs := rfl
@[simp] theorem State.updAssoc_leaves : (s.updAssoc a f).leaves = s.leaves := rfl
@[simp] theorem State.updAssoc_trims : (s.updAssoc a f).trims = s.trims := rfl
@[simp] theorem State.updAssoc_quires : (s.updAssoc a f).quires = s.quires := rfl
@[simp] theorem State.updAssoc_thumb : (s.updAssoc a f).thumb = s.thumb := rfl
@[simp] theorem State.updAssoc_coll : (s.updAssoc a f).coll = s.coll := rfl
@[simp] theorem State.updAssoc_arrivals : (s.updAssoc a f).arrivals = s.arrivals := rfl
@[simp] theorem State.updAssoc_assocs : (s.updAssoc a f).assocs = Tab.upd s.assocs a f := rfl
@[simp] theorem State.updAssoc_inboxes : (s.updAssoc a f).inboxes = s.inboxes := rfl
@[simp] theorem State.updAssoc_cry : (s.updAssoc a f).cry = s.cry := rfl
@[simp] theorem State.updAssoc_fab : (s.updAssoc a f).fab = s.fab := rfl
@[simp] theorem State.updAssoc_pwr : (s.updAssoc a f).pwr = s.pwr := rfl
@[simp] theorem State.updAssoc_apr : (s.updAssoc a f).apr = s.apr := rfl
end

section
variable (s : State) (t : Nat) (f : Trim → Trim)
@[simp] theorem State.updTrim_pending : (s.updTrim t f).pending = s.pending := rfl
@[simp] theorem State.updTrim_expired : (s.updTrim t f).expired = s.expired := rfl
@[simp] theorem State.updTrim_freeCtr : (s.updTrim t f).freeCtr = s.freeCtr := rfl
@[simp] theorem State.updTrim_outbox : (s.updTrim t f).outbox = s.outbox := rfl
@[simp] theorem State.updTrim_powerGood : (s.updTrim t f).powerGood = s.powerGood := rfl
@[simp] theorem State.updTrim_stopped : (s.updTrim t f).stopped = s.stopped := rfl
@[simp] theorem State.updTrim_timebase : (s.updTrim t f).timebase = s.timebase := rfl
@[simp] theorem State.updTrim_ppsStamp : (s.updTrim t f).ppsStamp = s.ppsStamp := rfl
@[simp] theorem State.updTrim_pins : (s.updTrim t f).pins = s.pins := rfl
@[simp] theorem State.updTrim_clkLost : (s.updTrim t f).clkLost = s.clkLost := rfl
@[simp] theorem State.updTrim_dev : (s.updTrim t f).dev = s.dev := rfl
@[simp] theorem State.updTrim_col : (s.updTrim t f).col = s.col := rfl
@[simp] theorem State.updTrim_log : (s.updTrim t f).log = s.log := rfl
@[simp] theorem State.updTrim_regs : (s.updTrim t f).regs = s.regs := rfl
@[simp] theorem State.updTrim_winRegs : (s.updTrim t f).winRegs = s.winRegs := rfl
@[simp] theorem State.updTrim_mem : (s.updTrim t f).mem = s.mem := rfl
@[simp] theorem State.updTrim_msixCtl : (s.updTrim t f).msixCtl = s.msixCtl := rfl
@[simp] theorem State.updTrim_link : (s.updTrim t f).link = s.link := rfl
@[simp] theorem State.updTrim_hostErrs : (s.updTrim t f).hostErrs = s.hostErrs := rfl
@[simp] theorem State.updTrim_insts : (s.updTrim t f).insts = s.insts := rfl
@[simp] theorem State.updTrim_cmds : (s.updTrim t f).cmds = s.cmds := rfl
@[simp] theorem State.updTrim_cmdNo : (s.updTrim t f).cmdNo = s.cmdNo := rfl
@[simp] theorem State.updTrim_rrAdmin : (s.updTrim t f).rrAdmin = s.rrAdmin := rfl
@[simp] theorem State.updTrim_rrIo : (s.updTrim t f).rrIo = s.rrIo := rfl
@[simp] theorem State.updTrim_hdm : (s.updTrim t f).hdm = s.hdm := rfl
@[simp] theorem State.updTrim_poison : (s.updTrim t f).poison = s.poison := rfl
@[simp] theorem State.updTrim_upsets : (s.updTrim t f).upsets = s.upsets := rfl
@[simp] theorem State.updTrim_pager : (s.updTrim t f).pager = s.pager := rfl
@[simp] theorem State.updTrim_chans : (s.updTrim t f).chans = s.chans := rfl
@[simp] theorem State.updTrim_hbm : (s.updTrim t f).hbm = s.hbm := rfl
@[simp] theorem State.updTrim_ports : (s.updTrim t f).ports = s.ports := rfl
@[simp] theorem State.updTrim_press : (s.updTrim t f).press = s.press := rfl
@[simp] theorem State.updTrim_xts : (s.updTrim t f).xts = s.xts := rfl
@[simp] theorem State.updTrim_slotWait : (s.updTrim t f).slotWait = s.slotWait := rfl
@[simp] theorem State.updTrim_groups : (s.updTrim t f).groups = s.groups := rfl
@[simp] theorem State.updTrim_banks : (s.updTrim t f).banks = s.banks := rfl
@[simp] theorem State.updTrim_copies : (s.updTrim t f).copies = s.copies := rfl
@[simp] theorem State.updTrim_slc : (s.updTrim t f).slc = s.slc := rfl
@[simp] theorem State.updTrim_shares : (s.updTrim t f).shares = s.shares := rfl
@[simp] theorem State.updTrim_eng : (s.updTrim t f).eng = s.eng := rfl
@[simp] theorem State.updTrim_folios : (s.updTrim t f).folios = s.folios := rfl
@[simp] theorem State.updTrim_runs : (s.updTrim t f).runs = s.runs := rfl
@[simp] theorem State.updTrim_leaves : (s.updTrim t f).leaves = s.leaves := rfl
@[simp] theorem State.updTrim_trims : (s.updTrim t f).trims = Tab.set s.trims t (f (s.trim t)) := rfl
@[simp] theorem State.updTrim_quires : (s.updTrim t f).quires = s.quires := rfl
@[simp] theorem State.updTrim_thumb : (s.updTrim t f).thumb = s.thumb := rfl
@[simp] theorem State.updTrim_coll : (s.updTrim t f).coll = s.coll := rfl
@[simp] theorem State.updTrim_arrivals : (s.updTrim t f).arrivals = s.arrivals := rfl
@[simp] theorem State.updTrim_assocs : (s.updTrim t f).assocs = s.assocs := rfl
@[simp] theorem State.updTrim_inboxes : (s.updTrim t f).inboxes = s.inboxes := rfl
@[simp] theorem State.updTrim_cry : (s.updTrim t f).cry = s.cry := rfl
@[simp] theorem State.updTrim_fab : (s.updTrim t f).fab = s.fab := rfl
@[simp] theorem State.updTrim_pwr : (s.updTrim t f).pwr = s.pwr := rfl
@[simp] theorem State.updTrim_apr : (s.updTrim t f).apr = s.apr := rfl
end

section
variable (s : State) (c : Nat) (f : CopyChan → CopyChan)
@[simp] theorem State.updCopy_pending : (s.updCopy c f).pending = s.pending := rfl
@[simp] theorem State.updCopy_expired : (s.updCopy c f).expired = s.expired := rfl
@[simp] theorem State.updCopy_freeCtr : (s.updCopy c f).freeCtr = s.freeCtr := rfl
@[simp] theorem State.updCopy_outbox : (s.updCopy c f).outbox = s.outbox := rfl
@[simp] theorem State.updCopy_powerGood : (s.updCopy c f).powerGood = s.powerGood := rfl
@[simp] theorem State.updCopy_stopped : (s.updCopy c f).stopped = s.stopped := rfl
@[simp] theorem State.updCopy_timebase : (s.updCopy c f).timebase = s.timebase := rfl
@[simp] theorem State.updCopy_ppsStamp : (s.updCopy c f).ppsStamp = s.ppsStamp := rfl
@[simp] theorem State.updCopy_pins : (s.updCopy c f).pins = s.pins := rfl
@[simp] theorem State.updCopy_clkLost : (s.updCopy c f).clkLost = s.clkLost := rfl
@[simp] theorem State.updCopy_dev : (s.updCopy c f).dev = s.dev := rfl
@[simp] theorem State.updCopy_col : (s.updCopy c f).col = s.col := rfl
@[simp] theorem State.updCopy_log : (s.updCopy c f).log = s.log := rfl
@[simp] theorem State.updCopy_regs : (s.updCopy c f).regs = s.regs := rfl
@[simp] theorem State.updCopy_winRegs : (s.updCopy c f).winRegs = s.winRegs := rfl
@[simp] theorem State.updCopy_mem : (s.updCopy c f).mem = s.mem := rfl
@[simp] theorem State.updCopy_msixCtl : (s.updCopy c f).msixCtl = s.msixCtl := rfl
@[simp] theorem State.updCopy_link : (s.updCopy c f).link = s.link := rfl
@[simp] theorem State.updCopy_hostErrs : (s.updCopy c f).hostErrs = s.hostErrs := rfl
@[simp] theorem State.updCopy_insts : (s.updCopy c f).insts = s.insts := rfl
@[simp] theorem State.updCopy_cmds : (s.updCopy c f).cmds = s.cmds := rfl
@[simp] theorem State.updCopy_cmdNo : (s.updCopy c f).cmdNo = s.cmdNo := rfl
@[simp] theorem State.updCopy_rrAdmin : (s.updCopy c f).rrAdmin = s.rrAdmin := rfl
@[simp] theorem State.updCopy_rrIo : (s.updCopy c f).rrIo = s.rrIo := rfl
@[simp] theorem State.updCopy_hdm : (s.updCopy c f).hdm = s.hdm := rfl
@[simp] theorem State.updCopy_poison : (s.updCopy c f).poison = s.poison := rfl
@[simp] theorem State.updCopy_upsets : (s.updCopy c f).upsets = s.upsets := rfl
@[simp] theorem State.updCopy_pager : (s.updCopy c f).pager = s.pager := rfl
@[simp] theorem State.updCopy_chans : (s.updCopy c f).chans = s.chans := rfl
@[simp] theorem State.updCopy_hbm : (s.updCopy c f).hbm = s.hbm := rfl
@[simp] theorem State.updCopy_ports : (s.updCopy c f).ports = s.ports := rfl
@[simp] theorem State.updCopy_press : (s.updCopy c f).press = s.press := rfl
@[simp] theorem State.updCopy_xts : (s.updCopy c f).xts = s.xts := rfl
@[simp] theorem State.updCopy_slotWait : (s.updCopy c f).slotWait = s.slotWait := rfl
@[simp] theorem State.updCopy_groups : (s.updCopy c f).groups = s.groups := rfl
@[simp] theorem State.updCopy_banks : (s.updCopy c f).banks = s.banks := rfl
@[simp] theorem State.updCopy_copies : (s.updCopy c f).copies = Tab.upd s.copies c f := rfl
@[simp] theorem State.updCopy_slc : (s.updCopy c f).slc = s.slc := rfl
@[simp] theorem State.updCopy_shares : (s.updCopy c f).shares = s.shares := rfl
@[simp] theorem State.updCopy_eng : (s.updCopy c f).eng = s.eng := rfl
@[simp] theorem State.updCopy_folios : (s.updCopy c f).folios = s.folios := rfl
@[simp] theorem State.updCopy_runs : (s.updCopy c f).runs = s.runs := rfl
@[simp] theorem State.updCopy_leaves : (s.updCopy c f).leaves = s.leaves := rfl
@[simp] theorem State.updCopy_trims : (s.updCopy c f).trims = s.trims := rfl
@[simp] theorem State.updCopy_quires : (s.updCopy c f).quires = s.quires := rfl
@[simp] theorem State.updCopy_thumb : (s.updCopy c f).thumb = s.thumb := rfl
@[simp] theorem State.updCopy_coll : (s.updCopy c f).coll = s.coll := rfl
@[simp] theorem State.updCopy_arrivals : (s.updCopy c f).arrivals = s.arrivals := rfl
@[simp] theorem State.updCopy_assocs : (s.updCopy c f).assocs = s.assocs := rfl
@[simp] theorem State.updCopy_inboxes : (s.updCopy c f).inboxes = s.inboxes := rfl
@[simp] theorem State.updCopy_cry : (s.updCopy c f).cry = s.cry := rfl
@[simp] theorem State.updCopy_fab : (s.updCopy c f).fab = s.fab := rfl
@[simp] theorem State.updCopy_pwr : (s.updCopy c f).pwr = s.pwr := rfl
@[simp] theorem State.updCopy_apr : (s.updCopy c f).apr = s.apr := rfl
end

end Sys2Proof.Machine
end

