-- ==== Sys2Proof/Laws/Tables.lean ====
section
/-! SUPPORT. The laws of the tables that hold registers, instances, engines and leaves, and of the accessors over
them. -/
namespace Sys2Proof.Machine

-- ---------------------------------------------------------------- tables

theorem Tab.find_set {α : Type} (t : Tab α) (k j : Nat) (v : α) :
    Tab.find (Tab.set t k v) j = if j = k then some v else Tab.find t j := by
  induction t with
  | nil =>
    by_cases h : j = k
    · simp [Tab.set, Tab.find, h]
    · simp [Tab.set, Tab.find, h, Ne.symm h]
  | cons c r ih =>
    obtain ⟨a, w⟩ := c
    unfold Tab.set
    split
    · by_cases h : j = k
      · simp [Tab.find, h]
      · simp [Tab.find, h, Ne.symm h]
    · split
      · rename_i _ hk
        subst hk
        by_cases h : j = k
        · simp [Tab.find, h]
        · simp [Tab.find, h, Ne.symm h]
      · rename_i _ hk
        by_cases h : j = k
        · subst h; simp [Tab.find, Ne.symm hk, ih]
        · simp [Tab.find, ih, h]

@[simp] theorem Tab.find_set_same {α : Type} (t : Tab α) (k : Nat) (v : α) : Tab.find (Tab.set t k v) k = some v := by
  simp [Tab.find_set]

theorem Tab.find_set_ne {α : Type} (t : Tab α) (k j : Nat) (v : α) (h : j ≠ k) :
    Tab.find (Tab.set t k v) j = Tab.find t j := by simp [Tab.find_set, h]

@[simp] theorem Tab.get_set_same {α : Type} (t : Tab α) (k : Nat) (v d : α) : Tab.get (Tab.set t k v) k d = v := by
  simp [Tab.get]

theorem Tab.get_set_ne {α : Type} (t : Tab α) (k j : Nat) (v d : α) (h : j ≠ k) :
    Tab.get (Tab.set t k v) j d = Tab.get t j d := by simp [Tab.get, Tab.find_set_ne _ _ _ _ h]

theorem Tab.find_upd {α : Type} (t : Tab α) (k j : Nat) (f : α → α) :
    Tab.find (Tab.upd t k f) j = if j = k then (Tab.find t j).map f else Tab.find t j := by
  induction t with
  | nil => simp [Tab.upd, Tab.find]
  | cons c r ih =>
    obtain ⟨a, w⟩ := c
    have hu : Tab.upd ((a, w) :: r) k f = (a, if a = k then f w else w) :: Tab.upd r k f := by
      by_cases h : a = k <;> simp [Tab.upd, h]
    rw [hu]
    by_cases ha : a = j
    · subst ha
      by_cases hk : a = k <;> simp [Tab.find, hk]
    · simp [Tab.find, ha, ih]

-- ---------------------------------------------------------------- registers

theorem State.reg_setReg_same (s : State) (o v : Nat) : (s.setReg o v).reg o = v % 2 ^ 64 := by
  simp [State.reg]

/-- A write of one register leaves the others. -/
theorem State.reg_setReg_ne (s : State) (o j v : Nat) (h : j ≠ o) : (s.setReg o v).reg j = s.reg j := by
  simp [State.reg, Tab.find_set_ne _ _ _ _ h, State.regReset]

-- ---------------------------------------------------------------- engines, leaves, instances

@[simp] theorem State.engOf_updEng_same (s : State) (e : Nat) (f : Eng → Eng) : (s.updEng e f).engOf e = f (s.engOf e) := by
  simp [State.engOf]

theorem State.engOf_updEng_ne (s : State) (e j : Nat) (f : Eng → Eng) (h : j ≠ e) :
    (s.updEng e f).engOf j = s.engOf j := by simp [State.engOf, Tab.get_set_ne _ _ _ _ _ h]

@[simp] theorem State.engRun_setRun_same (s : State) (e : Nat) (r : EngRun) : (s.setRun e r).engRun e = some r := by
  simp [State.engRun, State.setRun]

theorem State.engRun_setRun_ne (s : State) (e j : Nat) (r : EngRun) (h : j ≠ e) :
    (s.setRun e r).engRun j = s.engRun j := by
  simp only [State.engRun, State.setRun]; rw [State.engOf_updEng_ne _ _ _ _ h]

theorem State.leaf?_updLeaf (s : State) (i j : Nat) (f : Leaf → Leaf) :
    (s.updLeaf i f).leaf? j = if j = i then (s.leaf? j).map f else s.leaf? j := by
  simp [State.leaf?, Tab.find_upd]

theorem State.inst?_updInst (s : State) (i j : Nat) (f : Inst → Inst) :
    (s.updInst i f).inst? j = if j = i then (s.inst? j).map f else s.inst? j := by
  simp [State.inst?, Tab.find_upd]

-- ---------------------------------------------------------------- registers of an engine (R99)

/-- g0 reads 0. -/
@[simp] theorem EngRun.rg_zero (r : EngRun) : r.rg 0 = 0 := by simp [EngRun.rg]

/-- A write to g0 is discarded. -/
@[simp] theorem EngRun.wg_zero (r : EngRun) (x : Word) : r.wg 0 x = r := by simp [EngRun.wg]

theorem EngRun.rg_wg (r : EngRun) (i j : BitVec 5) (x : Word) :
    (r.wg i x).rg j = if j = i ∧ i ≠ 0 then x else r.rg j := by
  by_cases hi : i = 0
  · subst hi; rw [EngRun.wg_zero]; simp
  · have hw : r.wg i x = { r with g := r.g.set i.toNat x i.isLt } := if_neg hi
    rw [hw]
    unfold EngRun.rg
    by_cases hj : j = 0
    · rw [if_pos hj, if_pos hj, if_neg]
      rintro ⟨rfl, _⟩; exact hi hj
    · rw [if_neg hj, if_neg hj]
      by_cases h : j = i
      · subst h; rw [if_pos ⟨rfl, hj⟩]; simp
      · have hn : i.toNat ≠ j.toNat := fun he => h (BitVec.eq_of_toNat_eq he.symm)
        rw [if_neg (fun c => h c.1)]; simp [hn]

theorem EngRun.rv_wv (r : EngRun) (i j : BitVec 5) (x : BitVec 512) : (r.wv i x).rv j = if j = i then x else r.rv j := by
  unfold EngRun.wv EngRun.rv
  by_cases h : j = i
  · subst h; simp
  · have hn : i.toNat ≠ j.toNat := fun he => h (BitVec.eq_of_toNat_eq he.symm)
    simp [h, hn]

theorem EngRun.rm_wm (r : EngRun) (i j : BitVec 3) (x : Word) : (r.wm i x).rm j = if j = i then x else r.rm j := by
  unfold EngRun.wm EngRun.rm
  by_cases h : j = i
  · subst h; simp
  · have hn : i.toNat ≠ j.toNat := fun he => h (BitVec.eq_of_toNat_eq he.symm)
    simp [h, hn]

theorem EngRun.ra_wa (r : EngRun) (i j : BitVec 2) (x : ExactAcc) : (r.wa i x).ra j = if j = i then x else r.ra j := by
  unfold EngRun.wa EngRun.ra
  by_cases h : j = i
  · subst h; simp
  · have hn : i.toNat ≠ j.toNat := fun he => h (BitVec.eq_of_toNat_eq he.symm)
    simp [h, hn]

/-- A write of a scalar register leaves the rest of the run. -/
theorem EngRun.wg_rest (r : EngRun) (i : BitVec 5) (x : Word) : r.wg i x = { r with g := (r.wg i x).g } := by
  unfold EngRun.wg; split <;> rfl

end Sys2Proof.Machine
end

