-- ==== Sys2Proof/Laws/Engine.lean ====
section
/-! SUPPORT. What the shared run of an engine instruction can do, said once (R47, R97, R124–R126). -/
namespace Sys2Proof.Machine

/-- An engine that does not issue the instruction leaves the machine as it is. -/
theorem runEng_none {s : State} {e : Nat} {i : Instr} (f : EngRun → Leaf → State → EngOut) (h : s.issues e i = none) :
    runEng e i f s = s := by simp [runEng, h]

/-- What an engine that issues instruction `i` does with it: its effect on registers that count its steps, unless an
armed residue fault strikes or its word is poisoned. -/
theorem runEng_issues {s : State} {e : Nat} {i : Instr} {r : EngRun} {l : Leaf}
    (f : EngRun → Leaf → State → EngOut) (h : s.issues e i = some (r, l)) (ha : s.armed 1 e = false)
    (hp : s.poisoned (.imem e) r.pc 4 = false) :
    runEng e i f s = State.endInstr e l (f { r with steps := r.steps + engCost i r } l s) := by
  simp [runEng, h, ha, hp]

/-- Everything the shared run can answer. -/
theorem runEng_cases (e : Nat) (i : Instr) (f : EngRun → Leaf → State → EngOut) (s : State) :
    runEng e i f s = s
    ∨ (∃ r l, s.issues e i = some (r, l) ∧ s.armed 1 e = true ∧ runEng e i f s = s.disarm.engineFault e 2 true)
    ∨ (∃ r l, s.issues e i = some (r, l) ∧ s.poisoned (.imem e) r.pc 4 = true
        ∧ runEng e i f s = ((s.logConsumed l 0 r.pc).2).failLeaf l.id 0x3001 (s.logConsumed l 0 r.pc).1)
    ∨ (∃ r l, s.issues e i = some (r, l)
        ∧ runEng e i f s = State.endInstr e l (f { r with steps := r.steps + engCost i r } l s)) := by
  cases h : s.issues e i with
  | none => exact .inl (runEng_none f h)
  | some p =>
    obtain ⟨r, l⟩ := p
    by_cases ha : s.armed 1 e = true
    · exact .inr (.inl ⟨r, l, rfl, ha, by simp [runEng, h, ha]⟩)
    · by_cases hp : s.poisoned (.imem e) r.pc 4 = true
      · exact .inr (.inr (.inl ⟨r, l, rfl, hp, by simp [runEng, h, ha, hp]⟩))
      · exact .inr (.inr (.inr ⟨r, l, rfl, by simp [runEng, h, ha, hp]⟩))

/-- An instruction that completes moves to the next one. -/
@[simp] theorem endInstr_next (e : Nat) (l : Leaf) (r : EngRun) (s : State) :
    State.endInstr e l (.next r s) = s.setRun e { r with pc := r.pc + 4 } := rfl

@[simp] theorem endInstr_ok (e : Nat) (l : Leaf) (r : EngRun) (s : State) :
    State.endInstr e l (.acc (.ok r s)) = s.setRun e { r with pc := r.pc + 4 } := rfl

@[simp] theorem endInstr_wait (e : Nat) (l : Leaf) (s : State) : State.endInstr e l (.acc (.wait s)) = s := rfl

@[simp] theorem endInstr_fail (e : Nat) (l : Leaf) (st : Nat) (s : State) :
    State.endInstr e l (.fail st s) = s.failAt l st 0 := rfl

@[simp] theorem endInstr_accFail (e : Nat) (l : Leaf) (st a : Nat) (s : State) :
    State.endInstr e l (.acc (.fail st a s)) = s.failAt l st a := rfl

@[simp] theorem endInstr_commit (e : Nat) (l : Leaf) (r : EngRun) (s : State) :
    State.endInstr e l (.commit r s) = s.commitLeaf e r l := rfl

/-- A jump inside the code section. -/
theorem endInstr_jump {e : Nat} {l : Leaf} {r : EngRun} {s : State} {t : Word} (hx : t.toNat ≠ exitAddr)
    (h4 : t.toNat % 4 = 0) (hc : t.toNat < (s.engOf e).codeLen) :
    State.endInstr e l (.jump r t s) = s.setRun e { r with pc := t.toNat } := by
  simp [State.endInstr, hx, h4, hc]

/-- An engine instruction that only changes registers, issued. -/
theorem runPure_issues {s : State} {e : Nat} {i : Instr} {r : EngRun} {l : Leaf} (f : EngRun → EngRun)
    (h : s.issues e i = some (r, l)) (ha : s.armed 1 e = false) (hp : s.poisoned (.imem e) r.pc 4 = false) :
    runPure e i f s =
      s.setRun e { f { r with steps := r.steps + engCost i r } with
        pc := (f { r with steps := r.steps + engCost i r }).pc + 4 } := by
  simp [runPure, runEng_issues _ h ha hp]

/-- As `runPure_issues`, for an instruction that admits some element widths only. -/
theorem runWidth_issues {s : State} {e : Nat} {i : Instr} {r : EngRun} {l : Leaf} {ews : List Nat} (f : EngRun → EngRun)
    (h : s.issues e i = some (r, l)) (ha : s.armed 1 e = false) (hp : s.poisoned (.imem e) r.pc 4 = false)
    (hw : ews.contains r.w = true) :
    runWidth e i ews f s =
      s.setRun e { f { r with steps := r.steps + engCost i r } with
        pc := (f { r with steps := r.steps + engCost i r }).pc + 4 } := by
  have hw' : ews.contains ({ r with steps := r.steps + engCost i r } : EngRun).w = true := hw
  unfold runWidth
  rw [runEng_issues _ h ha hp, if_pos hw', endInstr_next]

/-- What an engine that issues an instruction is: it runs its leaf, and the word at its pc decodes to it. -/
theorem State.issues_spec {s : State} {e : Nat} {i : Instr} {r : EngRun} {l : Leaf} (h : s.issues e i = some (r, l)) :
    s.running_ e = some (r, l) ∧ r.pc < (s.engOf e).codeLen ∧ decodeEngine e (s.engWord e r) = some i
      ∧ r.steps + engCost i r ≤ r.limit := by
  unfold State.issues State.standsAt at h
  cases hr : s.running_ e with
  | none => simp [hr] at h
  | some p =>
    obtain ⟨r', l'⟩ := p
    simp only [hr] at h
    by_cases hc : r'.pc < (s.engOf e).codeLen ∧ decodeEngine e (s.engWord e r') = some i
    · simp only [hc, and_self, if_true] at h
      by_cases hl : r'.steps + engCost i r' ≤ r'.limit
      · simp only [hl, if_true, Option.some.injEq, Prod.mk.injEq] at h
        obtain ⟨rfl, rfl⟩ := h
        exact ⟨rfl, hc.1, hc.2, hl⟩
      · simp [hl] at h
    · simp [hc] at h

-- ---------------------------------------------------------------- registers whose steps were counted

section
variable (c : Instr) (r : EngRun)
@[simp] theorem counted_leaf : (counted c r).leaf = r.leaf := rfl
@[simp] theorem counted_pc : (counted c r).pc = r.pc := rfl
@[simp] theorem counted_g : (counted c r).g = r.g := rfl
@[simp] theorem counted_v : (counted c r).v = r.v := rfl
@[simp] theorem counted_m : (counted c r).m = r.m := rfl
@[simp] theorem counted_acc : (counted c r).acc = r.acc := rfl
@[simp] theorem counted_vl : (counted c r).vl = r.vl := rfl
@[simp] theorem counted_ew : (counted c r).ew = r.ew := rfl
@[simp] theorem counted_vlen : (counted c r).vlen = r.vlen := rfl
@[simp] theorem counted_sb : (counted c r).sb = r.sb := rfl
@[simp] theorem counted_ffi : (counted c r).ffi = r.ffi := rfl
@[simp] theorem counted_ovf : (counted c r).ovf = r.ovf := rfl
@[simp] theorem counted_spawns : (counted c r).spawns = r.spawns := rfl
@[simp] theorem counted_steps : (counted c r).steps = r.steps + engCost c r := rfl
@[simp] theorem counted_limit : (counted c r).limit = r.limit := rfl
@[simp] theorem counted_free : (counted c r).free = r.free := rfl
@[simp] theorem counted_stage : (counted c r).stage = r.stage := rfl
@[simp] theorem counted_staged : (counted c r).staged = r.staged := rfl
@[simp] theorem counted_spill : (counted c r).spill = r.spill := rfl
@[simp] theorem counted_pins : (counted c r).pins = r.pins := rfl
@[simp] theorem counted_resv : (counted c r).resv = r.resv := rfl
@[simp] theorem counted_cols : (counted c r).cols = r.cols := rfl
@[simp] theorem counted_rows : (counted c r).rows = r.rows := rfl
@[simp] theorem counted_spawned : (counted c r).spawned = r.spawned := rfl
@[simp] theorem counted_batches : (counted c r).batches = r.batches := rfl
@[simp] theorem counted_handed : (counted c r).handed = r.handed := rfl
@[simp] theorem counted_ended : (counted c r).ended = r.ended := rfl
@[simp] theorem counted_tail : (counted c r).tail = r.tail := rfl
@[simp] theorem counted_fetch : (counted c r).fetch = r.fetch := rfl
@[simp] theorem counted_banks : (counted c r).banks = r.banks := rfl
@[simp] theorem counted_waking : (counted c r).waking = r.waking := rfl
@[simp] theorem counted_rg_ : (counted c r).rg = r.rg := rfl
@[simp] theorem counted_rv_ : (counted c r).rv = r.rv := rfl
@[simp] theorem counted_rm_ : (counted c r).rm = r.rm := rfl
@[simp] theorem counted_ra_ : (counted c r).ra = r.ra := rfl
@[simp] theorem counted_w_ : (counted c r).w = r.w := rfl
@[simp] theorem counted_width_ : (counted c r).width = r.width := rfl
@[simp] theorem counted_actives_ : (counted c r).actives = r.actives := rfl
@[simp] theorem counted_active_ : (counted c r).active = r.active := rfl
@[simp] theorem counted_elemAddr_ : (counted c r).elemAddr = r.elemAddr := rfl
@[simp] theorem counted_bElem_ : (counted c r).bElem = r.bElem := rfl
@[simp] theorem counted_seed_ : (counted c r).seed = r.seed := rfl
@[simp] theorem counted_pairElem_ : (counted c r).pairElem = r.pairElem := rfl
@[simp] theorem counted_order_ : (counted c r).order = r.order := rfl
end

/-- What an issued instruction does: its effect on the counted registers. -/
theorem exec_issued {s : State} {e : Nat} {c : Instr} {r : EngRun} {l : Leaf} {f : EngRun → Leaf → State → EngOut}
    (hI : Issued s e c r l) (h0 : exec c s = ok (runEng e c f s)) :
    exec c s = .next (State.endInstr e l (f (counted c r) l s)) := by
  rw [h0, runEng_issues _ hI.1 hI.2.1 hI.2.2]; rfl

-- ---------------------------------------------------------------- a part that has stopped (R443)

theorem State.running_stopped {s : State} (h : s.stopped = true) : s.running = false := by simp [State.running, h]
theorem State.serving_stopped {s : State} (h : s.stopped = true) : s.serving = false := by simp [State.serving, h]

theorem State.issues_stopped {s : State} (h : s.stopped = true) (e : Nat) (i : Instr) : s.issues e i = none := by
  simp [State.issues, State.standsAt, State.running_, State.running_stopped h]

theorem State.takeCmd_stopped {s : State} (h : s.stopped = true) (i sq cid op : Nat) : s.takeCmd i sq cid op = none := by
  simp [State.takeCmd, State.serving_stopped h]

theorem State.openCmd_stopped {s : State} (h : s.stopped = true) (i sq cid op : Nat) : s.openCmd i sq cid op = none := by
  simp [State.openCmd, State.takeCmd_stopped h, State.serving_stopped h]

theorem runEng_stopped {s : State} (h : s.stopped = true) (e : Nat) (i : Instr) (f : EngRun → Leaf → State → EngOut) :
    runEng e i f s = s := runEng_none f (State.issues_stopped h e i)

end Sys2Proof.Machine
end

