-- ==== Sys2Proof/Laws/EngineWord.lean ====
section
/-! SUPPORT. Each field of an instruction word reads as the value the word of its format was made with (R100). -/
namespace Sys2Proof.Machine

section
open BitVec

section
variable (maj : BitVec 6) (d : BitVec 5) (a : BitVec 5) (b : BitVec 5) (m : BitVec 1) (mk : BitVec 3) (s : BitVec 1) (fn : BitVec 6)
@[simp] theorem fMaj_wRR : fMaj (wRR maj d a b m mk s fn) = maj := by
  show (maj ++ d ++ a ++ b ++ m ++ mk ++ s ++ fn).extractLsb' 26 6 = maj
  rw [extractLsb'_append_eq_of_le (by decide), extractLsb'_append_eq_of_le (by decide), extractLsb'_append_eq_of_le (by decide), extractLsb'_append_eq_of_le (by decide), extractLsb'_append_eq_of_le (by decide), extractLsb'_append_eq_of_le (by decide), extractLsb'_append_eq_of_le (by decide)]
  simp
@[simp] theorem fD_wRR : fD (wRR maj d a b m mk s fn) = d := by
  show (maj ++ d ++ a ++ b ++ m ++ mk ++ s ++ fn).extractLsb' 21 5 = d
  rw [extractLsb'_append_eq_of_le (by decide), extractLsb'_append_eq_of_le (by decide), extractLsb'_append_eq_of_le (by decide), extractLsb'_append_eq_of_le (by decide), extractLsb'_append_eq_of_le (by decide), extractLsb'_append_eq_of_le (by decide), extractLsb'_append_eq_of_add_le (by decide)]
  simp
@[simp] theorem fA_wRR : fA (wRR maj d a b m mk s fn) = a := by
  show (maj ++ d ++ a ++ b ++ m ++ mk ++ s ++ fn).extractLsb' 16 5 = a
  rw [extractLsb'_append_eq_of_le (by decide), extractLsb'_append_eq_of_le (by decide), extractLsb'_append_eq_of_le (by decide), extractLsb'_append_eq_of_le (by decide), extractLsb'_append_eq_of_le (by decide), extractLsb'_append_eq_of_add_le (by decide)]
  simp
@[simp] theorem fB_wRR : fB (wRR maj d a b m mk s fn) = b := by
  show (maj ++ d ++ a ++ b ++ m ++ mk ++ s ++ fn).extractLsb' 11 5 = b
  rw [extractLsb'_append_eq_of_le (by decide), extractLsb'_append_eq_of_le (by decide), extractLsb'_append_eq_of_le (by decide), extractLsb'_append_eq_of_le (by decide), extractLsb'_append_eq_of_add_le (by decide)]
  simp
@[simp] theorem fM_wRR : fM (wRR maj d a b m mk s fn) = m := by
  show (maj ++ d ++ a ++ b ++ m ++ mk ++ s ++ fn).extractLsb' 10 1 = m
  rw [extractLsb'_append_eq_of_le (by decide), extractLsb'_append_eq_of_le (by decide), extractLsb'_append_eq_of_le (by decide), extractLsb'_append_eq_of_add_le (by decide)]
  simp
@[simp] theorem fMk_wRR : fMk (wRR maj d a b m mk s fn) = mk := by
  show (maj ++ d ++ a ++ b ++ m ++ mk ++ s ++ fn).extractLsb' 7 3 = mk
  rw [extractLsb'_append_eq_of_le (by decide), extractLsb'_append_eq_of_le (by decide), extractLsb'_append_eq_of_add_le (by decide)]
  simp
@[simp] theorem fS_wRR : fS (wRR maj d a b m mk s fn) = s := by
  show (maj ++ d ++ a ++ b ++ m ++ mk ++ s ++ fn).extractLsb' 6 1 = s
  rw [extractLsb'_append_eq_of_le (by decide), extractLsb'_append_eq_of_add_le (by decide)]
  simp
@[simp] theorem fFn_wRR : fFn (wRR maj d a b m mk s fn) = fn := by
  show (maj ++ d ++ a ++ b ++ m ++ mk ++ s ++ fn).extractLsb' 0 6 = fn
  rw [extractLsb'_append_eq_of_add_le (by decide)]
  simp
end

section
variable (maj : BitVec 6) (d : BitVec 5) (a : BitVec 5) (imm : BitVec 16)
@[simp] theorem fMaj_wRI : fMaj (wRI maj d a imm) = maj := by
  show (maj ++ d ++ a ++ imm).extractLsb' 26 6 = maj
  rw [extractLsb'_append_eq_of_le (by decide), extractLsb'_append_eq_of_le (by decide), extractLsb'_append_eq_of_le (by decide)]
  simp
@[simp] theorem fD_wRI : fD (wRI maj d a imm) = d := by
  show (maj ++ d ++ a ++ imm).extractLsb' 21 5 = d
  rw [extractLsb'_append_eq_of_le (by decide), extractLsb'_append_eq_of_le (by decide), extractLsb'_append_eq_of_add_le (by decide)]
  simp
@[simp] theorem fA_wRI : fA (wRI maj d a imm) = a := by
  show (maj ++ d ++ a ++ imm).extractLsb' 16 5 = a
  rw [extractLsb'_append_eq_of_le (by decide), extractLsb'_append_eq_of_add_le (by decide)]
  simp
@[simp] theorem fImm_wRI : fImm (wRI maj d a imm) = imm := by
  show (maj ++ d ++ a ++ imm).extractLsb' 0 16 = imm
  rw [extractLsb'_append_eq_of_add_le (by decide)]
  simp
end

section
variable (maj : BitVec 6) (t : BitVec 5) (a : BitVec 5) (sz : BitVec 2) (sx : BitVec 1) (z : BitVec 1) (off : BitVec 12)
@[simp] theorem fMaj_wMS : fMaj (wMS maj t a sz sx z off) = maj := by
  show (maj ++ t ++ a ++ sz ++ sx ++ z ++ off).extractLsb' 26 6 = maj
  rw [extractLsb'_append_eq_of_le (by decide), extractLsb'_append_eq_of_le (by decide), extractLsb'_append_eq_of_le (by decide), extractLsb'_append_eq_of_le (by decide), extractLsb'_append_eq_of_le (by decide), extractLsb'_append_eq_of_le (by decide)]
  simp
@[simp] theorem fD_wMS : fD (wMS maj t a sz sx z off) = t := by
  show (maj ++ t ++ a ++ sz ++ sx ++ z ++ off).extractLsb' 21 5 = t
  rw [extractLsb'_append_eq_of_le (by decide), extractLsb'_append_eq_of_le (by decide), extractLsb'_append_eq_of_le (by decide), extractLsb'_append_eq_of_le (by decide), extractLsb'_append_eq_of_le (by decide), extractLsb'_append_eq_of_add_le (by decide)]
  simp
@[simp] theorem fA_wMS : fA (wMS maj t a sz sx z off) = a := by
  show (maj ++ t ++ a ++ sz ++ sx ++ z ++ off).extractLsb' 16 5 = a
  rw [extractLsb'_append_eq_of_le (by decide), extractLsb'_append_eq_of_le (by decide), extractLsb'_append_eq_of_le (by decide), extractLsb'_append_eq_of_le (by decide), extractLsb'_append_eq_of_add_le (by decide)]
  simp
@[simp] theorem fSz_wMS : fSz (wMS maj t a sz sx z off) = sz := by
  show (maj ++ t ++ a ++ sz ++ sx ++ z ++ off).extractLsb' 14 2 = sz
  rw [extractLsb'_append_eq_of_le (by decide), extractLsb'_append_eq_of_le (by decide), extractLsb'_append_eq_of_le (by decide), extractLsb'_append_eq_of_add_le (by decide)]
  simp
@[simp] theorem fSx_wMS : fSx (wMS maj t a sz sx z off) = sx := by
  show (maj ++ t ++ a ++ sz ++ sx ++ z ++ off).extractLsb' 13 1 = sx
  rw [extractLsb'_append_eq_of_le (by decide), extractLsb'_append_eq_of_le (by decide), extractLsb'_append_eq_of_add_le (by decide)]
  simp
@[simp] theorem fZ12_wMS : fZ12 (wMS maj t a sz sx z off) = z := by
  show (maj ++ t ++ a ++ sz ++ sx ++ z ++ off).extractLsb' 12 1 = z
  rw [extractLsb'_append_eq_of_le (by decide), extractLsb'_append_eq_of_add_le (by decide)]
  simp
@[simp] theorem fOff12_wMS : fOff12 (wMS maj t a sz sx z off) = off := by
  show (maj ++ t ++ a ++ sz ++ sx ++ z ++ off).extractLsb' 0 12 = off
  rw [extractLsb'_append_eq_of_add_le (by decide)]
  simp
end

section
variable (maj : BitVec 6) (t : BitVec 5) (a : BitVec 5) (m : BitVec 1) (mk : BitVec 3) (ff : BitVec 1) (off : BitVec 11)
@[simp] theorem fMaj_wMV : fMaj (wMV maj t a m mk ff off) = maj := by
  show (maj ++ t ++ a ++ m ++ mk ++ ff ++ off).extractLsb' 26 6 = maj
  rw [extractLsb'_append_eq_of_le (by decide), extractLsb'_append_eq_of_le (by decide), extractLsb'_append_eq_of_le (by decide), extractLsb'_append_eq_of_le (by decide), extractLsb'_append_eq_of_le (by decide), extractLsb'_append_eq_of_le (by decide)]
  simp
@[simp] theorem fD_wMV : fD (wMV maj t a m mk ff off) = t := by
  show (maj ++ t ++ a ++ m ++ mk ++ ff ++ off).extractLsb' 21 5 = t
  rw [extractLsb'_append_eq_of_le (by decide), extractLsb'_append_eq_of_le (by decide), extractLsb'_append_eq_of_le (by decide), extractLsb'_append_eq_of_le (by decide), extractLsb'_append_eq_of_le (by decide), extractLsb'_append_eq_of_add_le (by decide)]
  simp
@[simp] theorem fA_wMV : fA (wMV maj t a m mk ff off) = a := by
  show (maj ++ t ++ a ++ m ++ mk ++ ff ++ off).extractLsb' 16 5 = a
  rw [extractLsb'_append_eq_of_le (by decide), extractLsb'_append_eq_of_le (by decide), extractLsb'_append_eq_of_le (by decide), extractLsb'_append_eq_of_le (by decide), extractLsb'_append_eq_of_add_le (by decide)]
  simp
@[simp] theorem fVm_wMV : fVm (wMV maj t a m mk ff off) = m := by
  show (maj ++ t ++ a ++ m ++ mk ++ ff ++ off).extractLsb' 15 1 = m
  rw [extractLsb'_append_eq_of_le (by decide), extractLsb'_append_eq_of_le (by decide), extractLsb'_append_eq_of_le (by decide), extractLsb'_append_eq_of_add_le (by decide)]
  simp
@[simp] theorem fVmk_wMV : fVmk (wMV maj t a m mk ff off) = mk := by
  show (maj ++ t ++ a ++ m ++ mk ++ ff ++ off).extractLsb' 12 3 = mk
  rw [extractLsb'_append_eq_of_le (by decide), extractLsb'_append_eq_of_le (by decide), extractLsb'_append_eq_of_add_le (by decide)]
  simp
@[simp] theorem fFf_wMV : fFf (wMV maj t a m mk ff off) = ff := by
  show (maj ++ t ++ a ++ m ++ mk ++ ff ++ off).extractLsb' 11 1 = ff
  rw [extractLsb'_append_eq_of_le (by decide), extractLsb'_append_eq_of_add_le (by decide)]
  simp
@[simp] theorem fOff11_wMV : fOff11 (wMV maj t a m mk ff off) = off := by
  show (maj ++ t ++ a ++ m ++ mk ++ ff ++ off).extractLsb' 0 11 = off
  rw [extractLsb'_append_eq_of_add_le (by decide)]
  simp
end

section
variable (maj : BitVec 6) (off : BitVec 26)
@[simp] theorem fMaj_wJ : fMaj (wJ maj off) = maj := by
  show (maj ++ off).extractLsb' 26 6 = maj
  rw [extractLsb'_append_eq_of_le (by decide)]
  simp
@[simp] theorem fJ_wJ : fJ (wJ maj off) = off := by
  show (maj ++ off).extractLsb' 0 26 = off
  rw [extractLsb'_append_eq_of_add_le (by decide)]
  simp
end

end

@[simp] theorem lo3_up3 (f : BitVec 3) : lo3 (up3 f) = f := by
  show ((0 : BitVec 2) ++ f).extractLsb' 0 3 = f
  rw [BitVec.extractLsb'_append_eq_of_add_le (by decide)]
  simp

@[simp] theorem maskField_up3 (f : BitVec 3) : maskField (up3 f) = true := by
  have h : ((0 : BitVec 2) ++ f).extractLsb' 3 2 = 0 := by
    rw [BitVec.extractLsb'_append_eq_of_le (by decide)]
    simp
  show (((0 : BitVec 2) ++ f).extractLsb' 3 2 == 0) = true
  rw [h]
  rfl

@[simp] theorem lo2_up2 (f : BitVec 2) : lo2 (up2 f) = f := by
  show ((0 : BitVec 3) ++ f).extractLsb' 0 2 = f
  rw [BitVec.extractLsb'_append_eq_of_add_le (by decide)]
  simp

end Sys2Proof.Machine
end

