-- ==== Sys2Proof/Laws/Frame.lean ====
section
/-! SUPPORT. What a write of one destination register keeps, in the terms of `KeepsOthers`. -/
namespace Sys2Proof.Machine

theorem KeepsOthers.same (ds : List RegName) (r : EngRun) : KeepsOthers ds r r :=
  { rest := rfl, scalars := by simp, vectors := by simp, masks := by simp, accs := by simp, length := by simp
    sink := by simp, ovf := by simp }

theorem KeepsOthers.wg {ds : List RegName} {r0 r : EngRun} (d : BitVec 5) (x : Word) (h : RegName.g d ∈ ds)
    (h0 : KeepsOthers ds r0 r) : KeepsOthers ds r0 (r.wg d x) := by
  have hs : ∀ k, RegName.g k ∉ ds → (r.wg d x).rg k = r0.rg k := fun k hk => by
    rw [EngRun.rg_wg, if_neg (by rintro ⟨rfl, -⟩; exact hk h), h0.scalars k hk]
  rw [EngRun.wg_rest] at hs ⊢
  exact { h0 with rest := by rw [h0.rest], scalars := hs }

theorem KeepsOthers.wv {ds : List RegName} {r0 r : EngRun} (d : BitVec 5) (x : BitVec 512) (h : RegName.v d ∈ ds)
    (h0 : KeepsOthers ds r0 r) : KeepsOthers ds r0 (r.wv d x) := by
  exact { h0 with
    rest := by rw [h0.rest]; rfl
    vectors := fun k hk => by rw [EngRun.rv_wv, if_neg (by rintro rfl; exact hk h), h0.vectors k hk] }

theorem KeepsOthers.wm {ds : List RegName} {r0 r : EngRun} (d : BitVec 3) (x : Word) (h : RegName.m d ∈ ds)
    (h0 : KeepsOthers ds r0 r) : KeepsOthers ds r0 (r.wm d x) := by
  exact { h0 with
    rest := by rw [h0.rest]; rfl
    masks := fun k hk => by rw [EngRun.rm_wm, if_neg (by rintro rfl; exact hk h), h0.masks k hk] }

theorem KeepsOthers.wa {ds : List RegName} {r0 r : EngRun} (d : BitVec 2) (x : ExactAcc) (h : RegName.a d ∈ ds)
    (h0 : KeepsOthers ds r0 r) : KeepsOthers ds r0 (r.wa d x) := by
  exact { h0 with
    rest := by rw [h0.rest]; rfl
    accs := fun k hk => by rw [EngRun.ra_wa, if_neg (by rintro rfl; exact hk h), h0.accs k hk] }

@[simp] theorem EngRun.wg_pc (r : EngRun) (d : BitVec 5) (x : Word) : (r.wg d x).pc = r.pc := by rw [EngRun.wg_rest]
@[simp] theorem EngRun.wg_steps (r : EngRun) (d : BitVec 5) (x : Word) : (r.wg d x).steps = r.steps := by
  rw [EngRun.wg_rest]

end Sys2Proof.Machine
end

