-- ==== Sys2Proof/Laws/Memory.lean ====
section
/-! SUPPORT. The laws of memory: a read after a write, and that every memory operation keeps the one canonical form. -/
namespace Sys2Proof.Machine

-- ---------------------------------------------------------------- what a write makes of a read

theorem Mem.read_insert (m : Mem) (a b : Nat) (v : Byte) :
    Mem.read (Mem.insert m a v) b = if b = a then v else Mem.read m b := by
  induction m with
  | nil =>
    by_cases h : b = a
    · simp [Mem.insert, Mem.read, h]
    · simp [Mem.insert, Mem.read, h, Ne.symm h]
  | cons c r ih =>
    obtain ⟨k, w⟩ := c
    unfold Mem.insert
    split
    · by_cases h : b = a
      · simp [Mem.read, h]
      · simp [Mem.read, h, Ne.symm h]
    · split
      · rename_i _ hk
        subst hk
        by_cases h : b = a
        · simp [Mem.read, h]
        · simp [Mem.read, h, Ne.symm h]
      · rename_i _ hk
        by_cases h : b = a
        · subst h; simp [Mem.read, Ne.symm hk, ih]
        · simp [Mem.read, ih, h]

theorem Mem.read_filter (m : Mem) (p : Nat → Bool) (b : Nat) :
    Mem.read (m.filter (fun c => p c.1)) b = if p b then Mem.read m b else 0 := by
  induction m with
  | nil => simp [Mem.read]
  | cons c r ih =>
    obtain ⟨k, w⟩ := c
    by_cases hk : p k
    · by_cases hb : k = b
      · subst hb; simp [Mem.read, hk]
      · simp [Mem.read, hk, hb, ih]
    · by_cases hb : k = b
      · subst hb; simp [List.filter, hk, ih]
      · simp [Mem.read, List.filter, hk, hb, ih]

/-- A read after a write of one byte. -/
theorem Mem.read_write (m : Mem) (a b : Nat) (v : Byte) :
    Mem.read (Mem.write m a v) b = if b = a then v else Mem.read m b := by
  unfold Mem.write
  split
  · rename_i h
    rw [Mem.read_filter m (fun k => k != a) b]
    by_cases hb : b = a <;> simp [hb, h]
  · exact Mem.read_insert m a b v

theorem Mem.read_clear (m : Mem) (a n b : Nat) :
    Mem.read (Mem.clear m a n) b = if a ≤ b ∧ b < a + n then 0 else Mem.read m b := by
  unfold Mem.clear
  rw [Mem.read_filter m (fun k => decide (k < a) || decide (a + n ≤ k)) b]
  by_cases h1 : a ≤ b <;> by_cases h2 : b < a + n <;> simp [h1, h2, Nat.not_lt.mpr, Nat.lt_of_not_le] <;> omega

/-- A byte outside the written bytes reads as before. -/
theorem Mem.read_writeN_out (m : Mem) (a b : Nat) (l : Bytes) (h : b < a ∨ a + l.length ≤ b) :
    Mem.read (Mem.writeN m a l) b = Mem.read m b := by
  induction l generalizing m a with
  | nil => rfl
  | cons v r ih =>
    simp only [Mem.writeN]
    simp only [List.length_cons] at h
    rw [ih _ _ (by omega), Mem.read_write]
    simp [show ¬ b = a by omega]

/-- A byte inside the written bytes reads as written. -/
theorem Mem.read_writeN_in (m : Mem) (a i : Nat) (l : Bytes) (h : i < l.length) :
    Mem.read (Mem.writeN m a l) (a + i) = l[i] := by
  induction l generalizing m a i with
  | nil => simp at h
  | cons v r ih =>
    simp only [Mem.writeN]
    cases i with
    | zero => rw [Mem.read_writeN_out _ _ _ _ (by omega), Mem.read_write]; simp
    | succ i =>
      have := ih (Mem.write m a v) (a + 1) i (by simpa using h)
      rw [show a + (i + 1) = a + 1 + i by omega, this]; rfl

theorem Mem.length_readN (m : Mem) (a n : Nat) : (Mem.readN m a n).length = n := by
  induction n generalizing a with
  | zero => rfl
  | succ n ih => simp [Mem.readN, ih]

theorem Mem.readN_congr (m m' : Mem) (a n : Nat) (h : ∀ b, a ≤ b → b < a + n → Mem.read m b = Mem.read m' b) :
    Mem.readN m a n = Mem.readN m' a n := by
  induction n generalizing a with
  | zero => rfl
  | succ n ih =>
    simp only [Mem.readN]
    rw [h a (by omega) (by omega), ih (a + 1) (fun b h1 h2 => h b (by omega) (by omega))]

/-- What was written is read back. -/
theorem Mem.readN_writeN (m : Mem) (a : Nat) (l : Bytes) : Mem.readN (Mem.writeN m a l) a l.length = l := by
  induction l generalizing m a with
  | nil => rfl
  | cons v r ih =>
    simp only [Mem.writeN, List.length_cons, Mem.readN]
    rw [Mem.read_writeN_out _ _ _ _ (by omega), Mem.read_write, ih]
    simp

/-- Writing elsewhere leaves a read as it was. -/
theorem Mem.readN_writeN_out (m : Mem) (a b n : Nat) (l : Bytes) (h : b + n ≤ a ∨ a + l.length ≤ b) :
    Mem.readN (Mem.writeN m a l) b n = Mem.readN m b n :=
  Mem.readN_congr _ _ _ _ (fun c h1 h2 => Mem.read_writeN_out m a c l (by omega))

-- ---------------------------------------------------------------- the canonical form

/-- The canonical form as a chain: each key below the next, no zero byte. -/
theorem Mem.wf_cons (a : Nat) (v : Byte) (m : Mem) :
    Mem.wf ((a, v) :: m) = (v != 0 && m.all (fun c => decide (a < c.1)) && Mem.wf m) := by
  induction m generalizing a v with
  | nil => simp [Mem.wf]
  | cons c r ih =>
    obtain ⟨b, w⟩ := c
    have step : Mem.wf ((a, v) :: (b, w) :: r) = (v != 0 && decide (a < b) && Mem.wf ((b, w) :: r)) := rfl
    rw [step, ih b w, Bool.eq_iff_iff]
    simp only [Bool.and_eq_true, List.all_eq_true, decide_eq_true_eq, List.mem_cons, forall_eq_or_imp]
    constructor
    · rintro ⟨⟨h1, h2⟩, ⟨h3, h4⟩, h5⟩
      exact ⟨⟨h1, h2, fun c hc => Nat.lt_trans h2 (h4 c hc)⟩, ⟨h3, h4⟩, h5⟩
    · rintro ⟨⟨h1, h2, _⟩, h4, h5⟩
      exact ⟨⟨h1, h2⟩, h4, h5⟩

theorem Mem.wf_filter (m : Mem) (p : Host.Cell → Bool) (h : Mem.wf m = true) : Mem.wf (m.filter p) = true := by
  induction m with
  | nil => rfl
  | cons c r ih =>
    obtain ⟨a, v⟩ := c
    rw [Mem.wf_cons] at h
    simp only [Bool.and_eq_true, List.all_eq_true, decide_eq_true_eq] at h
    rw [List.filter_cons]
    split
    · rw [Mem.wf_cons]
      simp only [Bool.and_eq_true, List.all_eq_true, decide_eq_true_eq]
      exact ⟨⟨h.1.1, fun c hc => h.1.2 c ((List.mem_filter.mp hc).1)⟩, ih h.2⟩
    · exact ih h.2

theorem Mem.insert_above (m : Mem) (a b : Nat) (v : Byte) (hab : a < b)
    (h : m.all (fun c => decide (a < c.1)) = true) : (Mem.insert m b v).all (fun c => decide (a < c.1)) = true := by
  induction m with
  | nil => simpa [Mem.insert] using hab
  | cons c r ih =>
    obtain ⟨k, w⟩ := c
    simp only [List.all_cons, Bool.and_eq_true, decide_eq_true_eq] at h
    unfold Mem.insert
    split
    · simp only [List.all_cons, Bool.and_eq_true, decide_eq_true_eq]; exact ⟨hab, h.1, h.2⟩
    · split
      · simp only [List.all_cons, Bool.and_eq_true, decide_eq_true_eq]; exact ⟨hab, h.2⟩
      · simp only [List.all_cons, Bool.and_eq_true, decide_eq_true_eq]; exact ⟨h.1, ih h.2⟩

theorem Mem.wf_insert (m : Mem) (a : Nat) (v : Byte) (hv : v ≠ 0) (h : Mem.wf m = true) :
    Mem.wf (Mem.insert m a v) = true := by
  induction m with
  | nil => simpa [Mem.insert, Mem.wf] using hv
  | cons c r ih =>
    obtain ⟨k, w⟩ := c
    have h0 := h
    rw [Mem.wf_cons] at h
    simp only [Bool.and_eq_true] at h
    unfold Mem.insert
    split
    · rename_i hk
      rw [Mem.wf_cons]
      simp only [Bool.and_eq_true]
      refine ⟨⟨by simpa using hv, ?_⟩, h0⟩
      simp only [List.all_cons, Bool.and_eq_true, decide_eq_true_eq, List.all_eq_true] at h ⊢
      exact ⟨hk, fun c hc => Nat.lt_trans hk (h.1.2 c hc)⟩
    · split
      · rename_i hk
        subst hk
        rw [Mem.wf_cons]
        simp only [Bool.and_eq_true]
        exact ⟨⟨by simpa using hv, h.1.2⟩, h.2⟩
      · rename_i h1 h2
        rw [Mem.wf_cons]
        simp only [Bool.and_eq_true]
        exact ⟨⟨h.1.1, Mem.insert_above r k a v (by omega) h.1.2⟩, ih h.2⟩

/-- Writing a byte keeps the canonical form. -/
theorem Mem.wf_write (m : Mem) (a : Nat) (v : Byte) (h : Mem.wf m = true) : Mem.wf (Mem.write m a v) = true := by
  unfold Mem.write
  split
  · exact Mem.wf_filter m _ h
  · rename_i hv; exact Mem.wf_insert m a v hv h

/-- Zeroing bytes keeps the canonical form. -/
theorem Mem.wf_clear (m : Mem) (a n : Nat) (h : Mem.wf m = true) : Mem.wf (Mem.clear m a n) = true :=
  Mem.wf_filter m _ h

/-- Writing a byte string keeps the canonical form. -/
theorem Mem.wf_writeN (m : Mem) (a : Nat) (l : Bytes) (h : Mem.wf m = true) : Mem.wf (Mem.writeN m a l) = true := by
  induction l generalizing m a with
  | nil => exact h
  | cons v r ih => exact ih _ _ (Mem.wf_write m a v h)

theorem Mem.wf_foldWrite (cells : List (Nat × Byte)) (base : Nat) (m : Mem) (h : Mem.wf m = true) :
    Mem.wf (cells.foldl (fun m c => Mem.write m (base + c.1) c.2) m) = true := by
  induction cells generalizing m with
  | nil => exact h
  | cons c r ih => exact ih _ (Mem.wf_write m _ _ h)

-- ---------------------------------------------------------------- the operations of the machine

/-- Every memory operation of the machine keeps the canonical form. -/
theorem State.wr_wf (s : State) (sp : Space) (a : Nat) (b : Bytes) (h : Mem.wf s.mem = true) :
    Mem.wf (s.wr sp a b).mem = true := Mem.wf_writeN _ _ _ h

theorem State.zero_wf (s : State) (sp : Space) (a n : Nat) (h : Mem.wf s.mem = true) :
    Mem.wf (s.zero sp a n).mem = true := Mem.wf_clear _ _ _ h

theorem State.hostWrite_wf (s : State) (fn a : Nat) (b : Bytes) (h : Mem.wf s.mem = true) :
    Mem.wf (s.hostWrite fn a b).mem = true := by
  unfold State.hostWrite
  split
  · exact h
  · exact s.wr_wf _ _ _ h

/-- Signalling a vector, and writing the MSI-X control of a function, leave memory. -/
theorem State.signal_mem (s : State) (fn v : Nat) : (s.signal fn v).mem = s.mem := by
  simp only [State.signal]
  split
  · rfl
  · split <;> rfl

theorem State.signalPending_mem (fn : Nat) (s : State) (v : Nat) : (s.signalPending fn v).mem = s.mem := by
  unfold State.signalPending
  split
  · exact State.signal_mem _ _ _
  · rfl

theorem foldl_mem {α : Type} (f : State → α → State) (h : ∀ s a, (f s a).mem = s.mem) (l : List α) (s : State) :
    (l.foldl f s).mem = s.mem := by
  induction l generalizing s with
  | nil => rfl
  | cons a r ih => exact (ih _).trans (h s a)

theorem State.writeMsixControl_mem (s : State) (w : Nat × Nat) : (s.writeMsixControl w).mem = s.mem :=
  foldl_mem _ (State.signalPending_mem w.1) _ _

theorem State.hostStore_wf (s : State) (fn : Nat) (x : HostStores) (h : Mem.wf s.mem = true) :
    Mem.wf (s.hostStore fn x).mem = true := by
  have hm : (s.hostStore fn x).mem = x.cells.foldl (fun m c => Mem.write m ((Space.host fn).base + c.1) c.2) s.mem :=
    foldl_mem _ State.writeMsixControl_mem _ _
  rw [hm]
  exact Mem.wf_foldWrite _ _ _ h

theorem State.zeroSpace_wf (s : State) (sp : Space) (h : Mem.wf s.mem = true) :
    Mem.wf (s.zeroSpace sp).mem = true := Mem.wf_clear _ _ _ h

/-- A reset that keeps host memory keeps the canonical form. -/
theorem State.coldClear_wf (s : State) (h : Mem.wf s.mem = true) : Mem.wf (s.coldClear).mem = true :=
  Mem.wf_filter _ _ h

/-- Memory after reset is in canonical form. -/
theorem State.reset_wf : Mem.wf State.reset.mem = true := rfl

/-- What a write put into a space is read back from it. -/
theorem State.rd_wr (s : State) (sp : Space) (a : Nat) (b : Bytes) : (s.wr sp a b).rd sp a b.length = b :=
  Mem.readN_writeN _ _ _

/-- A read of bytes that a write of the same space did not touch. -/
theorem State.rd_wr_out (s : State) (sp : Space) (a c n : Nat) (b : Bytes) (h : c + n ≤ a ∨ a + b.length ≤ c) :
    (s.wr sp a b).rd sp c n = s.rd sp c n :=
  Mem.readN_writeN_out _ _ _ _ _ (by omega)

/-- Reading back the little-endian bytes of a number gives it modulo their width (R4). -/
theorem ofLe_leBytes (n v : Nat) : ofLe (leBytes n v) = v % 2 ^ (8 * n) := by
  induction n generalizing v with
  | zero => simp [leBytes, ofLe, Nat.mod_one]
  | succ n ih =>
    have h : 2 ^ (8 * (n + 1)) = 256 * 2 ^ (8 * n) := by rw [Nat.mul_add, Nat.pow_add, Nat.mul_comm]
    simp only [leBytes, ofLe, ih, BitVec.toNat_ofNat]
    rw [h, Nat.mod_mul]

@[simp] theorem length_leBytes (n v : Nat) : (leBytes n v).length = n := by
  induction n generalizing v with
  | zero => rfl
  | succ n ih => simp [leBytes, ih]

end Sys2Proof.Machine
end

