-- ==== Sys2Proof/Laws/Posted.lean ====
section
/-! SUPPORT. Everything that completing a command, raising an event and writing a log record can do, said once: each
only posts (`Posted`; R329–R334, R342, R481–R484). -/
namespace Sys2Proof.Machine

theorem Posted.refl (s : State) : Posted s s := ⟨rfl, rfl⟩

theorem Posted.trans {s t u : State} (h : Posted s t) (k : Posted t u) : Posted s u := by
  refine ⟨?_, k.2.trans h.2⟩
  rw [k.1, h.1]

theorem Posted.ite {c : Prop} [Decidable c] {s a b : State} (ha : Posted s a) (hb : Posted s b) :
    Posted s (if c then a else b) := by
  split
  · exact ha
  · exact hb

theorem Posted.foldl {α : Type} (f : State → α → State) (h : ∀ s a, Posted s (f s a)) (l : List α) (s : State) :
    Posted s (l.foldl f s) := by
  induction l generalizing s with
  | nil => exact .refl s
  | cons a l ih => exact (h s a).trans (ih _)

theorem Tab.upd_keys {α : Type} (t : Tab α) (k : Nat) (f : α → α) : (Tab.upd t k f).map (·.1) = t.map (·.1) := by
  unfold Tab.upd
  rw [List.map_map]
  refine List.map_congr_left (fun p _ => ?_)
  dsimp only [Function.comp]
  split <;> rfl

@[simp] theorem State.updInst_keys (s : State) (i : Nat) (f : Inst → Inst) :
    (s.updInst i f).insts.map (·.1) = s.insts.map (·.1) := Tab.upd_keys _ _ _

theorem State.updInst_posted (s : State) (i : Nat) (f : Inst → Inst) : Posted s (s.updInst i f) :=
  ⟨rfl, s.updInst_keys i f⟩

theorem State.updCmd_posted (s : State) (no : Nat) (f : Cmd → Cmd) : Posted s (s.updCmd no f) :=
  ⟨rfl, rfl⟩

theorem State.dropCmd_posted (s : State) (no : Nat) : Posted s (s.dropCmd no) :=
  ⟨rfl, rfl⟩

theorem State.hostWrite_posted (s : State) (fn a : Nat) (b : Bytes) : Posted s (s.hostWrite fn a b) := by
  unfold State.hostWrite
  split
  · exact .refl s
  · exact ⟨rfl, rfl⟩

theorem State.signal_posted (s : State) (fn v : Nat) : Posted s (s.signal fn v) := by
  simp only [State.signal]
  split
  · exact ⟨rfl, rfl⟩
  · split
    · exact .refl s
    · exact ⟨rfl, rfl⟩

theorem State.keepEvent_posted (s : State) (i : Nat) (e : Event) : Posted s (s.keepEvent i e) := by
  unfold State.keepEvent
  split
  · exact s.updInst_posted i _
  · exact .refl s

theorem State.writeCqe_posted (s : State) (i k : Nat) (h : Held) : Posted s (s.writeCqe i k h) := by
  unfold State.writeCqe
  split
  · exact .refl s
  · dsimp only
    split
    · split
      · exact (s.hostWrite_posted _ _ _).trans ((State.updInst_posted _ _ _).trans (State.signal_posted _ _ _))
      · exact (s.hostWrite_posted _ _ _).trans (State.updInst_posted _ _ _)
    · exact (s.hostWrite_posted _ _ _).trans (State.updInst_posted _ _ _)

theorem State.logErrRaw_posted (s : State) (a b c d e f g h j k : Nat) : Posted s (s.logErrRaw a b c d e f g h j k) := by
  unfold State.logErrRaw
  dsimp only
  have h0 : Posted s { s with log := s.log.addErr (s.newErr a b c d e f g h j k), col := { s.col with errNext := s.col.errNext + 1 } } :=
    ⟨rfl, rfl⟩
  split
  · exact h0.trans (State.keepEvent_posted _ _ _)
  · exact h0.trans ((State.keepEvent_posted _ _ _).trans (State.keepEvent_posted _ _ _))

theorem State.postRaw_posted (s : State) (i k : Nat) (h : Held) : Posted s (s.postRaw i k h) := by
  unfold State.postRaw
  split
  · rename_i x q _ _
    have h1 : Posted s (if x.hold = [] then (s.updInst i (fun x => { x with hold := x.hold ++ [h] })).keepEvent i
        { typ := 3, info := 0, lid := 5, detail := k } else s.updInst i (fun x => { x with hold := x.hold ++ [h] })) :=
      .ite ((State.updInst_posted _ _ _).trans (State.keepEvent_posted _ _ _)) (State.updInst_posted _ _ _)
    exact .ite (.ite (h1.trans (State.keepEvent_posted _ _ _)) h1) (s.writeCqe_posted i k h)
  · exact s.logErrRaw_posted _ _ _ _ _ _ _ _ _ _

theorem State.completeOwn_posted (s : State) (c : Cmd) (a b d : Nat) : Posted s (s.completeOwn c a b d) :=
  (s.dropCmd_posted c.no).trans (State.postRaw_posted _ _ _ _)

theorem State.endDisable_posted (s : State) (i : Nat) : Posted s (s.endDisable i) := by
  unfold State.endDisable
  split
  · exact .ite (State.updInst_posted _ _ _) (.refl _)
  · exact .refl _

theorem State.drainEvents_posted (i n : Nat) (s : State) : Posted s (s.drainEvents i n) := by
  induction n generalizing s with
  | zero => exact .refl s
  | succ n ih =>
    unfold State.drainEvents
    split
    · exact .refl s
    · split
      · dsimp only
        split
        · exact (s.updInst_posted i _).trans ((State.completeOwn_posted _ _ _ _ _).trans
            ((State.endDisable_posted _ _).trans (ih _)))
        · exact (s.updInst_posted i _).trans (ih _)
      · exact .refl s

theorem State.settleEvents_posted (s : State) (i : Nat) : Posted s (s.settleEvents i) := by
  simp only [State.settleEvents]
  split
  · exact State.drainEvents_posted _ _ _
  · exact (State.drainEvents_posted _ _ _).trans (State.drainEvents_posted _ _ _)

theorem State.raise_posted (s : State) (i a b c d : Nat) : Posted s (s.raise i a b c d) :=
  (s.keepEvent_posted i _).trans (State.drainEvents_posted _ _ _)

theorem State.raiseAll_posted (s : State) (a b c d : Nat) : Posted s (s.raiseAll a b c d) :=
  Posted.foldl _ (fun s i => s.raise_posted i a b c d) _ _

theorem State.post_posted (s : State) (i k : Nat) (h : Held) : Posted s (s.post i k h) :=
  (s.postRaw_posted i k h).trans (State.settleEvents_posted _ _)

theorem State.logErr_posted (s : State) (a b c d e f g h j k : Nat) : Posted s (s.logErr a b c d e f g h j k) :=
  (s.logErrRaw_posted a b c d e f g h j k).trans (State.settleEvents_posted _ _)

/-- Writing a fault-history record only posts. -/
theorem State.logFh_posted (s : State) (a : FhArgs) : Posted s (s.logFh a) := by
  refine Posted.trans ?_ (State.raise_posted _ 0 8 0 2 0)
  exact ⟨rfl, rfl⟩

theorem State.batchSweep_posted (i sq n : Nat) (s : State) : Posted s (s.batchSweep i sq n) := by
  induction n generalizing s with
  | zero => exact .refl s
  | succ n ih =>
    unfold State.batchSweep
    split
    · exact .refl s
    · dsimp only
      refine Posted.trans (.ite ?_ (Posted.trans ?_ (State.post_posted _ _ _ _))) (ih _)
      · exact ⟨rfl, rfl⟩
      · exact ⟨rfl, rfl⟩

theorem State.settleQueues_posted (s : State) (i : Nat) : Posted s (s.settleQueues i) := by
  unfold State.settleQueues
  dsimp only
  generalize hu : List.foldl _ s _ = u
  have h1 : Posted s u := by
    rw [← hu]
    refine Posted.foldl _ (fun s c => .ite (.refl s) ?_) _ s
    refine Posted.trans ?_ (State.settleEvents_posted _ _)
    refine Posted.trans ?_ (State.completeOwn_posted _ _ _ _ _)
    refine Posted.trans ?_ (State.updInst_posted _ _ _)
    exact ⟨rfl, rfl⟩
  exact h1.trans (u.endDisable_posted i)

/-- Ending a command only posts. -/
theorem State.finishAt_posted (s : State) (no a b c d : Nat) : Posted s (s.finishAt no a b c d) := by
  unfold State.finishAt
  split
  · exact .refl s
  · rename_i c0 _
    dsimp only
    refine Posted.trans ?_ (State.settleQueues_posted _ _)
    refine Posted.trans ?_ (State.batchSweep_posted _ _ _ _)
    refine Posted.trans (t := if failing a = true then
      { s with dev := { s.dev with cmdsFailed := Tab.set s.dev.cmdsFailed c0.inst (Tab.get s.dev.cmdsFailed c0.inst 0 + 1) } }
      else s) ?_ ?_
    · split
      · exact ⟨rfl, rfl⟩
      · exact .refl s
    · generalize (if failing a = true then _ else s) = u
      refine Posted.trans (t := if 3 ≤ a / 4096 ∧ a / 4096 ≤ 5 then
        u.logErr 2 a c0.inst 0 c0.sq c0.cid 65535 d 0 0 else u) ?_ ?_
      · split
        · exact State.logErr_posted _ _ _ _ _ _ _ _ _ _ _
        · exact .refl u
      · generalize (if 3 ≤ a / 4096 ∧ a / 4096 ≤ 5 then _ else u) = v
        split
        · exact (State.completeOwn_posted _ _ _ _ _).trans (State.settleEvents_posted _ _)
        · split
          · split
            · exact (State.updCmd_posted _ _ _).trans (State.post_posted _ _ _ _)
            · exact (State.completeOwn_posted _ _ _ _ _).trans (State.settleEvents_posted _ _)
          · exact State.updCmd_posted _ _ _

theorem State.finish_posted (s : State) (no a b c : Nat) : Posted s (s.finish no a b c) := s.finishAt_posted no a b c 0

theorem State.moveHold_posted (i k n : Nat) (s : State) : Posted s (s.moveHold i k n) := by
  induction n generalizing s with
  | zero => exact .refl s
  | succ n ih =>
    unfold State.moveHold
    split
    · split
      · exact .refl s
      · split
        · exact (s.updInst_posted i _).trans ((State.writeCqe_posted _ _ _ _).trans (ih _))
        · exact .refl s
    · exact .refl s

/-- A head doorbell only posts. -/
theorem State.headDoorbell_posted (s : State) (i k v : Nat) : Posted s (s.headDoorbell i k v) := by
  unfold State.headDoorbell
  split
  · exact .refl s
  · split
    · exact s.raise_posted _ _ _ _ _
    · dsimp only
      split
      · exact s.raise_posted _ _ _ _ _
      · exact (s.updInst_posted i _).trans ((State.moveHold_posted _ _ _ _).trans
          ((State.settleEvents_posted _ _).trans (State.endDisable_posted _ _)))

/-- A change of the device conditions: the conditions become what it says, and beside them it only posts (R342, R449). -/
theorem State.setDev_posted (s : State) (f : Dev → Dev) :
    ∃ u, Posted u (s.setDev f) ∧ (u.dev = f s.dev ∨ u.dev = { f s.dev with modeSince := s.timebase }) := by
  unfold State.setDev
  dsimp only
  split
  · exact ⟨_, .refl _, .inl rfl⟩
  · exact ⟨_, State.raiseAll_posted _ _ _ _ _, .inr rfl⟩

/-- What only posts leaves the device conditions. -/
theorem Posted.dev {s t : State} (h : Posted s t) : t.dev = { s.dev with cmdsFailed := t.dev.cmdsFailed } := by
  rw [h.1]

/-- Starting or ending a MAINTENANCE holder changes that holder alone among the holders (R455). -/
theorem State.holder_maint (s : State) (b : Nat) (on : Bool) :
    (s.holder b on).dev.maintHold = s.dev.maintHold ∧ (s.holder b on).dev.maint.contains b = on ∧
    ∀ c, c ≠ b → (s.holder b on).dev.maint.contains c = s.dev.maint.contains c := by
  unfold State.holder
  obtain ⟨u, h, hu⟩ := s.setDev_posted (fun d => { d with
    maint := if on then (if d.maint.contains b then d.maint else d.maint ++ [b]) else d.maint.filter (· != b) })
  rw [h.dev]
  rcases hu with hu | hu <;> rw [hu] <;> refine ⟨rfl, ?_, fun c hc => ?_⟩ <;> cases on <;> simp_all <;> split <;> simp_all

end Sys2Proof.Machine
end

