-- ==== Sys2Proof/Laws/Registers.lean ====
section
/-! SUPPORT. Packed register fields, and where a register's own value and its view are read (R467, R510). -/
namespace Sys2Proof.Machine

/-- Fields from bit `k` up leave the bits below `k` as they are. -/
theorem fields_mod_from (k : Nat) (l : List (Nat × Nat)) (h : ∀ p, p ∈ l → k ≤ p.1) (n : Nat) :
    (l.foldl (fun (n : Nat) (p : Nat × Nat) => n + p.2 * 2 ^ p.1) n) % 2 ^ k = n % 2 ^ k := by
  induction l generalizing n with
  | nil => rfl
  | cons p l ih =>
    rw [List.foldl_cons, ih (fun q hq => h q (List.mem_cons_of_mem _ hq))]
    have hk : k ≤ p.1 := h p List.mem_cons_self
    obtain ⟨j, hj⟩ := Nat.exists_eq_add_of_le hk
    rw [hj, Nat.pow_add, ← Nat.mul_assoc, Nat.mul_comm (p.2 * 2 ^ k) (2 ^ j), ← Nat.mul_assoc, Nat.add_mul_mod_self_right]

/-- The low field of a register whose other fields lie above bit `k`. -/
theorem fields_low (k a : Nat) (l : List (Nat × Nat)) (h : ∀ p, p ∈ l → k ≤ p.1) :
    fields ((0, a) :: l) % 2 ^ k = a % 2 ^ k := by
  unfold fields
  rw [List.foldl_cons, fields_mod_from k l h]
  rw [Nat.pow_zero, Nat.mul_one, Nat.zero_add]

/-- DEV_STATUS is a view of the device's conditions. -/
theorem State.regRead_status (s : State) : s.regRead 0x10 = s.viewDev 0x10 % 2 ^ 64 := by
  have h : regAssigned 0x10 = true := by simp [regAssigned, regInfo]
  unfold State.regRead
  rw [if_neg (by simp [coldReset]), if_neg (by omega), if_neg (by simp [h]), if_pos (by omega)]

/-- DEV_MODE_CTRL reads the MAINT_HOLD last written (R468). -/
theorem State.regRead_modeCtrl (s : State) : s.regRead 0x18 = b2n s.dev.maintHold := by
  have h : regAssigned 0x18 = true := by simp [regAssigned, regInfo]
  unfold State.regRead
  rw [if_neg (by simp [coldReset]), if_neg (by omega), if_neg (by simp [h]), if_pos (by omega)]
  show b2n s.dev.maintHold % 2 ^ 64 = _
  cases s.dev.maintHold <;> decide

end Sys2Proof.Machine
end

