-- ==== Sys2Proof/Laws/Vector.lean ====
section
/-! SUPPORT. The elements of a vector register that was put together element by element (R99, R102). -/
namespace Sys2Proof.Machine

/-- The number that a list of elements of width `w` makes. -/
def packNat (w : Nat) (l : List Nat) : Nat := l.foldr (fun x acc => x % 2 ^ w + acc * 2 ^ w) 0

theorem packNat_elem (w : Nat) (l : List Nat) (i : Nat) (h : i < l.length) :
    packNat w l / 2 ^ (i * w) % 2 ^ w = l[i] % 2 ^ w := by
  induction l generalizing i with
  | nil => simp at h
  | cons x r ih =>
    have hp : 0 < 2 ^ w := Nat.two_pow_pos w
    have hx : x % 2 ^ w < 2 ^ w := Nat.mod_lt _ hp
    show (x % 2 ^ w + packNat w r * 2 ^ w) / 2 ^ (i * w) % 2 ^ w = _
    cases i with
    | zero => simp [Nat.add_mul_mod_self_right]
    | succ i =>
      have hs : 2 ^ ((i + 1) * w) = 2 ^ w * 2 ^ (i * w) := by rw [← Nat.pow_add]; congr 1; rw [Nat.succ_mul, Nat.add_comm]
      rw [hs, ← Nat.div_div_eq_div_mul, Nat.add_mul_div_right _ _ hp, Nat.div_eq_of_lt hx, Nat.zero_add,
        ih i (by simpa using h)]
      rfl

/-- An element of a register that a list of elements made. -/
theorem elem_ofElems (w : Nat) (l : List Nat) (i : Nat) (h : i < l.length) (hw : (i + 1) * w ≤ 512) :
    elem (ofElems w l) w i = l[i] % 2 ^ w := by
  show ((BitVec.ofNat 512 (packNat w l)).toNat >>> (i * w)) % 2 ^ w = _
  have hp : 0 < 2 ^ (i * w) := Nat.two_pow_pos _
  rw [BitVec.toNat_ofNat, Nat.shiftRight_eq_div_pow]
  have hs : 2 ^ 512 = 2 ^ (i * w) * (2 ^ w * 2 ^ (512 - (i + 1) * w)) := by
    rw [← Nat.pow_add, ← Nat.pow_add]; congr 1
    rw [Nat.succ_mul] at hw ⊢; omega
  rw [hs, Nat.mod_mul_right_div_self, Nat.mod_mul_right_mod, packNat_elem w l i h]

theorem length_elems (v : BitVec 512) (w : Nat) : (elems v w).length = 512 / w := by simp [elems]

/-- Element widths are positive. -/
theorem EngRun.w_pos (r : EngRun) : 0 < r.w := by
  have := Nat.two_pow_pos r.ew
  simp only [EngRun.w, ewBits]; omega

theorem fits_of_lt {w i : Nat} (hw : 0 < w) (h : i < 512 / w) : (i + 1) * w ≤ 512 :=
  (Nat.le_div_iff_mul_le hw).mp h

/-- The elements of a masked element-wise result: new where active, old elsewhere. -/
theorem EngRun.elem_mapV (r : EngRun) (m : BitVec 1) (mk : BitVec 3) (old : BitVec 512) (f : Nat → Nat) (i : Nat)
    (h : i < 512 / r.w) :
    elem (r.mapV m mk old f) r.w i = if r.active m mk i then f i % 2 ^ r.w else elem old r.w i := by
  unfold EngRun.mapV
  have hl : i < ((elems old r.w).zipIdx.map (fun p => if r.active m mk p.2 then f p.2 else p.1)).length := by
    simpa [length_elems] using h
  rw [elem_ofElems _ _ _ hl (fits_of_lt r.w_pos h)]
  simp only [List.getElem_map, List.getElem_zipIdx, Nat.zero_add, elems, List.getElem_range]
  split
  · rfl
  · simp [elem]

/-- The elements of a register some of whose elements were replaced. -/
theorem elem_setElems (w : Nat) (hw : 0 < w) (old : BitVec 512) (ps : List (Nat × Nat)) (i : Nat) (h : i < 512 / w) :
    elem (setElems w old ps) w i = ((ps.find? (fun q => q.1 == i)).map (fun q => q.2 % 2 ^ w)).getD (elem old w i) := by
  unfold setElems
  have hl : i < ((elems old w).zipIdx.map (fun p => ((ps.find? (fun q => q.1 == p.2)).map (·.2)).getD p.1)).length := by
    simpa [length_elems] using h
  rw [elem_ofElems _ _ _ hl (fits_of_lt hw h)]
  simp only [List.getElem_map, List.getElem_zipIdx, Nat.zero_add, elems, List.getElem_range]
  cases ps.find? (fun q => q.1 == i) with
  | none => simp [elem]
  | some q => simp

-- ---------------------------------------------------------------- masks

theorem maskNat_spec (f : Nat → Bool) (n : Nat) :
    (List.range n).foldl (fun a i => if f i then a + 2 ^ i else a) 0 < 2 ^ n ∧
      ∀ i, i < n → ((List.range n).foldl (fun a i => if f i then a + 2 ^ i else a) 0).testBit i = f i := by
  induction n with
  | zero => simp
  | succ n ih =>
    obtain ⟨hlt, hbit⟩ := ih
    rw [List.range_succ, List.foldl_append]
    generalize (List.range n).foldl (fun a i => if f i then a + 2 ^ i else a) 0 = x at hlt hbit
    simp only [List.foldl_cons, List.foldl_nil]
    have hsum : x + 2 ^ n = 2 ^ n * 1 + x := by omega
    constructor
    · split <;> rw [Nat.pow_succ] <;> omega
    · intro i hi
      by_cases hin : i = n
      · subst hin
        split
        · rename_i h; rw [hsum, Nat.testBit_two_pow_mul_add 1 hlt]; simp [h]
        · rename_i h; rw [Nat.testBit_lt_two_pow hlt]; simp at h; exact h.symm
      · have hi' : i < n := by omega
        split
        · rw [hsum, Nat.testBit_two_pow_mul_add 1 hlt]; simp [hi', hbit i hi']
        · exact hbit i hi'

/-- The bits of a mask that was made bit by bit. -/
theorem maskOf_bit (f : Nat → Bool) (i : Nat) (h : i < 64) : (maskOf f).getLsbD i = f i := by
  unfold maskOf
  rw [BitVec.getLsbD_ofNat, (maskNat_spec f 64).2 i h]
  simp [h]

end Sys2Proof.Machine
end

