-- ==== Sys2Proof/Tests/Slice0.lean ====
section
/-! SUPPORT. Tests of the model: terms that WellFormed refuses, engine words written out from R100, single steps, and for
every statement with hypotheses a concrete state that meets them (`witness_` and the statement's name). -/
namespace Sys2Proof.Machine.Tests
set_option Elab.async false
open Sys2Proof Sys2Proof.Machine

-- ---------------------------------------------------------------- small states

/-- A part that runs in SERVICE, with the Slipcase up, PERST_N deasserted and instances 0 and 1. -/
def on : State :=
  { State.reset with
    powerGood := true
    pins := { State.reset.pins with perstN := true }
    dev := { State.reset.dev with cold := false, booted := true }
    slc := { State.reset.slc with state := 1 }
    insts := [(0, { rdy := true, sqs := [(0, { depth := 4, base := 0x1000, cq := 0 })],
                    cqs := [(0, { depth := 4, base := 0x2000 })] }),
              (1, { rdy := true, alloc := { sqs := 4, cqs := 4, copy := 1, thumb := [1] },
                    sqs := [(0, { depth := 4, base := 0x1000, cq := 0 }), (1, { depth := 8, base := 0x3000, cq := 1 })],
                    cqs := [(0, { depth := 4, base := 0x2000 }), (1, { depth := 8, base := 0x4000, iv := 1, ien := true })] })] }

/-- A part in Cold Start whose slot has booted. -/
def cold : State := { State.reset with powerGood := true, dev := { State.reset.dev with booted := true } }

/-- The 64 bytes of an entry with the given fields (offset, bytes, value) and zeros elsewhere. -/
def entry (fs : List (Nat × Nat × Nat)) : Bytes :=
  fs.foldl (fun b f => b.take f.1 ++ leBytes f.2.1 f.2.2 ++ b.drop (f.1 + f.2.1)) (List.replicate 64 0)

/-- The fetched command of opcode `op` in queue `q` of instance `i`. -/
def cmd (i q op : Nat) (fs : List (Nat × Nat × Nat)) (flags : Nat := 0) : Cmd :=
  { no := 7, inst := i, sq := q, cid := 9, op := op, flags := flags, entries := [entry fs] }

/-- `on` with one fetched command. -/
def asked (i q op : Nat) (fs : List (Nat × Nat × Nat)) (flags : Nat := 0) : State :=
  { on with cmds := [cmd i q op fs flags], cmdNo := 8 }

def isOk {α : Type} (x : Acc α) : Bool := match x with | .ok _ _ => true | .wait _ => false | .fail _ _ _ => false

theorem isOk_spec {α : Type} {x : Acc α} (h : isOk x = true) : ∃ a s, x = .ok a s := by
  cases x with
  | ok a s => exact ⟨a, s, rfl⟩
  | wait s => exact absurd h (by simp [isOk])
  | fail a b s => exact absurd h (by simp [isOk])

-- ---------------------------------------------------------------- an engine at an instruction

/-- Registers at the start of a leaf of 512-bit vectors and 64-bit elements. -/
def regs0 : EngRun :=
  { leaf := leafId 1 0 0 0, pc := 0, g := Vector.replicate 32 5, v := Vector.replicate 32 7, m := Vector.replicate 8 3
    acc := Vector.replicate 4 {}, vl := 2, limit := 1000000 }

def leaf0 : Leaf :=
  { inst := 1, sub := 0, sig := 0, ord := 0, group := 0, cls := 0, home := none, cq := 1, state := .running, attempts := 1,
    seq := 0, src := .none }

/-- `b` with engine 0 running leaf `l` with registers `r` and a code section of one instruction, the word `w`. -/
def standingIn (b : State) (l : Leaf) (r : EngRun) (w : BitVec 32) : State :=
  ({ b with eng := [(0, { run := some r, codeLen := 4 })], leaves := [(leafId 1 0 0 0, l)] } : State).wr (.imem 0) 0
    (leBytes 4 w.toNat)

def standing (r : EngRun) (w : BitVec 32) : State := standingIn on leaf0 r w

def word (c : Instr) : BitVec 32 := (encodeEngine c).getD 0

def issuable (r : EngRun) (c : Instr) : Bool :=
  decide (decodeEngine 0 (word c) = some c) && decide (r.steps + engCost c r ≤ r.limit)

/-- Engine 0 issues the instruction of its word. -/
theorem issued_in (b : State) (l : Leaf) (r : EngRun) (c : Instr) (hb : b.running = true) (ha : b.armed 1 0 = false)
    (hz : b.poison = []) (hs : l.state = .running) (he : l.engine = 0) (hp : r.pc = 0) (hl : r.leaf = leafId 1 0 0 0)
    (hf : r.fetch = none) (h : issuable r c = true) : Issued (standingIn b l r (word c)) 0 c r l := by
  rw [issuable, Bool.and_eq_true, decide_eq_true_eq, decide_eq_true_eq] at h
  have hw : (standingIn b l r (word c)).engWord 0 r = word c := by
    unfold State.engWord State.rdN standingIn
    rw [hp]
    have hn : (leBytes 4 (word c).toNat).length = 4 := rfl
    have h := State.rd_wr ({ b with eng := [(0, { run := some r, codeLen := 4 })], leaves := [(leafId 1 0 0 0, l)] } : State)
      (.imem 0) 0 (leBytes 4 (word c).toNat)
    rw [hn] at h
    rw [h, ofLe_leBytes]
    exact BitVec.eq_of_toNat_eq (by rw [BitVec.toNat_ofNat, Nat.mod_mod, Nat.mod_eq_of_lt (word c).isLt])
  have hr : (standingIn b l r (word c)).running_ 0 = some (r, l) := by
    unfold State.running_
    have h1 : (standingIn b l r (word c)).running = true := hb
    have h2 : (standingIn b l r (word c)).engRun 0 = some r := rfl
    have h3 : (standingIn b l r (word c)).leaf? (leafId 1 0 0 0) = some l := by
      show Tab.find [(leafId 1 0 0 0, l)] (leafId 1 0 0 0) = some l
      simp [Tab.find]
    simp only [h1, h2, hl, h3, hf, hs, he, if_true]
    rfl
  have h4 : ((standingIn b l r (word c)).engOf 0).codeLen = 4 := rfl
  have h5 : (standingIn b l r (word c)).armed 1 0 = b.armed 1 0 := rfl
  have h6 : (standingIn b l r (word c)).poison = b.poison := rfl
  refine ⟨?_, by rw [h5, ha], by unfold State.poisoned; rw [h6, hz]; rfl⟩
  unfold State.issues State.standsAt
  rw [hr]
  simp only [hw, h.1, hp, h4]
  simp [h.2]

theorem on_armed : on.armed 1 0 = false := by decide +kernel

theorem issued_of (r : EngRun) (c : Instr) (hp : r.pc = 0) (hl : r.leaf = leafId 1 0 0 0) (hf : r.fetch = none)
    (h : issuable r c = true) : Issued (standing r (word c)) 0 c r leaf0 :=
  issued_in on leaf0 r c rfl on_armed rfl rfl rfl hp hl hf h

/-- The registers of `regs0` at another element width code. -/
def regsW (ew : Nat) : EngRun := { regs0 with ew := ew }

/-- Every instruction of a list is issued by engine 0 of some state with registers `r`. -/
theorem issued_all (r : EngRun) (cs : List Instr) (hp : r.pc = 0) (hl : r.leaf = leafId 1 0 0 0) (hf : r.fetch = none)
    (h : cs.all (issuable r) = true) : ∀ c ∈ cs, Issued (standing r (word c)) 0 c r leaf0 :=
  fun c hc => issued_of r c hp hl hf (List.all_eq_true.mp h c hc)

theorem witness_DecodeOfEncodedEngineInstruction :
    engineNo (.vadd 0 31 30 29 1 7 1) = some 0 ∧ engineWf (.vadd 0 31 30 29 1 7 1) = true ∧
      (encodeEngine (.vadd 0 31 30 29 1 7 1)).isSome = true := by decide +kernel

theorem witness_DecodedEngineInstructionKeepsR100 : decodeEngine 0 0xA0611500#32 = some (.vadd 0 3 1 2 1 2 0) := by
  decide +kernel

theorem witness_ScalarFunctionResults : ∀ c ∈ [Instr.add 0 31 30 29, .sub 0 0 30 29, .and 0 31 30 29, .or 0 31 30 29,
    .xor 0 31 30 29, .sll 0 31 30 29, .srl 0 31 30 29, .sra 0 31 30 29, .mul 0 31 30 29, .mulh 0 31 30 29,
    .mulhu 0 31 30 29, .div 0 31 30 29, .divu 0 31 30 29, .rem 0 31 30 29, .remu 0 31 30 29, .slt 0 31 30 29,
    .sltu 0 31 30 29, .min 0 31 30 29, .max 0 31 30 29, .minu 0 31 30 29, .maxu 0 31 30 29, .clz 0 31 30,
    .ctz 0 31 30, .popc 0 31 30], Issued (standing regs0 (word c)) 0 c regs0 leaf0 :=
  issued_all regs0 _ rfl rfl rfl (by decide +kernel)

theorem witness_DivisionCornersOfTheScalarTable : (0xFFFFFFFFFFFFFFFF : Word) ≠ 0 := by decide

theorem witness_ImmediateResults : (∀ c ∈ [Instr.addi 0 31 30 0xFFFF, .andi 0 31 30 0xFFFF, .ori 0 31 30 0xFFFF,
    .xori 0 31 30 0x8000, .slti 0 31 30 0x8000, .sltiu 0 31 30 0xFFFF, .lsh 0 31 30 0xFFFF, .li 0 31 0x8000,
    .shi 0 31 30 0x3F, .shi 0 31 30 0x7F, .shi 0 31 30 0xBF], Issued (standing regs0 (word c)) 0 c regs0 leaf0) ∧
    (0x3F : BitVec 16).extractLsb' 6 2 = 0 ∧ (0x7F : BitVec 16).extractLsb' 6 2 = 1 ∧ (0xBF : BitVec 16).extractLsb' 6 2 = 2 :=
  ⟨issued_all regs0 _ rfl rfl rfl (by decide +kernel), by decide, by decide, by decide⟩

theorem witness_SetVectorLength : (∀ c ∈ [Instr.setvl 0 31 30 0x14, .setvl 0 31 30 0x05, .setvl 0 31 30 0x18],
    Issued (standing regs0 (word c)) 0 c regs0 leaf0) ∧
    ((0x14 : BitVec 16).extractLsb' 0 3).toNat ≤ 4 ∧ ((0x14 : BitVec 16).extractLsb' 3 2).toNat ≤ 2 ∧
    4 < ((0x05 : BitVec 16).extractLsb' 0 3).toNat ∧ ((0x18 : BitVec 16).extractLsb' 3 2).toNat = 3 ∧
    (0x20 : BitVec 16).extractLsb' 5 11 ≠ 0 :=
  ⟨issued_all regs0 _ rfl rfl rfl (by decide +kernel), by decide, by decide, by decide, by decide, by decide⟩

theorem witness_ControlValues : (∀ c ∈ [Instr.mfc 0 31 0, .mfc 0 31 1, .mfc 0 31 2, .mfc 0 31 3, .mfc 0 31 4, .mfc 0 31 5,
    .mfc 0 31 6, .mfc 0 31 7, .mfc 0 31 8, .mfc 0 31 9, .mfc 0 31 10, .mtc 0 31 3, .mtc 0 31 5, .mtc 0 31 4],
    Issued (standing regs0 (word c)) 0 c regs0 leaf0) ∧ 9 < (10 : BitVec 16).toNat ∧ (4 : BitVec 16) ≠ 3 ∧ (4 : BitVec 16) ≠ 5 :=
  ⟨issued_all regs0 _ rfl rfl rfl (by decide +kernel), by decide, by decide, by decide⟩

theorem witness_BranchesAndJumps : (∀ c ∈ [Instr.beq 0 0 31 0, .beq 0 31 30 0, .bne 0 31 30 0, .bne 0 0 31 0, .blt 0 0 31 0,
    .blt 0 31 0 0, .bge 0 31 0 0, .bge 0 0 31 0, .bltu 0 0 31 0, .bltu 0 31 0 0, .bgeu 0 31 0 0, .bgeu 0 0 31 0, .j 0 0,
    .j 0 1, .jal 0 0, .jalr 0 31 0], Issued (standing regs0 (word c)) 0 c regs0 leaf0) ∧
    JumpInside (standing regs0 0) 0 (jumpTarget regs0 0) ∧ JumpInside (standing regs0 0) 0 (regs0.rg 0) ∧
    ¬ JumpInside (standing regs0 0) 0 (jumpTarget regs0 1) ∧ regs0.rg 31 = regs0.rg 30 ∧ regs0.rg 0 ≠ regs0.rg 31 :=
  ⟨issued_all regs0 _ rfl rfl rfl (by decide +kernel), by unfold JumpInside; decide +kernel,
    by unfold JumpInside; decide +kernel, by unfold JumpInside; decide +kernel, by decide +kernel, by decide +kernel⟩

theorem witness_VectorIntegerElements : ∀ c ∈ [Instr.vadd 0 31 30 29 1 7 1, .vsub 0 31 30 29 0 0 0, .vmul 0 31 30 29 1 7 0,
    .vand 0 31 30 29 1 7 0, .vor 0 31 30 29 1 7 0, .vxor 0 31 30 29 1 7 0, .vsll 0 31 30 29 1 7 0, .vsrl 0 31 30 29 1 7 0,
    .vsra 0 31 30 29 1 7 1, .vmin 0 31 30 29 1 7 0, .vmax 0 31 30 29 1 7 0, .vminu 0 31 30 29 1 7 0,
    .vmaxu 0 31 30 29 1 7 0, .vmv 0 31 30 1 7, .vbcast 0 31 29 1 7], Issued (standing regs0 (word c)) 0 c regs0 leaf0 :=
  issued_all regs0 _ rfl rfl rfl (by decide +kernel)

theorem witness_CheckedVectorArithmetic : ∀ c ∈ [Instr.vaddcS 0 31 30 29 1 7 1, .vaddcU 0 31 30 29 0 0 0,
    .vsubcS 0 31 30 29 1 7 0, .vsubcU 0 31 30 29 1 7 0, .vmulcS 0 31 30 29 1 7 0],
    Issued (standing regs0 (word c)) 0 c regs0 leaf0 := issued_all regs0 _ rfl rfl rfl (by decide +kernel)

/-- The element widths 8 to 128 that the width hypotheses of the statements ask for. -/
theorem widths : (regsW 0).w = 8 ∧ (regsW 1).w = 16 ∧ (regsW 2).w = 32 ∧ (regsW 3).w = 64 ∧ (regsW 4).w = 128 := by
  decide +kernel

theorem witness_VectorFloatElements : (∀ c ∈ [Instr.vfadd 0 31 30 29 1 7 1, .vfsub 0 31 30 29 0 0 0, .vfmul 0 31 30 29 1 7 0,
    .vfdiv 0 31 30 29 1 7 0, .vfmin 0 31 30 29 1 7 0, .vfmax 0 31 30 29 1 7 0, .vfabs 0 31 30 1 7, .vfneg 0 31 30 1 7],
    Issued (standing (regsW 2) (word c)) 0 c (regsW 2) leaf0 ∧ Issued (standing (regsW 3) (word c)) 0 c (regsW 3) leaf0) ∧
    Issued (standing (regsW 4) (word (.vfadd 0 31 30 29 1 7 1))) 0 (.vfadd 0 31 30 29 1 7 1) (regsW 4) leaf0 :=
  ⟨fun c hc => ⟨issued_all (regsW 2) _ rfl rfl rfl (by decide +kernel) c hc,
    issued_all (regsW 3) _ rfl rfl rfl (by decide +kernel) c hc⟩, issued_of _ _ rfl rfl rfl (by decide +kernel)⟩

theorem witness_ConversionElements : (∀ c ∈ [Instr.vwidenS 0 31 30 1 7, .vwidenU 0 31 30 1 7, .vnarrow 0 31 30 1 7,
    .vnarrow 0 31 31 1 7, .vcvtIf 0 31 30 1 7, .vcvtFi 0 31 30 1 7, .vcvtDs 0 31 30 1 7, .vcvtDs 0 31 31 1 7,
    .vunpk 0 31 30 29 1 7 1, .vunpk 0 31 30 0 1 7 1], Issued (standing (regsW 2) (word c)) 0 c (regsW 2) leaf0) ∧
    Issued (standing (regsW 3) (word (.vcvtSd 0 31 30 1 7))) 0 (.vcvtSd 0 31 30 1 7) (regsW 3) leaf0 ∧
    ((regsW 2).rg 29).toNat % 128 = 5 ∧ ((regsW 2).rg 0).toNat % 128 = 0 ∧ (regsW 2).vl = 2 :=
  ⟨issued_all (regsW 2) _ rfl rfl rfl (by decide +kernel), issued_of _ _ rfl rfl rfl (by decide +kernel),
    by decide +kernel, by decide +kernel, rfl⟩

theorem witness_CompareToMask :
    (∀ c ∈ [Instr.vcmp 0 7 30 29 1 7 1 2 5, .vcmp 0 7 30 29 1 7 0 0 5], Issued (standing (regsW 2) (word c)) 0 c (regsW 2) leaf0) ∧
    Issued (standing (regsW 4) (word (.vcmp 0 7 30 29 1 7 0 3 5))) 0 (.vcmp 0 7 30 29 1 7 0 3 5) (regsW 4) leaf0 :=
  ⟨issued_all (regsW 2) _ rfl rfl rfl (by decide +kernel), issued_of _ _ rfl rfl rfl (by decide +kernel)⟩

theorem witness_MaskFunctionResults : ∀ c ∈ [Instr.mand 0 7 6 5, .mor 0 7 6 5, .mxor 0 7 6 5, .mandn 0 7 6 5, .mnot 0 7 6,
    .mset 0 7, .mpop 0 31 7, .mffs 0 31 7, .mfromg 0 7 31, .mtog 0 31 7], Issued (standing regs0 (word c)) 0 c regs0 leaf0 :=
  issued_all regs0 _ rfl rfl rfl (by decide +kernel)

theorem witness_RearrangementElements : (∀ c ∈ [Instr.vcmprs 0 31 30 1 7, .vexpnd 0 31 30 1 7, .vscan 0 31 30 1 7,
    .vsort 0 31 30 0 0, .vsortp 0 31 30 0 0, .vext 0 31 30 29, .vext 0 31 30 0, .vins 0 31 30 0],
    Issued (standing regs0 (word c)) 0 c regs0 leaf0) ∧ (regs0.rg 0).toNat < regs0.vlen / regs0.w ∧
    Issued (standing (regsW 4) (word (.vext 0 31 30 29))) 0 (.vext 0 31 30 29) (regsW 4) leaf0 ∧
    Issued (standing (regsW 4) (word (.vins 0 31 30 29))) 0 (.vins 0 31 30 29) (regsW 4) leaf0 ∧
    (regsW 4).vlen / (regsW 4).w ≤ ((regsW 4).rg 29).toNat ∧ 511 < 512 / 1 :=
  ⟨issued_all regs0 _ rfl rfl rfl (by decide +kernel), by decide +kernel, issued_of _ _ rfl rfl rfl (by decide +kernel),
    issued_of _ _ rfl rfl rfl (by decide +kernel), by decide +kernel, by decide⟩

theorem witness_HashElements : (∀ ew ∈ [2, 3, 4], Issued (standing (regsW ew) (word (.hashc 0 31 30 29 1 7 0))) 0
      (.hashc 0 31 30 29 1 7 0) (regsW ew) leaf0) ∧
    (∀ ew ∈ [2, 3], Issued (standing (regsW ew) (word (.hashm 0 31 30 29 1 7 1))) 0 (.hashm 0 31 30 29 1 7 1) (regsW ew) leaf0) ∧
    Issued (standing (regsW 1) (word (.hashc 0 31 30 29 1 7 0))) 0 (.hashc 0 31 30 29 1 7 0) (regsW 1) leaf0 ∧
    Issued (standing (regsW 4) (word (.hashm 0 31 30 29 1 7 1))) 0 (.hashm 0 31 30 29 1 7 1) (regsW 4) leaf0 :=
  ⟨fun ew h => issued_of _ _ rfl rfl rfl (by revert ew h; decide +kernel),
    fun ew h => issued_of _ _ rfl rfl rfl (by revert ew h; decide +kernel),
    issued_of _ _ rfl rfl rfl (by decide +kernel), issued_of _ _ rfl rfl rfl (by decide +kernel)⟩

/-- `regs0` with word 66 named by g29, the first beyond an accumulator, and word 65, the last, by g28. -/
def regsX : EngRun := (regs0.wg 29 66).wg 28 65

theorem witness_AccumulatorResults : (∀ c ∈ [Instr.xclr 0 3, .xaddf 0 3 31 1 7, .xaddi 0 3 31 1 7, .xmacf 0 3 31 30 1 7 1,
    .xmrg 0 3 2, .xrnd 0 31 3, .xrnds 0 31 3], Issued (standing (regsW 2) (word c)) 0 c (regsW 2) leaf0) ∧
    (∀ c ∈ [Instr.xrdw 0 31 3 28, .xrdw 0 31 3 29], Issued (standing regsX (word c)) 0 c regsX leaf0) ∧
    (regsX.rg 28).toNat ≤ 65 ∧ 65 < (regsX.rg 29).toNat :=
  ⟨issued_all (regsW 2) _ rfl rfl rfl (by decide +kernel), issued_all regsX _ rfl rfl rfl (by decide +kernel),
    by decide +kernel, by decide +kernel⟩

-- ---------------------------------------------------------------- engine memory, input and output

/-- `on` with one writable page of instance 1 resident in frame 1, at device address 0. -/
def mapped : State :=
  { on with pager := { on.pager with
      ranges := [{ inst := 1, base := 0, len := 65536, write := true }]
      pages := [(2 ^ 48, { state := .t0, loc := 2097152 })]
      frames := [(1, { inst := 1 })] } }

/-- `on` with a region of instance 1 over the first 8 KiB of every quire memory, and bank 0 of quire 0. -/
def shared : State :=
  { on with regs := [(offRset 1 0, 0x8070000100000000)], banks := [(0, { owner := 1 })] }

/-- A folio image of one signature with the given entry fields. -/
def image (fs : List (Nat × Nat × Nat)) : Bytes :=
  let h := (List.replicate 256 (0 : Byte))
  let put := fun (b : Bytes) (f : Nat × Nat × Nat) => b.take f.1 ++ leBytes f.2.1 f.2.2 ++ b.drop (f.1 + f.2.1)
  ([(0xC, 2, 1), (0xE, 2, 1), (0x80, 2, 1), (0x88, 4, 256), (0x8C, 4, 64)].foldl put h) ++ entry fs

/-- `b` with the run of leaf 0, whose signature has the given sink (and may write bank 0 of the Thumb index). -/
def sinking (b : State) (sink : Nat) : State :=
  { b with runs := [(leaf0.run, { inst := 1, sub := 0, slot := 0, image := image [(5, 1, sink), (0x28, 8, 1)], cmd := 7
                                  sigs := [{ state := .running }] })] }

/-- `regs0` with addresses: g30 the constants of the data memory, g29 the end of it less 8 bytes, g28 the first byte of
quire memory, g27 the working space, g26 an address that no memory has, g25 a device address. -/
def regsA : EngRun :=
  (((((regs0.wg 30 0xFFFF800000000000).wg 29 0xFFFF80000007FFF8).wg 28 0xFFFF800100000000).wg 27 0xFFFF800000020000).wg 26
    0xFFFF900000000000).wg 25 0

def afterReady (s : State) (e : Nat) (c : Instr) (r : EngRun) (l : Leaf) (a : BitVec 5) (off : BitVec 11) (is : List Nat) : Bool :=
  match s.loadReady e l (r.elemAddr a off (is.headD 0)) ((is.map (r.elemAddr a off)).getLast!) (is.map (r.elemAddr a off)) (r.w / 8) with
  | .ok _ s1 => isOk (s1.engLoads e (counted c r) l (r.w / 8) (is.map (r.elemAddr a off)) [])
  | .wait _ => false
  | .fail _ _ _ => false

theorem witness_EngineLoadResults :
    (∀ c ∈ [Instr.lds 0 31 30 3 1 0x7FF, .mld 0 7 30, .xld 0 3 30, .vld 0 31 30 0 0 0 0, .vld 0 31 29 0 0 1 0],
      Issued (standing regsA (word c)) 0 c regsA leaf0) ∧
    (let s := standing regsA 0
     isOk (s.engLoad 0 (counted (.lds 0 31 30 3 1 0x7FF) regsA) leaf0 (0xFFFF800000000000 + 0x7FF) 8) = true ∧
     isOk (s.engLoad 0 (counted (.mld 0 7 30) regsA) leaf0 (regsA.rg 30).toNat 8) = true ∧
     (regsA.rg 30).toNat % 8 = 0 ∧ isOk (s.engLoad 0 (counted (.xld 0 3 30) regsA) leaf0 (regsA.rg 30).toNat 528) = true ∧
     regsA.actives 0 0 = [0, 1] ∧
     (∀ i ∈ [0, 1], s.elemFault 0 regsA 1 (regsA.elemAddr 30 0 i) (regsA.w / 8) .load = none) ∧
     afterReady s 0 (.vld 0 31 30 0 0 0 0) regsA leaf0 30 0 [0, 1] = true ∧
     s.elemFault 0 regsA 1 (regsA.elemAddr 29 0 0) (regsA.w / 8) .load = none ∧
     s.elemFault 0 regsA 1 (regsA.elemAddr 29 0 1) (regsA.w / 8) .load = some 0x1006 ∧
     afterReady s 0 (.vld 0 31 29 0 0 1 0) regsA leaf0 29 0 [0] = true) :=
  ⟨fun c hc => issued_of regsA c rfl rfl rfl (List.all_eq_true.mp (by decide +kernel) c hc), by decide +kernel⟩

theorem witness_EngineReadsOfItsMemories :
    on.accFault 0 1 (0xFFFF800100600000 + 0x1FFFF) 1 .load = none ∧ engMem (0xFFFF800100600000 + 0x1FFFF) = .quire ∧
    on.armed 2 0 = false ∧ on.arrived.filter (fun w => !w.past) = [] ∧ on.poisoned (.quire 0) 0x61FFFF 1 = false ∧
    on.accFault 0 1 (0xFFFF800000000000 + 0x1FFFF) 1 .load = none ∧ engMem (0xFFFF800000000000 + 0x1FFFF) = .data ∧
    0x1FFFF + 1 ≤ 0x20000 ∧ on.poisoned (.dmem 0) 0x1FFFF 1 = false ∧
    on.accFault 0 1 0xFFFF800100620000 1 .load = some 0x1006 := by decide +kernel

theorem witness_StagedWritesWaitForCommit :
    (∀ c ∈ [Instr.sts 0 31 28 3 8, .mst 0 28 7, .xst 0 3 28, .aadd 0 28 31, .aswp 0 28 31, .xpost 0 3 28],
      Issued (standingIn shared leaf0 regsA (word c)) 0 c regsA leaf0) ∧
    (let s := standingIn shared leaf0 regsA 0
     let a := (regsA.rg 28).toNat
     engMem (a + 8) = .quire ∧ s.accFault 0 1 (a + 8) 8 .store = none ∧ s.accFault 0 1 a 8 .store = none ∧
     s.accFault 0 1 a 528 .store = none ∧ s.accFault 0 1 a 8 .atomic = none ∧ s.accFault 0 1 a 528 .atomic = none ∧
     a % 8 = 0 ∧ (regsA.ra 3).image.length = 528 ∧ regsA.staged + 536 ≤ 131072) :=
  ⟨fun c hc => issued_in shared leaf0 regsA c rfl on_armed rfl rfl rfl rfl rfl rfl
      (List.all_eq_true.mp (by decide +kernel) c hc), by decide +kernel⟩

theorem witness_StagedWritesWaitForCommit_thw :
    Issued (standingIn (sinking shared 5) leaf0 regsA (word (.thw 0 28 25))) 0 (.thw 0 28 25) regsA leaf0 ∧
    (let s := standingIn (sinking shared 5) leaf0 regsA 0
     (s.sigOfLeaf leaf0).map (fun g => (g.sink, bitAt g.ke ((regsA.rg 25).toNat / 1024))) = some (5, true) ∧
     (regsA.rg 25).toNat < 65536 ∧ (Tab.find s.banks (0 * 64 + (regsA.rg 25).toNat / 1024)).map (·.owner) = some leaf0.inst ∧
     regsA.staged + 48 ≤ 131072) :=
  ⟨issued_in _ _ _ _ rfl on_armed rfl rfl rfl rfl rfl rfl (by decide +kernel), by decide +kernel⟩

theorem witness_WorkingSpaceStoreFrame :
    Issued (standing regsA (word (.sts 0 31 27 3 0))) 0 (.sts 0 31 27 3 0) regsA leaf0 ∧ (standing regsA 0).poison = [] ∧
    (regsA.rg 27 + BitVec.ofInt 64 (0 : BitVec 12).toInt).toNat = 0xFFFF800000000000 + 0x20000 ∧ 0x20000 + 2 ^ 3 ≤ 0x60000 :=
  ⟨issued_of _ _ rfl rfl rfl (by decide +kernel), rfl, by decide +kernel, by decide⟩

theorem witness_VectorStoreResults :
    (∀ c ∈ [Instr.vst 0 31 27 0 0 0 0, .vst 0 31 26 0 0 0 0, .vst 0 31 27 0 0 1 0], Issued (standing regsA (word c)) 0 c regsA leaf0) ∧
    (let s := standing regsA 0
     (∀ i ∈ regsA.actives 0 0, s.elemFault 0 regsA 1 (regsA.elemAddr 27 0 i) (regsA.w / 8) .store = none) ∧
     isOk (s.engStores 0 (counted (.vst 0 31 27 0 0 0 0) regsA) leaf0 (mergeStores ((regsA.actives 0 0).map (fun i =>
        (regsA.elemAddr 27 0 i, leBytes (regsA.w / 8) (elem (regsA.rv 31) regsA.w i)))))) = true ∧
     regsA.actives 0 0 = [] ++ 0 :: [1] ∧ s.elemFault 0 regsA 1 (regsA.elemAddr 26 0 0) (regsA.w / 8) .store = some 0x1006) :=
  ⟨fun c hc => issued_of regsA c rfl rfl rfl (List.all_eq_true.mp (by decide +kernel) c hc), by decide +kernel⟩

/-- `s` with quire 0 mapped out. -/
def lost (s : State) : State := { s with col := { s.col with mapQuires := [0] } }

/-- A request to the fetch unit of engine 0 for the element at device address 0. -/
def asks : FetchReq := { d := 1, pos := List.replicate 16 0, on := [true], mask := none }

theorem witness_FetchUnitRequestAndDelivery :
    (∀ c ∈ [Instr.fetch 0 30 28 25 1 7, .fetch 0 31 28 25 0 0], Issued (standing regsA (word c)) 0 c regsA leaf0) ∧
    (30 : BitVec 5).toNat + fetchRegs regsA.ew ≤ 32 ∧ 32 < (31 : BitVec 5).toNat + fetchRegs regsA.ew ∧
    (let r := { regsA with fetch := some asks }
     let s := standingIn mapped leaf0 r 0
     s.running = true ∧ s.engRun 0 = some r ∧ s.leaf? r.leaf = some leaf0 ∧ s.quireLost 0 = false ∧
     (lost s).running = true ∧ (lost s).engRun 0 = some r ∧ (lost s).leaf? r.leaf = some leaf0 ∧ (lost s).quireLost 0 = true ∧
     (List.range 16).filter (fun i => asks.on.getD i false) = [0] ∧ s.fetchFault 0 r 1 0 = none ∧
     (match s.fetchReady 0 1 8 [0] asks.pins false with
      | .ok p s1 => !p.2 && isOk (s1.fetchRead 1 (fetchSpans 8 [0]) [])
      | .wait _ => false
      | .fail _ _ _ => false) = true) :=
  ⟨fun c hc => issued_of regsA c rfl rfl rfl (List.all_eq_true.mp (by decide +kernel) c hc), by decide +kernel,
    by decide +kernel, by decide +kernel⟩

/-- `regs0` with bank mask 1 in g30, bank mask 2 in g29, and in v2 the cursor field of no cursor, in v3 one of engine 1, in v4
one with its bit 25 set, in v5 that of context 0 of engine 0 at generation 0. -/
def regsT : EngRun :=
  (((((regs0.wg 30 1).wg 29 2).wv 2 (BitVec.ofNat 512 (0xFFFFFFFF * 2 ^ 96))).wv 3 (BitVec.ofNat 512 (0x10000000 * 2 ^ 96))).wv 4
    (BitVec.ofNat 512 (0x02000000 * 2 ^ 96))).wv 5 0

/-- `s` with context 0 of engine 0 closed after its last match. -/
def spent (s : State) : State := s.updEng 0 (fun x => { x with cursors := [{ used := true }] })

/-- `shared` with `n` entries of quire 0 that match every key. -/
def entries (n : Nat) : State := { shared with thumb := (List.range n).map (fun k => (k, { key := 0, care := 0, priority := 0, payload := 0, valid := true })) }

theorem witness_ThumbSearchResults :
    (∀ c ∈ [Instr.ths 0 31 1 0, .ths 0 31 1 29, .ths 0 31 1 30, .thn 0 31 2, .thn 0 31 3, .thn 0 31 4, .thn 0 31 5],
      Issued (standingIn (entries 2) leaf0 regsT (word c)) 0 c regsT leaf0) ∧
    (let s := standingIn (entries 2) leaf0 regsT 0
     (regsT.rg 0).toNat = 0 ∧ s.thumbDenied 1 0 (regsT.rg 29).toNat = true ∧
     s.thumbDenied 1 0 (regsT.rg 30).toNat = false ∧ s.thumbWake 0 1 = none ∧ s.quireLost 0 = false ∧
     s.thumbTurn 0 (.search 0) = true ∧ (lost s).quireLost 0 = true ∧ (lost s).thumbDenied 1 0 (regsT.rg 30).toNat = false ∧
     (standingIn (entries 0) leaf0 regsT 0).thumbMatches 0 ((regsT.rv 1).setWidth 128) 1 = [] ∧
     ((standingIn (entries 1) leaf0 regsT 0).thumbMatches 0 ((regsT.rv 1).setWidth 128) 1).length = 1 ∧
     (s.thumbMatches 0 ((regsT.rv 1).setWidth 128) 1).length = 2 ∧
     (regsT.rv 2).toNat / 2 ^ 96 % 2 ^ 32 = 0xFFFFFFFF ∧ (regsT.rv 3).toNat / 2 ^ 96 % 2 ^ 32 / 2 ^ 28 ≠ 0 % 16 ∧
     bitAt ((regsT.rv 4).toNat / 2 ^ 96 % 2 ^ 32) 25 = true ∧ (regsT.rv 5).toNat / 2 ^ 96 % 2 ^ 32 = 0 ∧
     ((((spent s).engOf 0).cursors.getD 0 {}).gen = 0 ∧ (((spent s).engOf 0).cursors.getD 0 {}).used = true)) :=
  ⟨fun c hc => issued_in (entries 2) leaf0 regsT c rfl on_armed rfl rfl rfl rfl rfl rfl
      (List.all_eq_true.mp (by decide +kernel) c hc), by decide +kernel⟩

/-- Registers with an input batch at hand. -/
def regsB : EngRun := { regs0 with batches := [{ off := 0, len := 64, last := false }] }

/-- A leaf with a chunk input. -/
def leafIn : Leaf := { leaf0 with src := .chunks [0] }

theorem witness_LeafInputAndRowGroups :
    (∀ c ∈ [Instr.bnext 0 31, .emit 0 31 30 1 7, .emitend 0], Issued (standingIn (sinking on 4) leafIn regsB (word c)) 0 c regsB leafIn) ∧
    (∀ c ∈ [Instr.bnext 0 31, .emit 0 31 30 1 7, .emitend 0], Issued (standing regs0 (word c)) 0 c regs0 leaf0) ∧
    (∀ c ∈ [Instr.emit 0 31 29 1 7], Issued (standingIn (sinking on 4) leaf0 (regsT.wg 29 16) (word c)) 0 c (regsT.wg 29 16) leaf0) ∧
    (let s := standingIn (sinking on 4) leafIn regsB 0
     regsB.handed = false ∧ leaf0.src = .none ∧ leafIn.src ≠ .none ∧ regsB.ended = false ∧ regsB.batches.length = 1 ∧
     (s.sigOfLeaf leafIn).map (·.sink) = some 4 ∧ (on.sigOfLeaf leaf0).map (·.sink) = none ∧ (regsB.rg 30).toNat ≤ 15 ∧
     regsB.vl ≠ 0 ∧ regsB.staged + (regsB.actives 1 7).length * (regsB.w / 8) ≤ 131072 ∧ 15 < ((regsT.wg 29 16).rg 29).toNat ∧
     isOk (s.closeGroup 0 (counted (.emitend 0) regsB) leafIn) = true) :=
  ⟨fun c hc => issued_in _ leafIn regsB c rfl on_armed rfl rfl rfl rfl rfl rfl
      (List.all_eq_true.mp (by decide +kernel) c hc),
    fun c hc => issued_of regs0 c rfl rfl rfl (List.all_eq_true.mp (by decide +kernel) c hc),
    fun c hc => issued_in _ leaf0 (regsT.wg 29 16) c rfl on_armed rfl rfl rfl rfl rfl rfl
      (List.all_eq_true.mp (by decide +kernel) c hc), by decide +kernel⟩

/-- Registers of a leaf that has spawned 64 leaves. -/
def regsS : EngRun := { regs0 with spawns := 64 }

theorem witness_SpawnAndCommit :
    (∀ c ∈ [Instr.spawn 0 0 31, .spawn 0 31 31, .commit 0], Issued (standingIn (sinking on 4) leaf0 regs0 (word c)) 0 c regs0 leaf0) ∧
    Issued (standing regsS (word (.spawn 0 0 31))) 0 (.spawn 0 0 31) regsS leaf0 ∧
    (let s := standingIn (sinking on 4) leaf0 regs0 0
     (regs0.rg 0).toNat = leaf0.sig ∧ (regs0.rg 31).toNat ≠ leaf0.sig ∧ regs0.spawns < 64 ∧ 64 ≤ regsS.spawns ∧
     ((s.spawnsOf 1).takeWhile (· != 0)).length < s.slotsFree 1 ∧
     isOk (s.closeGroup 0 (counted (.commit 0) regs0) leaf0) = true ∧ s.holdKeeps 0 leaf0 [] = false ∧
     ((sinking on 1).sigOfLeaf leaf0).map (·.sink) = some 1 ∧ [StageItem.send 9 [1]].any s.sendClosed = true ∧
     (sinking on 1).holdKeeps 0 leaf0 [.send 9 [1]] = false) :=
  ⟨fun c hc => issued_in _ leaf0 regs0 c rfl on_armed rfl rfl rfl rfl rfl rfl
      (List.all_eq_true.mp (by decide +kernel) c hc), issued_of _ _ rfl rfl rfl (by decide +kernel), by decide +kernel⟩

/-- `sinking on 1` with the bytes `b` of a message in the hold of quire 0. -/
def holding (b : Bytes) : State :=
  { sinking on 1 with assocs := [(0, { inst := 1, group := 0, local_ := 0, remote := 0, tag := 1, addr := 0, care := 0, paths := []
                                       seg := 4096, out := [{ no := 0, off := 0, bytes := b, eos := false, quire := 0 }] })] }

theorem holding_keeps (b : Bytes) (hb : b.length = 4194304) : (holding b).holdKeeps 0 leaf0 [] = true := by
  have h : (holding b).partHeld 0 = b.length := by
    show 0 + (0 + (0 + (b.length - (0 - 0)))) = b.length
    omega
  have hs : ((holding b).sigOfLeaf leaf0).map (·.sink) = some 1 := by
    show ((sinking on 1).sigOfLeaf leaf0).map (·.sink) = some 1
    decide +kernel
  unfold State.holdKeeps
  rw [hs, h, hb]; rfl

theorem witness_SpawnAndCommit_waits : ∃ b, (holding b).holdKeeps 0 leaf0 [] = true :=
  ⟨List.replicate 4194304 0, holding_keeps _ List.length_replicate⟩

theorem witness_SpawnAndCommit_stops :
    (let s := standing regs0 0xFC000000
     s.running_ 0 = some (regs0, leaf0) ∧ regs0.pc < (s.engOf 0).codeLen ∧ decodeEngine 0 (s.engWord 0 regs0) = none ∧
     s.poisoned (.imem 0) regs0.pc 4 = false) ∧
    (let r := { regs0 with pc := 4 }
     let s := standing r 0
     s.running_ 0 = some (r, leaf0) ∧ (s.engOf 0).codeLen ≤ r.pc) ∧
    (let r := { regs0 with limit := 0 }
     let s := standing r 0x04000000
     s.running_ 0 = some (r, leaf0) ∧ decodeEngine 0 (s.engWord 0 r) = some (.addi 0 0 0 0) ∧
     r.limit < r.steps + engCost (.addi 0 0 0 0) r) := by decide +kernel

theorem witness_FrameOfRegisterInstructions :
    destOf (.add 0 31 30 29) = some (0, [.g 31]) ∧ Issued (standing regs0 (word (.add 0 31 30 29))) 0 (.add 0 31 30 29) regs0 leaf0 ∧
    destOf (.vsortp 0 31 30 0 0) = some (0, [.v 31, .v 30]) ∧
    Issued (standing regs0 (word (.vsortp 0 31 30 0 0))) 0 (.vsortp 0 31 30 0 0) regs0 leaf0 :=
  ⟨rfl, issued_of _ _ rfl rfl rfl (by decide +kernel), rfl, issued_of _ _ rfl rfl rfl (by decide +kernel)⟩

-- ---------------------------------------------------------------- modes, clocks, power, registers

/-- `on` with every reference clock class lost. -/
def clockless : State := { on with clkLost := [.fab 3, .hbm, .pcie, .aon, .cxl 1] }

theorem witness_PowerGoodAndPerst :
    State.reset.powerGood = false ∧ (State.reset.pins.factoryEn && !State.reset.col.prodLock) = false ∧
    (let f : State := { State.reset with pins := { State.reset.pins with factoryEn := true }, col := { State.reset.col with prodLock := false } }
     f.powerGood = false ∧ (f.pins.factoryEn && !f.col.prodLock) = true) ∧
    State.reset.slotBad [] State.reset.col.nextSlot = none ∧
    (∀ k ∈ bootOrder State.reset.col.nextSlot, State.reset.slotBad [(0, 0), (1, 1), (2, 0)] k ≠ none) ∧
    on.powerGood = true ∧ on.running = true ∧ on.dev.factory = false ∧ on.dev.cold = false ∧ on.paused = false ∧
    ({ on with pins := { on.pins with perstN := false } } : State).pins.perstN = false ∧
    (0xD1E50002 : Word).getLsbD 1 = true ∧ (0xD1E50002 : Word).extractLsb' 16 16 = 0xD1E5 ∧
    cold.running = true ∧ cold.dev.cold = true ∧ cold.dev.booted = true ∧ cold.dev.restart = false ∧ cold.dev.coldFail = 0 ∧
    (let f : State := { on with dev := { on.dev with factory := true } }
     f.running = true ∧ f.dev.factory = true) := by
  decide +kernel

theorem witness_ColdStartClearsAndKeeps : 255 < 256 ∧ 2 ^ 80 - 1 < 2 ^ 80 ∧ 2 ^ 88 - 1 < 2 ^ 88 := by decide +kernel

theorem witness_MaintHoldDuringColdStart :
    cold.running = true ∧ cold.dev.cold = true ∧ cold.dev.factory = false ∧ cold.dev.act = none ∧ on.running = true ∧
    (∃ t, exec (.maintHoldWrite 1) on = .next t) ∧ on.paused = false ∧ ({ on.dev with maint := [3] } : Dev).maint = [3] ∧
    (∃ d : Dev, d.factory = false ∧ d.cold = false ∧ d.contained = false ∧ d.maint ≠ []) :=
  ⟨rfl, rfl, rfl, rfl, rfl, ⟨_, rfl⟩, rfl, rfl, ⟨{ on.dev with maint := [0] }, rfl, rfl, rfl, by decide⟩⟩

theorem witness_ClocksAndPulsePerSecond :
    cold.running = true ∧ cold.dev.cold = true ∧ cold.dev.booted = true ∧ cold.dev.restart = false ∧ cold.dev.coldFail = 0 ∧
    on.running = true ∧ on.clkLost = [] ∧ clockless.running = true ∧ clockless.serving = true ∧
    clockless.clkLost.contains (.fab 3) = true ∧ clockless.clkLost.contains .hbm = true ∧ clockless.clkLost.contains .pcie = true ∧
    clockless.clkLost.contains .aon = true ∧ clockless.clkLost.contains (.cxl 1) = true ∧ on.serving = true ∧
    bitAt (on.reg 0x108) 0 = false := by decide +kernel

/-- A part that THERMTRIP_N has stopped, with a command waiting. -/
def hot : State :=
  { on with stopped := true, pins := { on.pins with thermtripN := false }, pending := [.maintHoldWrite 1, .perstNAssert] }

theorem witness_ThermalTripStopsEveryBlock : hot.tripped = true ∧ (∃ t, step hot = .next t) ∧ carriesStores (.maintHoldWrite 1) = false ∧
    ({ hot with pending := [] } : State).tripped = true ∧ (∃ t, step { hot with pending := [] } = .next t) :=
  ⟨rfl, ⟨_, rfl⟩, rfl, rfl, ⟨_, rfl⟩⟩

/-- A reading with every sensor at `x`. -/
def reading (x : Int) : Thermal :=
  { quire := List.replicate 16 (List.replicate 4 x), iod := List.replicate 2 (List.replicate 4 x), stack := List.replicate 8 x }

theorem witness_ThermalReadings :
    let sensors := fun (r : Thermal) => (r.quire.take 16).flatMap (·.take 4) ++ (r.iod.take 2).flatMap (·.take 4) ++ r.stack.take 8
    on.running = true ∧ (110 ∈ sensors (reading 110)) ∧ (∀ x ∈ sensors (reading 109), x < 110) := by decide +kernel

theorem witness_PowerController :
    on.running = true ∧ on.serving = true ∧ on.pins.pwrbrkN = true ∧
    ({ on with pwr := { on.pwr with fifo := [([1, 2], [7])] } } : State).serving = true := by decide +kernel

theorem witness_RegisterRows :
    on.running = true ∧ on.serving = true ∧ on.paused = false ∧ 8 % 8 = 0 ∧ sizeOk 8 2 = false ∧ sizeOk 6 4 = false ∧
    (regInfo 0x200000).isSome = true ∧
    (∃ r, regInfo 0x200000 = some r ∧ regLegal 0x200000 (regMerge r (on.reg 0x200000) 0x200000 8 (on.reg 0x200000)) = true ∧
      ∃ v : Word, regLegal 0x200000 (regMerge r (on.reg 0x200000) 0x200000 8 v.toNat) = false) ∧
    on.col.errLog.length + on.log.err.length ≤ 4194304 ∧ on.col.fhLog.length + on.log.fh.length ≤ 8388608 ∧
    (let v : Word := 0x80010000000000FF
     injectLegal v.toNat = true ∧ v.getLsbD 63 = true ∧ on.dev.maintHold = false ∧
     ({ on with dev := { on.dev with maintHold := true } } : State).dev.maintHold = true ∧
     injectLegal (0x0001000000000100 : Word).toNat = false) :=
  ⟨rfl, rfl, rfl, rfl, rfl, rfl, by decide +kernel, ⟨_, rfl, by decide +kernel, ⟨0, by decide +kernel⟩⟩,
    by decide, by decide, by decide +kernel⟩

theorem witness_FaultCounting :
    (on.countEvent 1 0 100 1).2.1 = true ∧ (on.countEvent 1 0 100 2).2.1 = false ∧
    ((on.countEvent 1 0 100 2).2.2.countEvent 1 0 100 2).2.1 = true := by decide +kernel

theorem witness_StepRunsTheFrontCommand : on.powerGood = true ∧ State.reset.powerGood = false ∧
    (∃ t, exec (.maintHoldWrite 1) on = .next t) ∧ (∃ t, exec .ppsInEdge on = .next t) := ⟨rfl, rfl, ⟨_, rfl⟩, ⟨_, rfl⟩⟩

-- ---------------------------------------------------------------- queues, instances, firmware

/-- `on` without instance 1 and without the admin queues of instance 0, whose AQA names depths 4 and 4. -/
def bare : State := { on with insts := [(0, {})], winRegs := [(winKey 0 0x18, 0x00030003)] }

theorem witness_QueueRows :
    (cold.running = true ∧ cold.dev.factory = false ∧ cold.dev.cold = true) ∧
    (let s : State := { bare with winRegs := [] }
     s.serving = true ∧ s.enBit 0 = false ∧ bits (s.winReg 0 0x18) 11 0 = 0) ∧
    (let s : State := { bare with winRegs := [(winKey 0 8, 1)] }
     s.serving = true ∧ s.enBit 0 = true) ∧
    (∃ x, on.inst? 1 = some x ∧ ∃ p ∈ x.sqs, p.1 ≠ 0) ∧
    bare.serving = true ∧ (bare.inst? 0).isSome = true ∧ bare.enBit 0 = false ∧ bits (bare.winReg 0 0x18) 11 0 ≠ 0 ∧
    bits (bare.winReg 0 0x18) 27 16 ≠ 0 ∧
    on.serving = true ∧ (∃ x, on.inst? 0 = some x ∧ (∀ p ∈ x.sqs, p.1 = 0) ∧ (∀ p ∈ x.cqs, p.1 = 0)) ∧
    (∃ x q, on.inst? 1 = some x ∧ on.sq? 1 1 = some q ∧ (7 : Word).toNat < q.depth ∧ (7 : Word).toNat < 2 ^ 16 ∧
      q.deleting = false ∧ ((7 : Word).toNat + q.depth - q.tail) % q.depth ≤ q.free ∧ q.depth ≤ (8 : Word).toNat) ∧
    (∃ q, on.cq? 1 1 = some q ∧ (0 : Word).toNat < q.depth ∧
      ((0 : Word).toNat + q.depth - q.head) % q.depth ≤ (q.tail + q.depth - q.head) % q.depth ∧ q.depth ≤ (8 : Word).toNat) ∧
    (let s := on.updCq 1 1 (fun q => { q with tail := 1, unsig := 1 })
     s.serving = true ∧ ∃ q, s.cq? 1 1 = some q ∧ q.ien = true ∧ 0 < q.unsig) ∧
    (asked 1 1 0x4B []).takeCmd 1 1 9 0x4B = some (cmd 1 1 0x4B []) :=
  ⟨⟨rfl, rfl, rfl⟩, by decide +kernel, by decide +kernel, ⟨_, rfl, by decide +kernel⟩, rfl, rfl, by decide +kernel,
    by decide +kernel, by decide +kernel, rfl, ⟨_, rfl, by decide +kernel, by decide +kernel⟩,
    ⟨_, _, rfl, rfl, by decide +kernel⟩, ⟨_, rfl, by decide +kernel⟩, ⟨rfl, _, rfl, by decide +kernel⟩, by decide +kernel⟩

/-- The admin SQs that may be fetched from, and the instances with I/O SQs that may. -/
def adminReady (s : State) : List Nat :=
  (s.insts.filter (fun p => p.2.rdy && !p.2.disabling && !p.2.removing && !p.2.resetting
    && ((Tab.find p.2.sqs 0).map (s.fetchable p.1)).getD false)).map (·.1)
def ioReady (s : State) : List Nat := (s.insts.filter (fun p => s.ioFetching p.1 p.2 && (s.pickSq p.1 p.2).isSome)).map (·.1)

theorem witness_QueueRows_fetch :
    (let s := on.updSq 0 0 (fun q => { q with tail := 1 })
     nextRound (adminReady s) s.rrAdmin = some 0) ∧
    (let s := on.updSq 1 1 (fun q => { q with tail := 1 })
     nextRound (adminReady s) s.rrAdmin = none ∧ nextRound (ioReady s) s.rrIo = some 1 ∧
     ((s.inst? 1).bind (fun x => s.pickSq 1 x)).map (·.2.1) = some 1) := by decide +kernel

theorem witness_CompletionsReachTheirRing :
    (∃ x q, on.inst? 1 = some x ∧ Tab.find x.cqs 1 = some q ∧ q.full = false ∧ (∀ y ∈ x.hold, y.cq ≠ 1) ∧ Tab.find x.cqs 2 = none) ∧
    on.dmaStopped 1 = false ∧
    (let s := on.updCq 1 1 (fun q => { q with tail := 7 })
     ∃ x q, s.inst? 1 = some x ∧ Tab.find x.cqs 1 = some q ∧ q.full = true) :=
  ⟨⟨_, _, rfl, rfl, by decide +kernel⟩, by decide +kernel, ⟨_, _, rfl, rfl, by decide +kernel⟩⟩

theorem witness_FrameOfPostingCommands : ∃ t, exec (.flush 1 1 9) (asked 1 1 0x4B []) = .next t := ⟨_, rfl⟩

/-- The fields of Create Submission Queue and Create Completion Queue for queue 2. -/
def newSq : List (Nat × Nat × Nat) := [(8, 8, 0x8000), (0x18, 2, 2), (0x1A, 2, 7), (0x1C, 2, 1), (0x1E, 1, 3), (0x1F, 1, 1)]
def newCq : List (Nat × Nat × Nat) := [(8, 8, 0x8000), (0x18, 2, 2), (0x1A, 2, 7), (0x1C, 1, 63), (0x1D, 1, 1)]

theorem witness_QueueManagement :
    (let c := cmd 1 0 7 newSq
     (asked 1 0 7 newSq).takeCmd 1 0 9 7 = some c ∧ 0 < c.fld 0x18 2 ∧ c.fld 0x18 2 ≤ 1023 ∧ 0 < c.fld 0x1A 2 ∧
     c.dataAddr % 4096 = 0 ∧ c.devAddr = false ∧ c.fld 0x1E 1 ≤ 3 ∧ c.fld 0x1F 1 ≤ 1 ∧ c.fld 0x1E 1 ≠ 0 ∧
     (∃ x, on.inst? 1 = some x ∧ Tab.has x.sqs 2 = false ∧ Tab.has x.cqs (c.fld 0x1C 2) = true ∧ x.sqs.length < x.alloc.sqs ∧
       Tab.has x.sqs 1 = true) ∧ on.sqCount < 4096) ∧
    (let c := cmd 1 0 9 newCq
     (asked 1 0 9 newCq).takeCmd 1 0 9 9 = some c ∧ 0 < c.fld 0x18 2 ∧ 0 < c.fld 0x1A 2 ∧ c.dataAddr % 4096 = 0 ∧
     0 < c.fld 0x1C 1 ∧ c.fld 0x1C 1 ≤ 63 ∧ c.fld 0x1D 1 ≤ 1 ∧ on.cqCount < 4096 ∧
     ∃ x, on.inst? 1 = some x ∧ Tab.has x.cqs 2 = false ∧ x.cqs.length < x.alloc.cqs) ∧
    (let c := cmd 1 0 8 [(0x18, 2, 1)]
     let s := asked 1 0 8 [(0x18, 2, 1)]
     s.takeCmd 1 0 9 8 = some c ∧ (s.sq? 1 (c.fld 0x18 2)).isSome = true ∧ ((s.cutChain 1 1).sq? 1 1).isSome = true ∧
     (s.sq? 1 3).isNone = true) ∧
    (let c := cmd 1 0 0xA [(0x18, 2, 1)]
     let s : State := (asked 1 0 0xA [(0x18, 2, 1)]).updInst 1 (fun x => { x with sqs := [] })
     s.takeCmd 1 0 9 0xA = some c ∧ ∃ x, s.inst? 1 = some x ∧ Tab.has x.cqs 1 = true ∧ (∀ p ∈ x.sqs, p.2.cq ≠ 1) ∧
       ∀ h ∈ x.hold, h.cq ≠ 1) ∧
    (let s := asked 1 0 0xB []
     s.takeCmd 1 0 9 0xB = some (cmd 1 0 0xB []) ∧ (∃ x, s.inst? 1 = some x ∧ x.aers.length < 4) ∧
     ∃ x, (s.updInst 1 (fun x => { x with aers := [1, 2, 3, 4] })).inst? 1 = some x ∧ 4 ≤ x.aers.length) :=
  ⟨by refine ⟨by decide +kernel, by decide +kernel, by decide +kernel, by decide +kernel, by decide +kernel, by decide +kernel,
      by decide +kernel, by decide +kernel, by decide +kernel, ⟨_, rfl, by decide +kernel⟩, by decide +kernel⟩,
   by refine ⟨by decide +kernel, by decide +kernel, by decide +kernel, by decide +kernel, by decide +kernel, by decide +kernel,
      by decide +kernel, by decide +kernel, _, rfl, by decide +kernel⟩,
   by decide +kernel, ⟨by decide +kernel, _, rfl, by decide +kernel⟩,
   ⟨by decide +kernel, ⟨_, rfl, by decide +kernel⟩, _, rfl, by decide +kernel⟩⟩

/-- A table of weights that gives 1 to group 0 and 0 to the other 511 is legal for one group. -/
theorem weights_one (pre : Bytes) : weightsLegal (pre ++ (1 :: List.replicate 511 0)) pre.length 1 = true := by
  unfold weightsLegal
  rw [List.all_eq_true]
  intro g hg
  have hg' : g < 512 := List.mem_range.mp hg
  unfold fld slice
  rw [List.drop_append, List.drop_of_length_le (by omega), Nat.add_sub_cancel_left]
  cases g with
  | zero => rfl
  | succ k =>
    rw [List.nil_append, List.drop_succ_cons, List.drop_replicate, List.take_replicate]
    have h : min 1 (511 - k) = 1 := by omega
    rw [h]
    simp [ofLe, zeros]

/-- The legal parameter block of Create Instance: version 1, 1 group of weight 1, 2 queues each, 1,024 slots, 1 frame. -/
def blockHead : Bytes :=
  [1, 0, 0, 0, 0, 0, 1, 0, 0, 0, 2, 0, 2, 0, 0, 0, 0, 4, 0, 0, 1, 0, 0, 0] ++ List.replicate 30 0 ++ [1, 0]
    ++ List.replicate 136 0
def block : Bytes := blockHead ++ (1 :: List.replicate 511 0)

theorem block_legal : blockLegal block = true := by
  have h : weightsLegal block 0xC0 (parseAlloc block).groups = true := by
    rw [show (parseAlloc block).groups = 1 by decide +kernel]
    exact weights_one blockHead
  unfold blockLegal
  simp only [h, Bool.and_true]
  decide +kernel

/-- The block of Set Instance Share: version 1, 1 group of weight 1, no share. -/
def shareHead : Bytes := 1 :: 0 :: 1 :: 0 :: List.replicate 60 0
def shareBlock : Bytes := shareHead ++ (1 :: List.replicate 511 0)

/-- A state whose host buffer at 64 KiB of function `fn` holds `b`. -/
def hosted (s : State) (fn : Nat) (b : Bytes) : State := s.wr (.host fn) 0x10000 b

theorem witness_IdentifyLogsAndFeatures :
    (asked 0 0 1 []).takeCmd 0 0 9 1 = some (cmd 0 0 1 []) ∧ (cmd 0 0 1 []).fld 0x18 1 = 0 ∧
    (cmd 0 0 1 [(0x18, 1, 1), (0x19, 1, 1)]).fld 0x18 1 = 1 ∧ (on.inst? 1).isSome = true ∧
    (let fs := [(0x10, 4, 64), (0x18, 1, 4)]
     let c := cmd 0 0 2 fs
     (asked 0 0 2 fs).takeCmd 0 0 9 2 = some c ∧ c.fld 0x20 8 % 4 = 0 ∧ c.dataLen % 4 = 0 ∧ 4 ≤ c.dataLen ∧
     c.dataLen ≤ 1048576 ∧
     (match (asked 0 0 2 fs).page 0 4 with | .ok p => decide (c.fld 0x20 8 < p.length ∧ p.length ≤ 0x10000) | .error _ => false) = true) ∧
    (cmd 0 0 2 [(0x20, 8, 0x10000)]).fld 0x20 8 = 0x10000 ∧
    (∀ f ∈ [(1, 200), (2, 1), (5, 1), (6, 1), (7, 0)],
      let fs := [(0x18, 1, f.1), (0x20, 8, f.2)]
      let c := cmd 0 0 3 fs
      (asked 0 0 3 fs).takeCmd 0 0 9 3 = some c ∧ c.fld 0x18 1 = f.1 ∧ c.fld 0x19 1 = 0 ∧
        (f.1 ≠ 7 → featLegal f.1 (c.fld 0x20 8) = true)) ∧
    (let fs := [(0x18, 1, 5), (0x19, 1, 1), (0x20, 8, 1)]
     (asked 0 0 3 fs).takeCmd 0 0 9 3 = some (cmd 0 0 3 fs) ∧ (cmd 0 0 3 fs).fld 0x19 1 = 1 ∧ featLegal 5 1 = true) ∧
    (asked 1 0 3 [(0x18, 1, 6)]).takeCmd 1 0 9 3 = some (cmd 1 0 3 [(0x18, 1, 6)]) ∧
    (asked 0 0 4 [(0x18, 1, 7)]).takeCmd 0 0 9 4 = some (cmd 0 0 4 [(0x18, 1, 7)]) ∧
    (asked 1 0 4 [(0x18, 1, 1)]).takeCmd 1 0 9 4 = some (cmd 1 0 4 [(0x18, 1, 1)]) := by decide +kernel

theorem bufRead_hosted (s : State) (c : Cmd) (n : Nat) (b : Bytes) (hn : b.length = n) (hd : c.devAddr = false)
    (hc : c.dataAddr = 0x10000) (hs : s.hostErrs = []) (ht : s.dmaStopped c.inst = false) :
    (hosted s c.inst b).bufRead c c.dataAddr n = .ok b (hosted s c.inst b) := by
  have h : (s.wr (.host c.inst) 0x10000 b).hostErr c.inst 0x10000 b.length = none := by
    have h1 : (s.wr (.host c.inst) 0x10000 b).hostErrs = [] := hs
    have h2 : (s.wr (.host c.inst) 0x10000 b).dmaStopped c.inst = false := ht
    unfold State.hostErr
    rw [h1, h2]
    rfl
  unfold State.bufRead State.hostRead hosted
  rw [hd, hc, ← hn, h]
  simp [State.rd_wr]

/-- Create Instance for tenant 127 with the legal block. -/
def making : List (Nat × Nat × Nat) := [(8, 8, 0x10000), (0x10, 4, 704), (0x18, 1, 127)]
def makeS : State := { asked 0 0 0x10 making with hbm := { on.hbm with pool := 100000 } }

theorem witness_InstanceRows_create :
    (let s := hosted makeS 0 block
     let c := cmd 0 0 0x10 making
     s.takeCmd 0 0 9 0x10 = some c ∧ c.fld 0x18 1 = 127 ∧ s.inst? 127 = none ∧ c.dataLen = 704 ∧
     s.bufRead c c.dataAddr 704 = .ok block s ∧ blockLegal block = true ∧ s.covers (parseAlloc block) = true ∧ s.slcUp = true) ∧
    (asked 0 0 0x10 [(0x18, 1, 1)]).takeCmd 0 0 9 0x10 = some (cmd 0 0 0x10 [(0x18, 1, 1)]) ∧
    ((asked 0 0 0x10 [(0x18, 1, 1)]).inst? 1).isSome = true :=
  ⟨⟨by decide +kernel, by decide +kernel, by decide +kernel, by decide +kernel,
    bufRead_hosted makeS (cmd 0 0 0x10 making) 704 block (by decide +kernel) (by decide +kernel) (by decide +kernel) rfl rfl,
    block_legal, by decide +kernel, rfl⟩, by decide +kernel, by decide +kernel⟩

theorem witness_InstanceRows :
    (∀ op ∈ [0x11, 0x13], (asked 0 0 op [(0x18, 1, 1)]).takeCmd 0 0 9 op = some (cmd 0 0 op [(0x18, 1, 1)])) ∧
    (on.inst? 1).map (·.quiesced) = some false ∧
    (let s := on.updInst 1 (fun x => { x with quiescing := true })
     s.serving = true ∧ s.paused = false ∧ s.still 1 = true ∧ (s.inst? 1).map (·.quiescing) = some true) ∧
    (∀ op ∈ [0x12, 0x13],
      let s := (asked 0 0 op [(0x18, 1, 1)]).updInst 1 (fun x => { x with quiesced := true })
      s.takeCmd 0 0 9 op = some (cmd 0 0 op [(0x18, 1, 1)]) ∧ (s.inst? 1).map (·.quiesced) = some true) ∧
    (asked 0 0 0x12 []).takeCmd 0 0 9 0x12 = some (cmd 0 0 0x12 []) ∧ (cmd 0 0 0x12 []).fld 0x18 1 = 0 ∧ on.dev.causes = [] ∧
    ({ on with dev := { on.dev with causes := [(7, 3)] } } : State).dev.causes ≠ [] ∧ on.running = true ∧ on.inst? 127 = none ∧
    (∀ op ∈ [0x10, 0x11, 0x12, 0x13, 0x14], (asked 1 0 op []).takeCmd 1 0 9 op = some (cmd 1 0 op [])) := by decide +kernel

/-- Set Instance Share for instance 1 with the legal block. -/
def sharing : List (Nat × Nat × Nat) := [(8, 8, 0x10000), (0x10, 4, 576), (0x18, 1, 1)]

theorem witness_InstanceRows_share :
    let s := hosted (asked 0 0 0x14 sharing) 0 shareBlock
    let c := cmd 0 0 0x14 sharing
    s.takeCmd 0 0 9 0x14 = some c ∧ c.dataLen = 576 ∧ (on.inst? 1).map (·.alloc.groups) = some 1 ∧
    s.bufRead c c.dataAddr 576 = .ok shareBlock s ∧ fld shareBlock 0 2 = 1 ∧ fld shareBlock 2 2 = 1 ∧ fld shareBlock 4 2 ≤ 1000 ∧
    zeroAt shareBlock 6 58 = true ∧ weightsLegal shareBlock 0x40 1 = true :=
  ⟨by decide +kernel, by decide +kernel, by decide +kernel,
    bufRead_hosted (asked 0 0 0x14 sharing) (cmd 0 0 0x14 sharing) 576 shareBlock (by decide +kernel) (by decide +kernel)
      (by decide +kernel) rfl rfl,
    by decide +kernel, by decide +kernel, by decide +kernel, by decide +kernel, weights_one shareHead⟩

/-- A live activation of slot 2 that command 7 started. -/
def activating (paused : Bool) : State := { on with dev := { on.dev with act := some { cmd := 7, slot := 2, paused := paused } } }

theorem witness_FirmwareRows :
    (let fs := [(8, 8, 0x10000), (0x10, 4, 4096), (0x18, 4, 4096)]
     let s := hosted (asked 0 0 5 fs) 0 [1, 2, 3]
     let c := cmd 0 0 5 fs
     s.takeCmd 0 0 9 5 = some c ∧ c.fld 0x18 4 % 4096 = 0 ∧ c.dataLen % 4096 = 0 ∧ c.fld 0x18 4 + c.dataLen ≤ 33554432) ∧
    (∀ a ∈ [0, 1, 2], let fs := [(0x18, 1, a), (0x19, 1, 2)]
     (asked 0 0 6 fs).takeCmd 0 0 9 6 = some (cmd 0 0 6 fs) ∧ (cmd 0 0 6 fs).fld 0x18 1 = a ∧ (cmd 0 0 6 fs).fld 0x19 1 = 2) ∧
    2 ≠ on.dev.activeSlot ∧ on.slcUp = true ∧ on.dev.contained = false ∧
    (∀ p ∈ [true, false], (activating p).serving = true ∧ (activating p).slcUp = true ∧
      (activating p).dev.act.map (·.paused) = some p) := by decide +kernel

/-- The head of a staged image of 256 bytes: MAGIC, format, SVN 0, length. -/
def head : Bytes := [0x55, 0x46, 0x57, 0x49, 0xB0, 0, 0, 0] ++ List.replicate 8 0 ++ [0, 1, 0, 0]

/-- That image in the staging area, with the digest of its empty payload. -/
def staged : State :=
  ({ on with col := { on.col with staged := [0] } } : State).wr .colophon 0x20 (sha384 []) |>.wr .colophon 0 head

/-- A read inside written bytes does not depend on what was there. -/
theorem readN_same (m m' : Mem) (a : Nat) (l : Bytes) (o n : Nat) {b : Nat} (hb : b = a + o) (h : o + n ≤ l.length) :
    Mem.readN (Mem.writeN m a l) b n = Mem.readN (Mem.writeN m' a l) b n := by
  refine Mem.readN_congr _ _ _ _ (fun c h1 h2 => ?_)
  obtain ⟨i, rfl⟩ : ∃ i, c = a + i := ⟨c - a, by omega⟩
  have hi : i < l.length := by omega
  rw [Mem.read_writeN_in m a i l hi, Mem.read_writeN_in m' a i l hi]

theorem imgWhole_dev (s : State) (d : Dev) : ({ s with dev := d } : State).imgWhole = s.imgWhole := rfl

/-- Where the key register holds a key that verifies every signature, the Slipcase accepts the staged image. -/
theorem witness_FirmwareRows_image (k : Bytes) (hk : Config.fwKey 0 = some k) (hv : ∀ a b, Config.verify k a b = true) :
    staged.imgWhole = true ∧ staged.imgGood = true ∧ on.imgWhole = true ∧ on.imgGood = false ∧
    (({ staged with dev := (activating false).dev } : State).imgWhole = true ∧ (activating false).dev.act.isSome = true) := by
  have hg : staged.rd .colophon 0x20 48 = sha384 [] := by
    have h := State.rd_wr_out (({ on with col := { on.col with staged := [0] } } : State).wr .colophon 0x20 (sha384 [])) .colophon
      0 0x20 48 head (by decide)
    have h2 := State.rd_wr ({ on with col := { on.col with staged := [0] } } : State) .colophon 0x20 (sha384 [])
    have hn : (sha384 []).length = 48 := by decide +kernel
    rw [hn] at h2
    exact h.trans h2
  have hr : ∀ o n, o + n ≤ 20 → staged.rdN .colophon o n = (on.wr .colophon 0 head).rdN .colophon o n := by
    intro o n h
    have hl : head.length = 20 := by decide
    simp only [State.rdN, State.rd, staged, State.wr]
    exact congrArg ofLe (readN_same _ _ _ head o n (by rw [Nat.add_zero]) (by omega))
  have h1 : staged.img 0x10 4 = 256 := (hr 0x10 4 (by decide)).trans (by decide +kernel)
  have h2 : staged.img 0 4 = 0x49574655 := (hr 0 4 (by decide)).trans (by decide +kernel)
  have h3 : staged.img 4 1 = 0xB0 := (hr 4 1 (by decide)).trans (by decide +kernel)
  have h4 : staged.img 6 2 = 0 := (hr 6 2 (by decide)).trans (by decide +kernel)
  have h5 : staged.img 5 1 = 0 := (hr 5 1 (by decide)).trans (by decide +kernel)
  have h6 : staged.rd .colophon 0x100 (256 - 0x100) = [] := rfl
  have hw : staged.imgWhole = true := by unfold State.imgWhole; rw [h1]; rfl
  refine ⟨hw, ?_, by decide +kernel, by decide +kernel, (imgWhole_dev staged _).trans hw, rfl⟩
  · unfold State.imgGood
    simp only [h1, h2, h3, h4, h5, h6, hk, hv, hg, beq_self_eq_true, Bool.and_true]
    rfl

-- ---------------------------------------------------------------- folios, leaves, faults, copies, jobs

/-- A valid folio image of one signature that reads inbox 0 and has a code section of one instruction, with both
checksums filled in. -/
def folio0 : Bytes :=
  let dir := leBytes 2 1 ++ zeros 6 ++ leBytes 4 192 ++ leBytes 4 64 ++ leBytes 2 2 ++ zeros 6 ++ leBytes 4 256 ++ leBytes 4 4
  let sig := leBytes 2 0 ++ leBytes 2 1 ++ [4, 0, 0, 0] ++ leBytes 2 1 ++ leBytes 2 0 ++ leBytes 2 0xFFFF ++ leBytes 2 0xFFFF
    ++ zeros 32 ++ List.replicate 8 0xFF ++ zeros 4 ++ leBytes 2 1 ++ zeros 2
  let body := dir ++ zeros 32 ++ sig ++ zeros 4
  let head := leBytes 4 0x46474C55 ++ leBytes 2 1 ++ leBytes 2 128 ++ leBytes 4 260 ++ leBytes 2 2 ++ leBytes 2 1 ++ zeros 24
  let tail := leBytes 4 (crc32c body) ++ zeros 80
  head ++ leBytes 4 (crc32c (head ++ zeros 4 ++ tail)) ++ tail ++ body

/-- An empty Thumb image. -/
def thumb0 : Bytes := leBytes 4 0x494D4854 ++ leBytes 2 1 ++ leBytes 2 64 ++ zeros 56

/-- A run of instance 1 with one running signature whose source is a Trimmer scan of `n` groups. -/
def scanning (cutAt : Nat) : Run :=
  { inst := 1, sub := 0, slot := 0, image := image [(4, 1, 1), (0x18, 8, 1)], cmd := 7, sigs := [{ state := .running, cutAt := cutAt }] }

def loading : List (Nat × Nat × Nat) := [(8, 8, 0x10000), (0x10, 4, 260)]

theorem witness_FolioRows_load :
    (let s := hosted (asked 1 1 0x40 loading) 1 folio0
     let c := cmd 1 1 0x40 loading
     s.openCmd 1 1 9 0x40 = some c ∧ c.phase = .fetched ∧ s.dev.contained = false ∧ (s.start c.no).slotBusy c = false ∧
     256 ≤ c.dataLen ∧ c.dataLen ≤ 67108864 ∧
     (hosted ((asked 1 1 0x40 loading).start c.no) c.inst folio0).bufRead c c.dataAddr 260
       = .ok folio0 (hosted ((asked 1 1 0x40 loading).start c.no) c.inst folio0) ∧
     folioOk folio0 = true ∧ folioOk (zeros 260) = false) ∧
    ({ on with dev := { on.dev with contained := true } } : State).dev.contained = true :=
  ⟨⟨by decide +kernel, rfl, rfl, by decide +kernel, by decide +kernel, by decide +kernel,
    bufRead_hosted _ (cmd 1 1 0x40 loading) 260 folio0 (by decide +kernel) (by decide +kernel) (by decide +kernel) rfl
      (by decide +kernel), by decide +kernel, by decide +kernel⟩, rfl⟩

/-- Submit Folio of slot 0, which holds `folio0`, by instance 1 with group 0 and inbox 0. -/
def submitting : State :=
  { asked 1 1 0x41 [(0x10, 4, 4096)] with
    folios := [(folioKey 1 0, { image := folio0, frames := [] })], groups := [(0, { inst := 1, local_ := 0 })]
    inboxes := [(boxKey 1 0, { inst := 1, base := 0, len := 2 ^ 20 })] }

theorem witness_FolioRows_submit :
    (let s := asked 1 1 0x41 []
     s.openCmd 1 1 9 0x41 = some (cmd 1 1 0x41 []) ∧ s.runs = [] ∧ (s.start 7).loadAhead (cmd 1 1 0x41 []) = false ∧
     (Tab.find s.folios (folioKey 1 0)).isNone = true) ∧
    (let s := submitting
     let c := cmd 1 1 0x41 [(0x10, 4, 4096)]
     s.openCmd 1 1 9 0x41 = some c ∧ s.runs = [] ∧ (s.start 7).loadAhead c = false ∧
     (Tab.find s.folios (folioKey 1 (c.fld 0x18 1))).map (·.image) = some folio0 ∧ reportMin folio0 ≤ c.dataLen ∧
     (∀ j ∈ List.range (foSigs folio0), (s.start c.no).submitOk 1 folio0 j = true) ∧
     (match (s.start c.no).checkSources c folio0 (foSigs folio0 - c.prog) with
      | .ok b _ => b
      | .wait _ => false
      | .fail _ _ _ => false) = true) := by decide +kernel

/-- Cancel Folio of command 9 of queue 2, which is the Submit Folio of a run. -/
def cancelling : State :=
  { asked 1 1 0x42 [(0x18, 2, 2), (0x1A, 2, 9)] with
    cmds := [{ cmd 1 2 0x41 [] with no := 3, phase := .running }, cmd 1 1 0x42 [(0x18, 2, 2), (0x1A, 2, 9)]]
    runs := [(runKey 1 0, { scanning 0 with cmd := 3 })] }

theorem witness_FolioRows :
    (let s := asked 1 1 0x42 []
     s.takeCmd 1 1 9 0x42 = some (cmd 1 1 0x42 []) ∧
       (s.start 7).cmds.find? (fun y => y.inst == 1 && y.sq == 0 && y.cid == 0 && y.op == 0x41 && y.phase == .running) = none) ∧
    (let s := cancelling
     let c := cmd 1 1 0x42 [(0x18, 2, 2), (0x1A, 2, 9)]
     s.takeCmd 1 1 9 0x42 = some c ∧
     ((s.start c.no).cmds.find? (fun y => y.inst == 1 && y.sq == c.fld 0x18 2 && y.cid == c.fld 0x1A 2 && y.op == 0x41
        && y.phase == .running)).map (·.no) = some 3 ∧
     (s.runs.find? (fun p => p.2.cmd == 3)).map (·.2.finish) = some none) ∧
    (∀ n ∈ [1, 4096, 0, 4097], let fs := [(0x10, 4, 131072), (0x18, 2, n)]
      (asked 1 1 0x43 fs).openCmd 1 1 9 0x43 = some (cmd 1 1 0x43 fs) ∧ (cmd 1 1 0x43 fs).fld 0x18 2 = n ∧
        (n ≤ 4096 → 32 * n ≤ (cmd 1 1 0x43 fs).dataLen)) ∧
    (let fs := [(8, 8, 0x10000), (0x10, 4, 64), (0x18, 8, 0xFFC0)]
     let c := cmd 1 1 0x44 fs
     let s := { mapped with cmds := [c] }
     s.openCmd 1 1 9 0x44 = some c ∧
     (match (s.start c.no).devRead (.cmd c.no) 1 (c.fld 0x18 8) c.dataLen with
      | .ok b u => isOk (u.bufWrite c c.dataAddr b)
      | .wait _ => false
      | .fail _ _ _ => false) = true) := by decide +kernel

/-- An empty Thumb image that clears its banks first. -/
def thumbC : Bytes := leBytes 4 0x494D4854 ++ leBytes 2 1 ++ leBytes 2 64 ++ zeros 4 ++ [1] ++ zeros 51

/-- May a load of array 0 write the banks of `mask` for instance 1 at once? -/
def begins (s : State) (mask : Nat) : Bool := match s.beginWrites [0] 1 mask false with | .ok _ => true | .error _ => false

def thumbing : List (Nat × Nat × Nat) := [(8, 8, 0x10000), (0x10, 4, 64), (0x18, 2, 1), (0x20, 8, 1)]
def thumbS : State := { shared with cmds := [cmd 1 1 0x45 thumbing] }

theorem witness_FolioRows_thumb :
    (hosted thumbS 1 thumb0).openCmd 1 1 9 0x45 = some (cmd 1 1 0x45 thumbing) ∧
    (hosted (thumbS.start 7) 1 thumb0).bufRead (cmd 1 1 0x45 thumbing) (cmd 1 1 0x45 thumbing).dataAddr 64
      = .ok thumb0 (hosted (thumbS.start 7) 1 thumb0) ∧
    thumbImageOk thumb0 = true ∧ thumbRecs thumb0 = [] ∧ thumbImageOk (zeros 64) = false ∧
    (List.range 16).filter (bitAt ((cmd 1 1 0x45 thumbing).fld 0x18 2)) = [0] ∧
    (hosted (thumbS.start 7) 1 thumb0).thumbDenied 1 0 1 = false ∧ bitAt (fld thumb0 0xC 4) 0 = false ∧
    begins (hosted (thumbS.start 7) 1 thumb0) 0 = true ∧
    (thumbImageOk thumbC = true ∧ bitAt (fld thumbC 0xC 4) 0 = true ∧
      begins { thumbS with banks := [(0, { owner := 1, retained := true })] } 1 = false) :=
  ⟨by decide +kernel, bufRead_hosted _ (cmd 1 1 0x45 thumbing) 64 thumb0 (by decide +kernel) (by decide +kernel)
      (by decide +kernel) rfl (by decide +kernel), by decide +kernel, by decide +kernel, by decide +kernel, by decide +kernel,
    by decide +kernel, by decide +kernel, by decide +kernel, by decide +kernel⟩

def planKind (p : Plan) : Nat := match p with | .leaf _ _ => 1 | .drained _ => 2 | .none_ _ => 3

/-- `on` with the run `scanning cutAt` of instance 1. -/
def cutting (cutAt : Nat) : State := { on with runs := [(runKey 1 0, scanning cutAt)] }

theorem witness_LeavesBatchesAndReports :
    on.running = true ∧
    (∀ k ∈ [(0, 1), (1, 2)], (((cutting k.1).settle (runKey 1 0)).run? (runKey 1 0)).any (fun r =>
      r.finish.isNone && r.stop == 0 && !r.cancelled && decide (0 < r.sigs.length) && (r.sig 0).state == .running
      && !(r.sig 0).drained && !(r.sig 0).building && (sigInfo r.image 0).source == 1
      && planKind (((cutting k.1).settle (runKey 1 0)).planScan r (sigInfo r.image 0) (r.sig 0)) == k.2) = true ∧
      ((cutting k.1).settle (runKey 1 0)).running = true ∧
      ((cutting k.1).spawnsOf 1).length < (cutting k.1).slotsFree 1) ∧
    (let s : State := { on with leaves := [(leafId 1 0 0 0, { leaf0 with state := .committing })] }
     (s.leaf? (leafId 1 0 0 0)).map (·.state) = some .committing ∧ leafId 1 0 0 0 < 2 ^ 64) ∧
    (let c := { cmd 1 1 0x41 [(8, 8, 0x10000), (0x10, 4, 4096)] with phase := Phase.running }
     let s : State := { on with cmds := [c], runs := [(runKey 1 0, { scanning 1 with
        sigs := [{ state := .finished }], start := some 0, finish := some 1 })] }
     let t := s.settle (runKey 1 0)
     (t.run? (runKey 1 0)).any (fun r => r.finish.isSome && !r.awaitsFault && r.cmd == c.no
        && (t.devWrites (.cmd c.no) 1 r.endRecords).1.any (fun u => isOk (u.bufWrite c c.dataAddr (r.report c.dataLen)))) = true ∧
     (t.cmds.find? (fun c => c.no == 7)).isSome = true) ∧
    (on.inst? 1).isSome = true := by decide +kernel

theorem witness_DetectedFaults :
    on.running = true ∧ on.serving = true ∧
    (let s : State := { on with eng := [(0, { faults := [{ mech := 1, phys := 0, leaf := leafId 1 0 0 0, last := false, injected := false, sag := false }] })] }
     ((s.engOf 0).faults.head?).any (fun f => !f.injected && !f.sag && !f.last) = true) ∧ on.armed 5 255 = false ∧
    (let s := standing regs0 (word (.add 0 31 30 29))
     s.engRun 0 = some regs0 ∧ s.leaf? regs0.leaf = some leaf0 ∧ s.waitsOutside 0 regs0 leaf0 = false) := by
  decide +kernel

/-- A copy descriptor of `n` bytes between the QUIRE spaces, and one of length 0, which is ill-formed. -/
def desc (n : Nat) : Bytes := zeros 24 ++ leBytes 4 n ++ [64, 64, 0x0A, 0] ++ zeros 32

/-- `on` with copy channel 5 of instance 1 in the given state. -/
def copying (x : CopyChan) : State := { on with copies := [(5, x)] }

def copyCmd : List (Nat × Nat × Nat) := [(0x20, 8, 0x10000)]
def copyS : State := { asked 1 1 0x46 copyCmd with copies := [(5, { inst := 1, local_ := 0 })] }

theorem witness_CopyRows :
    (let s := asked 1 1 0x46 copyCmd
     s.openCmd 1 1 9 0x46 = some (cmd 1 1 0x46 copyCmd) ∧ (s.start 7).copyOf 1 0 = none) ∧
    (let c := cmd 1 1 0x46 copyCmd
     copyS.openCmd 1 1 9 0x46 = some c ∧ (copyS.start 7).copyOf 1 (c.fld 0x18 1) = some 5 ∧
     ((copyS.start 7).copyChan 5).map (·.state) = some 0 ∧ bitAt ((copyS.start 7).reg 0x110) 5 = false ∧
     c.fld 0x20 8 % 64 = 0 ∧ c.fld 0x20 8 ≠ 0 ∧ isOk ((copyS.start 7).bufRead c (c.fld 0x20 8) 64) = true ∧
     (copyDesc (desc 64)).ok = true ∧ (copyDesc (desc 0)).ok = false) ∧
    (let s := copying { inst := 1, local_ := 0, state := 1, desc := some (desc 64), pos := 64 }
     s.running = true ∧ (s.copyChan 5).isSome = true ∧ (copyDesc (desc 64)).len ≤ 64 ∧
     (s.copyBack 5 { inst := 1, local_ := 0, state := 1, desc := some (desc 64), pos := 64 } (copyDesc (desc 64)) 0).1.isSome = true) ∧
    (let s := (copying { inst := 1, local_ := 0, state := 1, next := 0x10000 }).wr (.host 1) 0x10000 (desc 64)
     (s.copyChan 5).map (fun x => (x.state, x.desc, x.fault, x.done)) = some (1, none, 0, false) ∧
     (match s.descRead 5 1 0x10000 64 with
      | .ok b _ => (copyDesc b).ok
      | .wait _ => false
      | .fail _ _ _ => false) = true) ∧
    (∀ n ∈ [1, 2], let s := (copying { inst := 1, local_ := 0, state := n }).hostStore 1 { cells := [(0x10000, 1)] }
     s.serving = true ∧ (s.inst? 1).map (fun y => (y.quiescing, y.quiesced)) = some (false, false) ∧ s.copyOf 1 0 = some 5 ∧
     (s.copyChan 5).map (·.state) = some n) := by decide +kernel

/-- A Cipher ECB or CTR job in two entries: mode 1 or 2, a 128-bit key, FIRST and LAST, 16 bytes. -/
def cipherCmd (mode : Nat) : Cmd :=
  { no := 7, inst := 1, sq := 1, cid := 9, op := 0x47, flags := 0
    entries := [entry [(8, 8, 0x10000), (0x10, 4, 64), (0x19, 1, mode), (0x1B, 1, 3), (0x28, 8, 16)], entry []] }

theorem witness_CipherDigestAndPressRows_cipher :
    (∀ m ∈ [2, 9], let s : State := { on with cmds := [cipherCmd m] }
      s.openCmd 1 1 9 0x47 = some (cipherCmd m) ∧ (cipherCmd m).prog ≠ 1 ∧
      ((s.start 7).cmds.any (fun y => y.inst == 1 && y.op == 0x47 && y.open_ && decide (y.no < 7))) = false) ∧
    (cipherCmd 9).cFormOk = false ∧
    (let c := cipherCmd 2
     let p := (({ on with cmds := [c] } : State).start 7).cryPage 1
     c.cFormOk = true ∧ p.admits c = true ∧ c.cOut ≤ c.dataLen ∧ c.cAuto = false ∧ (p.message c c.cIv).spent c.cLen = false ∧
     c.cMode ≠ 3 ∧ c.cKeep = false) := by decide +kernel

def pressCmd (op : Nat) (fs : List (Nat × Nat × Nat)) : Cmd := cmd 1 1 0x49 ((0x18, 1, op) :: fs)

theorem witness_CipherDigestAndPressRows :
    (let fs := [(0x10, 4, 64), (0x18, 1, 1), (0x19, 1, 3)]
     (asked 1 1 0x48 fs).takeCmd 1 1 9 0x48 = some (cmd 1 1 0x48 fs) ∧ (cmd 1 1 0x48 fs).dOk = true) ∧
    ((asked 1 1 0x48 []).takeCmd 1 1 9 0x48 = some (cmd 1 1 0x48 []) ∧ (cmd 1 1 0x48 []).dOk = false) ∧
    (let c := pressCmd 0 [(0x19, 1, 7), (0x1B, 1, 3)]
     let s : State := { on with cmds := [c] }
     s.takePress 1 1 9 0 = some c ∧ c.compressLegal s = true ∧ s.col.retPress.length < 32) ∧
    (let c := pressCmd 1 [(0x19, 1, 7), (0x1B, 1, 3)]
     let s : State := { on with cmds := [c] }
     s.takePress 1 1 9 1 = some c ∧ c.decompressLegal = true) ∧
    (let c := pressCmd 2 [(0x19, 1, 3), (0x28, 4, 64)]
     let s : State := { mapped with cmds := [c] }
     s.takePress 1 1 9 2 = some c ∧ c.prsFmt = 3 ∧ c.fld 0x28 4 ≤ 1048576 ∧
     (s.press.dicts.filter (fun p => p.1 / 2 ^ 32 == 1)).length < 256 ∧
     isOk (s.devCheck (.cmd c.no) 1 (c.fld 0x20 8) (c.fld 0x28 4) false) = true) ∧
    (let c := { cipherCmd 2 with phase := .running, prog := 1 }
     (({ on with cmds := [c] } : State).cmds.find? (fun y => y.inst == 1 && y.op == 0x47 && y.phase == .running && y.prog == 1))
       = some c) ∧
    ((List.range 16).find? (fun u => !Tab.has on.cry.units u) = some 0) ∧
    (let c := { cmd 1 1 0x48 [(0x10, 4, 64), (0x18, 1, 1), (0x19, 1, 3)] with phase := .running }
     let s : State := { on with cmds := [c], cry := { on.cry with units := [(0, 7)] } }
     Tab.find s.cry.units 0 = some 7 ∧ s.cmds.find? (fun c => c.no == 7) = some c) ∧
    (let s : State := { on with press := { on.press with waiting := [{ cmd := some 7, inst := 1, fmt := 7 }] } }
     s.paused = false ∧ s.freeUnit = some 0 ∧ s.nextJob.isSome = true) ∧
    (let c := { pressCmd 0 [(0x19, 1, 7), (0x1B, 1, 3)] with phase := .running }
     let j : PressJob := { cmd := some 7, inst := 1, fmt := 7 }
     let s : State := { on with cmds := [c], press := { on.press with units := [(0, j), (1, { j with cmd := none })] } }
     Tab.find s.press.units 0 = some j ∧ (Tab.find s.press.units 1).map (·.cmd) = some none ∧
     s.cmds.find? (fun c => c.no == 7) = some c ∧ s.streamBusy c 0 = false) := by decide +kernel

-- ---------------------------------------------------------------- memory, quires, windows

/-- `mapped` with a lower-tier copy of its page. -/
def copied : State :=
  { mapped with pager := { mapped.pager with pages := [(2 ^ 48, { state := .t0, loc := 2097152, copy := true, copyTier := 1 })] } }

theorem witness_PagerRowsComplete :
    copied.running = true ∧ (copied.inst? 1).isSome = true ∧ copied.evicting 1 = false ∧
    copied.quotaFree 1 < copied.regField offPgrCfg 15 8 ∧
    (let r := copied.sweepVictim 1 (2 * (copied.framesOf 1).length + 1)
     r.1 = some 1 ∧ r.2.pagesIn 1 ≠ []) ∧
    (let s : State := { mapped with pager := { mapped.pager with pages := [] } }
     let r := s.sweepVictim 1 (2 * (s.framesOf 1).length + 1)
     s.evicting 1 = false ∧ s.quotaFree 1 < s.regField offPgrCfg 15 8 ∧ r.1 = some 1 ∧ r.2.pagesIn 1 = []) ∧
    (let s : State := { on with pager := { on.pager with frames := [(262143, { use := 4 })] } }
     (s.frame? 262143).map (·.use) = some 4 ∧ s.hbm.retiring = []) ∧
    on.dev.cold = false ∧ (3#64).getLsbD 0 = true ∧
    (let s : State := { mapped with regs := [(offWalkAddr, 2 ^ 48), (offWalkCtrl, 1)] }
     bitAt (s.reg offWalkCtrl) 0 = true ∧ bits (s.reg offWalkAddr) 54 48 = 1 ∧ s.tdiLocked 1 = false) := by decide +kernel

theorem witness_QuireAndThumbRows :
    on.serving = true ∧ on.rsetOpen 127 = true ∧
    (let w := (0x807007FF00000000 : Word).toNat &&& 0x807007FF000007FF
     bits w 10 0 ≤ bits w 42 32 ∧ bits (w - 0x20000000000) 42 32 ≤ 0x5FF ∧
     ∀ j, j < 128 → j ≠ 127 → ∀ m, m < 8 → rsetOverlap (w - 0x20000000000) (on.reg (offRset j m)) = false) ∧
    bits ((0x8000000100000002 : Word).toNat &&& 0x807007FF000007FF) 42 32 <
      bits ((0x8000000100000002 : Word).toNat &&& 0x807007FF000007FF) 10 0 ∧
    on.dev.cold = false ∧ on.paused = false ∧ (0x51#64).getLsbD 0 = true ∧ bits (0x51#64).toNat 5 4 < 2 ∧
    (on.quire 15).march.busy = false ∧ (on.quire 15).march.wait = false ∧
    (let s := on.updQuire 15 (fun x => { x with march := { x.march with wait := true, target := 1 } })
     (s.quire 15).march.wait = true ∧ s.quireBusy 15 = false ∧ (s.quire 15).march.target = 1) ∧
    (let s := on.updQuire 15 (fun x => { x with march := { x.march with run := some (0, 0, 0, false) } })
     (s.quire 15).march.run = some (0, 0, 0, false)) ∧
    (let s : State := { on with banks := [(15 * 64 + 63, { owner := 1, waking := true })] }
     Tab.find s.banks (15 * 64 + 63) = some { owner := 1, waking := true } ∧ s.regField offThxIdle 15 0 ≠ 0 ∧
     s.heldAwake 15 63 = false ∧ s.runs = []) := by decide +kernel

theorem witness_MemoryControllerRows :
    (∀ n ∈ [1, 2], let s : State := { on with chans := [(255, { state := n, owedBase := 8184, refreshed := [(127, 8191), (126, 8192)] })] }
     (s.chan 255).state = n ∧ Tab.get (s.chan 255).refreshed 127 0 = 8191 ∧ 8191 < s.owed (s.chan 255) + 8 ∧
     Tab.get (s.chan 255).refreshed 126 0 = 8192 ∧ s.owed (s.chan 255) + 8 ≤ 8192 ∧ 8191 / 8192 < (8191 + 1) / 8192 ∧
     (s.chan 255).scrub + 1 ≠ 33554432 ∧ s.upsets = [] ∧ (Tab.get s.trims 255 {}).leaves = [] ∧ s.usedIn 255 = []) ∧
    (∀ n ∈ [1, 2], let s : State := { on with ports := [(1, { state := n })] }
     (s.port 1).state = n) := by decide +kernel

/-- `on` with window 15 bound to instance 1, array 0 and bank 63, and enabled. -/
def looking : State := { on with regs := [(offWinCfg 15, 2 ^ 63 + 2 ^ 40 + 34), (offWinMask 15, 2 ^ 63)] }

/-- `mapped` with the HBM window over its page. -/
def windowed : State := { mapped with regs := [(offHbmw, 2 ^ 63 + 2 ^ 56)], hdm := [(16, { size := 2097152, committed := true })] }

def mbxWith (status : Nat) : State := on.updMbx 1 (fun m => { m with status := status })

theorem witness_ApertureAndMailboxRows :
    looking.serving = true ∧ bitAt (looking.reg (offWinCfg 15)) 63 = true ∧ bits (looking.reg (offWinCfg 15)) 35 32 = 0 ∧
    looking.col.mapQuires.contains 0 = false ∧ (looking.apr.reads.filter (fun p => !p.2.expired)).length < 512 ∧
    (looking.thumbWake 0 (looking.reg (offWinMask 15))).isNone = true ∧ bitAt (on.reg (offWinCfg 15)) 63 = false ∧
    (0x7FFFFFFFFFFFFFFF#64).getLsbD 63 = false ∧
    (let r : ApRead := { win := 15, array := 0, key := 0, mask := 2 ^ 63, page := 7, expired := false }
     let s : State := { on with apr := { on.apr with reads := [(3, r)] } }
     Tab.find s.apr.reads 3 = some r ∧ (s.thumbWake r.array r.mask).isNone = true ∧ s.thumbTurn r.array .aperture = true ∧
     s.serving = true ∧ (lost s).col.mapQuires.contains r.array = true) ∧
    bitAt (on.reg offHbmw) 63 = false ∧
    (windowed.serving = true ∧ bitAt (windowed.reg offHbmw) 63 = true ∧ bits (windowed.reg offHbmw) 62 56 = 1 ∧
     bits (windowed.reg offHbmw) 47 21 = 0 ∧ Tab.find windowed.hdm 16 = some { size := 2097152, committed := true } ∧
     (windowed.range? 1 65528).any (fun r => !r.direct && r.home == 0) = true ∧ 65528 + 8 ≤ 2097152 ∧
     isOk (windowed.devRead .window 1 65528 8) = true ∧ isOk (windowed.devWrite .window 1 65528 (zeros 8)) = true) ∧
    (∀ up ∈ [true, false], ((mbxWith 0).inst? 1).map (fun x => x.mbx.refuses up 0) = some false ∧
      ((mbxWith 3).inst? 1).map (fun x => x.mbx.refuses up 0) = some true) ∧
    (∀ up ∈ [true, false], ((mbxWith 12).inst? 1).map (fun x => bitAt x.mbx.status (mbxWait up)) = some true) := by decide +kernel

-- ---------------------------------------------------------------- the Slipcase

def openSession : Session := { secured := true, mutualKey := some [] }

/-- `on` with one secured session, an owner whose key hashes to `h`, and SVN 64 in use. -/
def ownedBy (h : Bytes) : State :=
  { on with slc := { on.slc with sessions := 1, activeSvn := 64 }
            col := { on.col with domain := some { domain := zeros 16, rekeyHours := 1, ownerHash := h } } }

theorem isOwner_of (s : State) (x : Session) (d : DomainPolicy) (k : Bytes) (h1 : s.col.domain = some d)
    (h2 : x.mutualKey = some k) (h3 : d.ownerHash = sha384 k) : s.isOwner x = true := by
  unfold State.isOwner
  rw [h1, h2]
  simp [h3]

theorem ownedBy_isOwner (h : Bytes) (hh : h = sha384 []) : (ownedBy h).isOwner openSession = true :=
  isOwner_of (ownedBy h) openSession { domain := zeros 16, rekeyHours := 1, ownerHash := h } [] rfl rfl hh

theorem witness_SlipcaseLifeRows :
    on.running = true ∧ on.slcUp = true ∧ on.dev.act = none ∧
    (let s : State := { on with slc := { on.slc with sessions := 1 } }
     s.secured openSession = true ∧ s.col.domain = none) ∧
    (∀ h, h = sha384 [] → (ownedBy h).isOwner openSession = true) ∧ ((ownedBy []).secured openSession = true ∧
     (ownedBy []).col.fuseSvn ≤ 64 ∧ 64 ≤ (ownedBy []).slc.activeSvn) ∧
    (let s : State := { on with xts := [(0, []), (1, [])] }
     ∀ p, p ∈ s.insts → Tab.has s.xts p.1 = true) ∧
    (on.insts.find? (fun p => !Tab.has on.xts p.1)).isSome = true ∧
    (let s : State := { on with slc := { on.slc with state := 2 } }
     s.running = true ∧ s.slc.state = 2 ∧ s.assocs = []) ∧ on.dev.cold = false :=
  ⟨by decide +kernel, by decide +kernel, by decide +kernel, by decide +kernel,
    ownedBy_isOwner, by decide +kernel⟩

theorem witness_SlipcaseLifeRows_fuse : ∃ t, exec (.advanceFuseSvn openSession 64) (ownedBy []) = .next t := ⟨_, rfl⟩

/-- `on` with instance 1 holding its admin queues only, and its TDI in a state. -/
def tdiIn (n : Nat) : State :=
  { on with insts := [(1, { sqs := [(0, { depth := 4, base := 0x1000, cq := 0 })], cqs := [(0, { depth := 4, base := 0x2000 })] })]
            slc := { on.slc with sessions := 1, tdis := if n = 0 then [] else [(1, { state := n })], ide := [(35, { key := [] })] } }

theorem witness_SpdmIdeAndTdispRows :
    (tdiIn 0).running = true ∧ (tdiIn 0).slcUp = true ∧ (tdiIn 0).secured openSession = true ∧
    Tab.find (tdiIn 0).slc.ide (8 * 4 + 1 * 2 + 1) = some { key := [] } ∧
    (∀ n ∈ [0, 1], (tdiIn n).tdi 1 = n) ∧
    ((tdiIn 0).inst? 1).any (fun x => x.sqs.all (fun p => p.1 == 0) && x.cqs.all (fun p => p.1 == 0)) = true ∧
    (tdiIn 1).tdiLocked 1 = true ∧
    (let s : State := { tdiIn 0 with slc := { (tdiIn 0).slc with state := 2 } }
     s.running = true ∧ s.slc.state = 2 ∧ (s.inst? 1).isSome = true) := by decide +kernel

-- ---------------------------------------------------------------- the fabric

def path0 : Path := { lane := 0, family := 6, ip := 5, rate := 25000 * 65536 }

/-- An open association of instance 1 in inbox 0, tag 0x1234, over port 0. -/
def assoc0 : Assoc :=
  { inst := 1, state := 2, tag := 0x1234, addr := 5, care := 2 ^ 128 - 1, paths := [path0]
    rx := [{ epoch := 0, key := zeros 32, salt := zeros 4 }], txKey := zeros 32, txSalt := zeros 4 }

/-- `mapped` with port 0 up, with MAC 1 and IPv6 address 2, and the association in a state at index 65535. -/
def net (x : Assoc) : State :=
  { mapped with
    pager := { mapped.pager with ranges := [{ inst := 1, base := 0, len := 2097152, write := true }] }
    regs := [(portAddrOff 0 0, 1), (portAddrOff 0 8, 2)]
    fab := { on.fab with ports := [(0, { state := 2, lanes := 1 })] }
    assocs := [(65535, x)], inboxes := [(boxKey 1 0, { inst := 1, base := 0, len := 2097152 })] }

/-- An Ahnig datagram to port 0 from the peer. -/
def datagram (b : Bytes) : Frame :=
  { port := 0, size := 1000, dstMac := 1, etherType := 0x86DD, ipFamily := 6, ipProto := 17, srcAddr := 5, udpPort := 0xBA10
    udpLen := b.length, payload := b }

/-- A sealed frame of a type with an empty payload. -/
def sealedFrame (typ : Nat) : Frame :=
  let h := ahnigHeader typ 0 0 0x1234 1 0 0 0
  datagram (h ++ gcmSeal (zeros 32) (zeros 4 ++ leBytes 8 1) h [])

/-- An ESTABLISH frame of a kind. -/
def estFrame (kind : Nat) : Frame := datagram (ahnigHeader 15 0 0 0 0 0 0 512 ++ leBytes 1 kind ++ zeros 511)

def rxKind (x : Rx) : Nat :=
  match x with
  | .mac => 100 | .slow => 101 | .other => 102 | .stranger => 103 | .authFail => 104 | .replay => 105
  | .establish p => 200 + fld p 0 1 | .good _ t _ _ _ _ _ _ => t

def assocCmd (op : Nat) (fs : List (Nat × Nat × Nat)) : State :=
  { net assoc0 with cmds := [cmd 1 1 0x4A ((0x18, 1, op) :: fs)], cmdNo := 8 }

theorem witness_AssociationsAndFrames_bind :
    (let fs := [(0x1A, 2, 4095), (0x28, 8, 0), (0x30, 8, 1048576)]
     let c := cmd 1 1 0x4A ((0x18, 1, 1) :: fs)
     (assocCmd 1 fs).takeAssocCmd 1 1 9 1 = some c ∧ c.fld 0x18 1 = 1 ∧ c.fld 0x1A 2 < 4096 ∧
     Tab.has (net assoc0).inboxes (boxKey 1 4095) = false ∧ (assocCmd 1 fs).boxRegionOk 1 0 1048576 = true) ∧
    (let c := cmd 1 1 0x4A [(0x18, 1, 2)]
     let s : State := { assocCmd 2 [] with assocs := [] }
     s.takeAssocCmd 1 1 9 2 = some c ∧ Tab.has s.inboxes (boxKey 1 (c.fld 0x1A 2)) = true ∧ s.feeders (boxKey 1 0) = [] ∧
       s.inboxBusy 1 0 = false) ∧
    (∀ op ∈ [4, 5], let fs := [(0x20, 2, 65535)]
     (assocCmd op fs).takeAssocCmd 1 1 9 op = some (cmd 1 1 0x4A ((0x18, 1, op) :: fs)) ∧
     (assocCmd op fs).assoc? ((cmd 1 1 0x4A ((0x18, 1, op) :: fs)).fld 0x20 2) = some assoc0) ∧
    (assoc0.inst = 1 ∧ assoc0.state = 2 ∧ assoc0.est = none ∧ assoc0.txNext = none) := by decide +kernel

def opening : List (Nat × Nat × Nat) := [(0x18, 1, 3), (0x22, 1, 1), (8, 8, 0x10000), (0x10, 4, 32)]
def pathRecord : Bytes := [0, 6] ++ zeros 21 ++ [5] ++ zeros 8
def openS (st : Nat) : State :=
  { net assoc0 with
    cmds := [cmd 1 1 0x4A opening], cmdNo := 8, assocs := [], slc := { on.slc with state := st }
    insts := [(1, { alloc := { assocs := 1 } })]
    col := { on.col with domain := some { domain := zeros 16, rekeyHours := 1, ownerHash := [] } } }

theorem witness_AssociationsAndFrames_open :
    let c := cmd 1 1 0x4A opening
    let u := hosted (openS 1) 1 pathRecord
    ((openS 2).takeAssocCmd 1 1 9 3 = some c ∧ (openS 2).slcUp = false) ∧
    u.takeAssocCmd 1 1 9 3 = some c ∧ u.slcUp = true ∧ u.col.domain.isSome = true ∧ c.fld 0x22 1 = 1 ∧ c.fld 0x1A 2 = 0 ∧
    c.fld 0x1C 2 = 0 ∧ c.fld 0x1E 2 = 0 ∧ c.dataLen = 32 ∧ Tab.has u.inboxes (boxKey 1 0) = true ∧
    u.bufRead c c.dataAddr 32 = .ok pathRecord u ∧ (groups 32 1 pathRecord).map u.pathOfRecord = [path0].map some ∧
    ((u.assocs.filter (fun p => p.2.inst == 1)).length < 1 ∧ u.boxRoom (boxKey 1 0) 1 = true) :=
  ⟨by decide +kernel, by decide +kernel, by decide +kernel, by decide +kernel, by decide +kernel, by decide +kernel,
    by decide +kernel, by decide +kernel, by decide +kernel, by decide +kernel,
    bufRead_hosted (openS 1) (cmd 1 1 0x4A opening) 32 pathRecord (by decide +kernel) (by decide +kernel) (by decide +kernel) rfl
      (by decide +kernel), by decide +kernel, by decide +kernel⟩

theorem sealed_length (h : Bytes) : (sealTag (zeros 32) (zeros 4 ++ leBytes 8 1) h []).length = 16 := by
  simp only [sealTag, xorB, List.length_zipWith]
  rw [show (beBytes 16 _).length = 16 by simp [beBytes, length_leBytes]]
  rw [show (aesEnc (zeros 32) (zeros 4 ++ leBytes 8 1 ++ beBytes 4 1)).length = 16 by decide +kernel]
  rfl

/-- A sealed frame under a key that the receiver holds is good, or a replay when its NONCE_SEQ has been seen. -/
theorem ahnig_sealed (s : State) (t : Nat) (x : Assoc) (k : RxKey) (ht : 1 ≤ t ∧ t ≤ 7)
    (hm : s.matchAssoc 0x1234 5 = some (65535, x)) (hx : x.rx = [k]) (hk : k.epoch = 0) (hy : k.key = zeros 32)
    (hz : k.salt = zeros 4) :
    s.ahnig (sealedFrame t) = if inRanges k.seen 1 then .replay else .good 65535 t 0 0 1 0 0 [] := by
  obtain ⟨H, hH⟩ : ∃ H, H = ahnigHeader t 0 0 0x1234 1 0 0 0 := ⟨_, rfl⟩
  have h7 : ∀ t ∈ [1, 2, 3, 4, 5, 6, 7], (ahnigHeader t 0 0 0x1234 1 0 0 0).length = 32 ∧
      fld (ahnigHeader t 0 0 0x1234 1 0 0 0) 0 1 = 16 + t ∧ fld (ahnigHeader t 0 0 0x1234 1 0 0 0) 1 1 = 0 ∧
      fld (ahnigHeader t 0 0 0x1234 1 0 0 0) 2 2 = 0 ∧ fld (ahnigHeader t 0 0 0x1234 1 0 0 0) 4 4 = 0x1234 ∧
      fld (ahnigHeader t 0 0 0x1234 1 0 0 0) 8 8 = 1 ∧ fld (ahnigHeader t 0 0 0x1234 1 0 0 0) 0x10 8 = 0 ∧
      fld (ahnigHeader t 0 0 0x1234 1 0 0 0) 0x18 4 = 0 ∧ fld (ahnigHeader t 0 0 0x1234 1 0 0 0) 0x1C 2 = 0 ∧
      fld (ahnigHeader t 0 0 0x1234 1 0 0 0) 0x1E 2 = 0 := by decide +kernel
  have h1 := h7 t (by simp; omega)
  rw [← hH] at h1
  obtain ⟨hl, f0, f1, f2, f4, f8, f10, f18, f1C, f1E⟩ := h1
  have hT := sealed_length H
  have hb : (sealedFrame t).payload = H ++ sealTag (zeros 32) (zeros 4 ++ leBytes 8 1) H [] := by
    rw [hH]; rfl
  have hu : (sealedFrame t).udpLen = 48 := by
    show (sealedFrame t).payload.length = 48
    rw [hb, List.length_append, hl, hT]
  have hsrc : (sealedFrame t).srcAddr.toNat = 5 := rfl
  have hn : (16 + t) % 16 = t ∧ (16 + t) / 16 = 1 ∧ t ≠ 15 := by omega
  unfold State.ahnig
  rw [hb, hu, hsrc]
  dsimp only
  rw [List.take_left' hl, List.drop_left' hl, List.length_append, hl, hT, f0, f1, f2, f4, f8, f10, f18, f1C, f1E,
    hn.1, hn.2.1, hm]
  have ho : gcmOpen k.key (k.salt ++ leBytes 8 1) H [] (sealTag (zeros 32) (zeros 4 ++ leBytes 8 1) H []) = some [] := by
    rw [hy, hz, gcmOpen, if_pos rfl]; rfl
  simp [ht.1, ht.2, hn.2.2, hx, hk, List.drop_left' hl, ho]

theorem net_classify (x : Assoc) (t : Nat) :
    (net x).classify (sealedFrame t) = (net x).ahnig (sealedFrame t) := by
  have hr : (net x).portMac 0 = 1 := by
    have h0 : (net x).regs = [(portAddrOff 0 0, 1), (portAddrOff 0 8, 2)] := rfl
    simp [State.portMac, State.reg, h0, Tab.find]
  have h : (net x).macAccepts (sealedFrame t) = true := by
    simp [State.macAccepts, State.macAdmits, sealedFrame, datagram, hr]
  unfold State.classify
  rw [h]
  rfl

theorem witness_AssociationsAndFrames_sealed :
    (∀ t, 1 ≤ t → t ≤ 7 → (net assoc0).hears (sealedFrame t) = true ∧
      (net assoc0).classify (sealedFrame t) = .good 65535 t 0 0 1 0 0 []) ∧
    (net { assoc0 with rx := [{ epoch := 0, key := zeros 32, salt := zeros 4, seen := [(1, 1)] }] }).classify (sealedFrame 1)
      = .replay ∧
    (net { assoc0 with state := 3, closing := true }).classify (sealedFrame 7) = .good 65535 7 0 0 1 0 0 [] :=
  ⟨fun t h1 h2 => ⟨by show (net assoc0).hears (datagram []) = true; decide +kernel, by
      rw [net_classify, ahnig_sealed _ t assoc0 { epoch := 0, key := zeros 32, salt := zeros 4 } ⟨h1, h2⟩
        (by decide +kernel) rfl rfl rfl rfl]
      rfl⟩,
    by rw [net_classify, ahnig_sealed _ 1 { assoc0 with rx := [{ epoch := 0, key := zeros 32, salt := zeros 4, seen := [(1, 1)] }] }
      { epoch := 0, key := zeros 32, salt := zeros 4, seen := [(1, 1)] } (by decide) (by decide +kernel) rfl rfl rfl rfl]; rfl,
    by rw [net_classify, ahnig_sealed _ 7 { assoc0 with state := 3, closing := true }
      { epoch := 0, key := zeros 32, salt := zeros 4 } (by decide) (by decide +kernel) rfl rfl rfl rfl]; rfl⟩

/-- A frame without a tag worth checking: its association holds no key. -/
def bareFrame : Frame := datagram (ahnigHeader 1 0 0 0x1234 1 0 0 0 ++ zeros 16)

theorem witness_AssociationsAndFrames :
    (net assoc0).hears (estFrame 1) = true ∧
    (∀ k ∈ [1, 2, 3, 4], rxKind ((net assoc0).classify (estFrame k)) = 200 + k) ∧
    rxKind ((net assoc0).classify { bareFrame with etherType := 0x0806 }) = 101 ∧
    rxKind ((net assoc0).classify { bareFrame with etherType := 0x8000, ipFamily := 0 }) = 102 ∧
    rxKind ((net { assoc0 with rx := [] }).classify bareFrame) = 104 ∧
    (∀ n ∈ [16383, 16384], (windowTake 5 1000000000 16384 (5, n)).1 = decide (n < 16384)) ∧
    (∀ n ∈ [32767, 32768], (windowTake 5 1000000000 32768 (5, n)).1 = decide (n < 32768)) ∧
    (estFrame 1).payload.length = 32 + 512 ∧
    rxKind ((net assoc0).classify { bareFrame with fcsOk := false }) = 100 ∧
    rxKind ((net { assoc0 with tag := 1 }).classify bareFrame) = 103 := by decide +kernel

/-- `assoc0` with credit and one message of 10 bytes to send. -/
def sender : Assoc := { assoc0 with credit := 65536, out := [{ no := 0, off := 0, bytes := zeros 10, eos := true }], outEnd := 10 }

theorem witness_FabricTimersAndPorts :
    (net assoc0).running = true ∧
    (let x := { assoc0 with ackRun := 1, outEnd := 2 ^ 20, sent := 131072, rtoAt := 1, paths := [{ path0 with suspect := true }]
                            erase := true }
     (net x).assoc? 65535 = some x ∧ 0 < x.ackRun ∧ 0 < x.waiting ∧ x.credit ≤ x.sent ∧ x.rtoAt ≠ (net x).timebase ∧
     x.erase = true ∧
     x.paths[0]? = some { path0 with suspect := true } ∧ x.maySend = true ∧ (net x).portSends 0 6 = true) ∧
    (net sender).assoc? 65535 = some sender ∧ sender.maySend = true ∧ sender.txSeq + 1 < 2 ^ 63 ∧ sender.resend = [] ∧
    sender.sent < sender.credit ∧ sender.psn - ((sender.flight.head?).map (·.psn)).getD sender.psn < 65536 ∧
    (sender.messageAt sender.sent).isSome = true ∧ (net sender).pickPath sender none = some 0 ∧
    (let x := { assoc0 with state := 5, paths := [{ path0 with suspect := true }] }
     (net x).assoc? 65535 = some x ∧ x.paths.any (net x).usable = false) ∧
    (let x := { assoc0 with state := 1, est := some { initiator := true, xid := 0, eph := 0, hello := [] } }
     (net x).assoc? 65535 = some x ∧ (net x).slcUp = true ∧ x.est.isSome = true ∧ assoc0.est = none) ∧
    (let s : State := { on with col := { on.col with domain := some { domain := zeros 16, rekeyHours := 24, ownerHash := [] } } }
     s.col.domain.map (·.rekeyHours) = some 24) ∧
    (let s : State := { on with fab := { on.fab with hellos := [{ port := 0, src := 5, payload := [] }] } }
     s.fab.hellos[0]? = some { port := 0, src := 5, payload := [] }) ∧
    (let p : FabPort := { state := 2, lanes := 4, paused := 8, ignore := 2 }
     let s : State := { on with regs := [(offFabCfg, 0xFF00)], fab := { on.fab with ports := [(124, p)] } }
     s.fabPort? 124 = some p ∧ s.portUp 124 = true ∧ bitAt (s.regField offFabCfg 15 8) 3 = true ∧ bitAt p.ignore 3 = false ∧
     bitAt p.paused 3 = true) ∧
    (let p : FabPort := { state := 1, lanes := 4, lost := [124] }
     let s : State := { on with fab := { on.fab with ports := [(124, p)] } }
     s.fabPort? 124 = some p ∧ ∀ l, l ∈ [127] → 124 ≤ l ∧ l < 124 + p.lanes) ∧
    on.serving = true ∧ on.paused = false ∧ regLegal (offGroupCfg 7) ((4#64).toNat &&& 0x37) = true ∧
    portAddrReg 0x617400 = some (7, 0, 0) ∧ (regInfo 0x617400).isSome = true ∧ on.portInUse 112 = false := by decide +kernel

-- ---------------------------------------------------------------- ill-formed terms are refused

/-- The engine number; MK with M 0 (R100); D of VCMP and its reserved condition (R110); mask numbers of 3 bits; M and S of
R111's table; immediates (R101, R109). -/
theorem test_ill_formed_engine_instructions : ∀ c ∈
  [Instr.invalidInstruction 256, .add 256 0 0 0,
   .vadd 0 1 2 3 0 1 0,
   .vcmp 0 8 0 0 0 0 0 0 0, .vcmp 0 0 0 0 0 0 0 0 6,
   .mld 0 8 0, .mst 0 0 8,
   .vcmprs 0 1 2 0 0, .vexpnd 0 1 2 0 0, .vsort 0 1 2 1 0, .vsortp 0 1 2 1 0,
   .vunpk 0 1 2 3 0 0 0,
   .shi 0 1 2 0x00C0, .shi 0 1 2 0x0100, .setvl 0 1 2 0x0020], c.wf = false := by decide +kernel

theorem test_ill_formed_numbers : ∀ c ∈
  [Instr.registerWrite (.window 128) 0 8 0, .registerWrite .bar0 0 2 0, .registerWrite .bar0 4 8 0, .latchedLowHalfRead 4,
   .latchedLowHalfRead (2 ^ 24), .badRegisterAccess (.window 128) 0 4 true, .enableAdminQueues 128, .sqTailDoorbell 0 1024 0 {},
   .cqHeadDoorbell 128 0 0, .pushWindowWrite 0 0 255 [0, 0], .identify 128 0 0, .identify 0 1024 0, .identify 0 0 65536,
   .cipherJobComplete 144 [], .cipherJobComplete 0 [384], .digestJobComplete 16 false, .pressJobComplete 32 true, .traceRingEnable (some 128) 0, .telemetryRead [],
   .voltageTargetRevision [true] [0, 0, 0, 0], .voltageTargetRevision [true, true, true, true] [], .trimmerBatch 256,
   .mergerBatch 16, .fetchDeliver 256, .frameZeroComplete (262144 + 2 ^ 48), .qmRsetWrite 0 8 0, .qmScrubRead 16 0 .clean,
   .thumbBankRetention 0 64, .hbmRefresh 256 0, .hbmRefresh 0 128, .cxlLinkDown 2, .receivePfcFrame 128 0 true,
   .receivePfcFrame 0 8 true, .sendData 65536, .pathProbeTimer 0 16, .portAlignmentLoss 0 [128], .portRetrainComplete 128 [],
   .fabGroupModeWrite 8 0, .apertureRead 16 0, .hbmWindowAccess 0 0 none, .hbmWindowAccess 0 65 none, .copyDescriptorStart 64,
   .lockInterface 128, .hdmDecoderCommit 20 0 0, .receiveData { port := 128, size := 64, dstMac := 0, etherType := 0 },
   .receiveData { port := 0, size := 64, dstMac := 2 ^ 48, etherType := 0 },
   .receiveData { port := 0, size := 64, dstMac := 0, etherType := 65536 },
   .receiveData { port := 0, size := 64, dstMac := 0, etherType := 0, udpPort := 65536 }], c.wf = false := by decide +kernel

theorem test_well_formed :
    [Instr.add 255 31 31 31, .vcmprs 0 1 2 1 7, .setvl 0 1 2 0x0014, .registerWrite (.window 127) 8 8 0, .sendData 65535,
      .frameZeroComplete 262144].all (·.wf) = true := by decide +kernel

-- ---------------------------------------------------------------- engine words, bit by bit from R100, R109 to R119

theorem test_words_scalar :
    decodeEngine 0 (0b000000#6 ++ 1#5 ++ 2#5 ++ 3#5 ++ 0#1 ++ 0#3 ++ 0#1 ++ 0x0B#6) = some (.div 0 1 2 3) ∧
    decodeEngine 0 (0b000000#6 ++ 1#5 ++ 2#5 ++ 0#5 ++ 0#1 ++ 0#3 ++ 0#1 ++ 0x15#6) = some (.clz 0 1 2) ∧
    decodeEngine 0 (0b000111#6 ++ 1#5 ++ 2#5 ++ 0b0000000010111111#16) = some (.shi 0 1 2 0x00BF) ∧
    decodeEngine 0 (0b001000#6 ++ 1#5 ++ 0#5 ++ 0xFFFF#16) = some (.li 0 1 0xFFFF) ∧
    decodeEngine 0 (0b001000#6 ++ 1#5 ++ 1#5 ++ 0xFFFF#16) = none ∧
    decodeEngine 0 (0b100000#6 ++ 1#5 ++ 2#5 ++ 0#16) = some (.jalr 0 1 2) := by decide +kernel

theorem test_words_memory :
    decodeEngine 0 (0b010000#6 ++ 1#5 ++ 2#5 ++ 0b10#2 ++ 1#1 ++ 0#1 ++ 0x7FF#12) = some (.lds 0 1 2 2 1 0x7FF) ∧
    decodeEngine 0 (0b010010#6 ++ 1#5 ++ 2#5 ++ 1#1 ++ 5#3 ++ 1#1 ++ 0x400#11) = some (.vld 0 1 2 1 5 1 0x400) ∧
    decodeEngine 0 (0b010011#6 ++ 1#5 ++ 2#5 ++ 0#1 ++ 0#3 ++ 0#1 ++ 1#11) = some (.vst 0 1 2 0 0 0 1) ∧
    decodeEngine 0 (0b010100#6 ++ 4#5 ++ 5#5 ++ 6#5 ++ 1#1 ++ 3#3 ++ 0#1 ++ 2#6) = some (.fetch 0 4 5 6 1 3) ∧
    decodeEngine 0 (0b010100#6 ++ 4#5 ++ 5#5 ++ 6#5 ++ 0#1 ++ 0#3 ++ 0#1 ++ 3#6) = some (.ths 0 4 5 6) := by decide +kernel

theorem test_words_vector :
    decodeEngine 0 (0b101000#6 ++ 1#5 ++ 2#5 ++ 3#5 ++ 0#1 ++ 0#3 ++ 1#1 ++ 0x14#6) = some (.vmulcS 0 1 2 3 0 0 1) ∧
    decodeEngine 0 (0b101000#6 ++ 1#5 ++ 0#5 ++ 3#5 ++ 0#1 ++ 0#3 ++ 1#1 ++ 0x19#6) = some (.vbcast 0 1 3 0 0) ∧
    decodeEngine 0 (0b101001#6 ++ 1#5 ++ 2#5 ++ 3#5 ++ 1#1 ++ 7#3 ++ 0#1 ++ 3#6) = some (.vfdiv 0 1 2 3 1 7 0) ∧
    decodeEngine 0 (0b101010#6 ++ 7#5 ++ 2#5 ++ 3#5 ++ 0#1 ++ 0#3 ++ 0#1 ++ 0b01#2 ++ 0#1 ++ 0b101#3)
      = some (.vcmp 0 7 2 3 0 0 0 1 5) ∧
    decodeEngine 0 (0b101010#6 ++ 8#5 ++ 2#5 ++ 3#5 ++ 0#1 ++ 0#3 ++ 0#1 ++ 0#6) = none ∧
    decodeEngine 0 (0b101100#6 ++ 1#5 ++ 2#5 ++ 3#5 ++ 0#1 ++ 0#3 ++ 0#1 ++ 6#6) = some (.vext 0 1 2 3) ∧
    decodeEngine 0 (0b101101#6 ++ 1#5 ++ 2#5 ++ 3#5 ++ 0#1 ++ 0#3 ++ 0#1 ++ 1#6) = some (.hashm 0 1 2 3 0 0 0) := by decide +kernel

-- ---------------------------------------------------------------- single steps

/-- What `exec` leaves, or the state before where it stops. -/
def after (c : Instr) (s : State) : State := match exec c s with | .next t => t | _ => s

def gAfter (c : Instr) (d : BitVec 5) (r : EngRun) : Option Word :=
  ((after c (standing r (word c))).engRun 0).map (fun r => r.rg d)

/-- Division by zero and −2^63 ÷ −1 (scalar functions, FN 0x0B and 0x0D). -/
theorem test_division_corners :
    gAfter (.div 0 3 1 2) 3 ((regs0.wg 1 7).wg 2 0) = some 0xFFFFFFFFFFFFFFFF ∧
    gAfter (.rem 0 3 1 2) 3 ((regs0.wg 1 7).wg 2 0) = some 7 ∧
    gAfter (.div 0 3 1 2) 3 ((regs0.wg 1 0x8000000000000000).wg 2 0xFFFFFFFFFFFFFFFF) = some 0x8000000000000000 := by
  decide +kernel

/-- g0 reads as zero whatever is written to it (R99). -/
theorem test_zero_register : gAfter (.add 0 0 1 2) 0 ((regs0.wg 1 7).wg 2 1) = some 0 := by decide +kernel

/-- A source may be the destination, and the high product keeps its sign (FN 0x09, 0x0A). -/
theorem test_high_products :
    gAfter (.mulh 0 1 1 1) 1 (regs0.wg 1 0xFFFFFFFFFFFFFFFF) = some 0 ∧
    gAfter (.mulhu 0 1 1 1) 1 (regs0.wg 1 0xFFFFFFFFFFFFFFFF) = some 0xFFFFFFFFFFFFFFFE := by decide +kernel

/-- SETVL takes the smaller of g[A] and VLEN ÷ EW (R101): 512 ÷ 8 is 64, 256 ÷ 128 is 2. -/
theorem test_vector_length :
    gAfter (.setvl 0 3 1 0x10) 3 (regs0.wg 1 0xFFFFFFFFFFFFFFFF) = some 64 ∧
    gAfter (.setvl 0 3 1 0x0C) 3 (regs0.wg 1 3) = some 2 := by decide +kernel

/-- A branch counts from itself (R100); one that is not taken goes on. -/
theorem test_branch :
    ((after (.beq 0 1 2 0) (standing regs0 (word (.beq 0 1 2 0)))).engRun 0).map (·.pc) = some 0 ∧
    ((after (.bne 0 1 2 0) (standing regs0 (word (.bne 0 1 2 0)))).engRun 0).map (·.pc) = some 4 := by decide +kernel

/-- The published check value of CRC-32C. -/
theorem test_crc32c : crc32c [0x31, 0x32, 0x33, 0x34, 0x35, 0x36, 0x37, 0x38, 0x39] = 0xE3069283 := by decide +kernel

/-- A ZSTD block by hand (RFC 8878): five raw literals, one sequence of 5 literals, offset 5 and match length 35. -/
theorem test_zstd_block :
    (zstdDecode {} 1024 [] [] [0x28, 0x61, 0x62, 0x63, 0x64, 0x65, 0x01, 0x00, 0x40, 0x16, 0x2D]).map (·.1)
      = some (List.replicate 8 [0x61, 0x62, 0x63, 0x64, 0x65]).flatten := by decide +kernel

/-- The front command leaves the queue, the rest stays. -/
theorem test_queue_order :
    (match step { cold with pending := [.ppsInEdge, .dispatchPass] } with | .next t => t.pending | _ => []) = [.dispatchPass] := by
  decide +kernel

/-- On an empty queue a nanosecond passes (log 4). -/
theorem test_idle : (idleTick on).timebase = 1 ∧ (idleTick on).col.optime = on.col.optime + 1 := by decide +kernel

end Sys2Proof.Machine.Tests
end

section
/-! SUPPORT. The mode that DEV_STATUS reports (R22). -/
namespace Sys2Proof.Machine

/-- R22's table has the values 0 to 5 alone. -/
theorem Mode.code_lt_six (m : Mode) : m.code < 6 := by
  cases m <;> decide

/-- The low byte of DEV_STATUS is MODE: every other field of the register starts at bit 8 or above. -/
theorem State.regRead_status_lowByte (s : State) : s.regRead 0x10 % 256 = s.dev.mode.code := by
  have hcode : s.dev.mode.code < 2 ^ 8 := Nat.lt_trans s.dev.mode.code_lt_six (by decide)
  calc s.regRead 0x10 % 2 ^ 8
      = s.viewDev 0x10 % 2 ^ 64 % 2 ^ 8 := by rw [s.regRead_status]
    _ = s.viewDev 0x10 % 2 ^ 8 := Nat.mod_mod_of_dvd _ (Nat.pow_dvd_pow 2 (by decide))
    _ = s.dev.mode.code % 2 ^ 8 := fields_low 8 _ _ (by simp)
    _ = s.dev.mode.code := Nat.mod_eq_of_lt hcode

/-- Settles O30: the low byte of DEV_STATUS is the code of the one mode the state is in. -/
theorem modeReported : Obligations.ModeReported := by
  intro s
  rw [s.regRead_status_lowByte]
  refine ⟨?_, s.dev.mode.code_lt_six⟩
  cases s.dev.mode <;> simp [Mode.code]

end Sys2Proof.Machine
end

section
/-! SUPPORT. SETVL: its word, its effect on the registers, its refusals (R101). -/
namespace Sys2Proof.Machine

/-- No row of the function tables of the RR and leaf formats is SETVL, which has a major opcode of its own (R109). -/
theorem functionTable_ne_setvl (e : Nat) (w : BitVec 32) (e' : Nat) (d a : BitVec 5) (imm : BitVec 16) :
    ∀ table ∈ [decodeAlu, decodeMemx, decodeJalr, decodeVint, decodeVfp, decodeVcmp, decodeVmsk, decodeVperm,
      decodeVhash, decodeXacc, decodeLeaf], table e w ≠ some (.setvl e' d a imm) := by
  simp only [List.forall_mem_cons, decodeAlu, decodeMemx, decodeJalr, decodeVint, decodeVfp, decodeVcmp, decodeVmsk,
    decodeVperm, decodeVhash, decodeXacc, decodeLeaf]
  refine ⟨?_, ?_, ?_, ?_, ?_, ?_, ?_, ?_, ?_, ?_, ?_, by simp⟩ <;> split <;> simp

/-- A word that decodes to SETVL has the reserved bits of its immediate zero (R101). -/
theorem setvlOk_of_decodeEngine {e e' : Nat} {w : BitVec 32} {d a : BitVec 5} {imm : BitVec 16}
    (h : decodeEngine e w = some (.setvl e' d a imm)) : setvlOk imm = true := by
  have hTable := functionTable_ne_setvl e w e' d a imm
  simp only [List.forall_mem_cons] at hTable
  unfold decodeEngine at h
  split at h
  case h_11 => -- MAJOR 0x0A
    obtain ⟨hok, hw⟩ := Option.ite_none_right_eq_some.mp h
    cases hw
    exact hok
  all_goals simp [hTable] at h

/-- SETVL with codes that are not reserved (R101). -/
theorem EngRun.setvl_eq_some (r : EngRun) (d a : BitVec 5) {imm : BitVec 16} (hew : (imm.extractLsb' 0 3).toNat ≤ 4)
    (hch : (imm.extractLsb' 3 2).toNat ≠ 3) :
    r.setvl d a imm =
      let ew := (imm.extractLsb' 0 3).toNat
      let ch := (imm.extractLsb' 3 2).toNat
      let vlen := if ch = 1 then 256 else if ch = 2 then 512 else r.vlen
      let vl := min (r.rg a).toNat (vlen / ewBits ew)
      some (({ r with ew := ew, vlen := vlen, vl := vl }).wg d (ofN vl)) :=
  if_neg (by omega)

/-- SETVL with a reserved EW code or VLEN choice (R101). -/
theorem EngRun.setvl_eq_none (r : EngRun) (d a : BitVec 5) {imm : BitVec 16}
    (h : 4 < (imm.extractLsb' 0 3).toNat ∨ (imm.extractLsb' 3 2).toNat = 3) : r.setvl d a imm = none :=
  if_pos h

/-- An issued SETVL goes on with the registers that `EngRun.setvl` gives, and fails its leaf where it gives none. -/
theorem exec_setvl_issued {s : State} {e : Nat} {r : EngRun} {l : Leaf} {d a : BitVec 5} {imm : BitVec 16}
    (hI : Issued s e (.setvl e d a imm) r l) :
    exec (.setvl e d a imm) s =
      .next (((counted (.setvl e d a imm) r).setvl d a imm).elim (s.failAt l 0x1001 0) (s.stepTo e)) := by
  rw [exec_issued hI rfl]
  cases (counted (.setvl e d a imm) r).setvl d a imm <;> rfl

/-- Settles O7: the codes of the immediate decide between the registers of R101 and the failure, and the decoder
admits SETVL with its reserved bits zero alone. -/
theorem setVectorLength : Obligations.SetVectorLength := by
  intro e d a imm
  refine ⟨fun hew hch s r l hI _ => ?_, fun hbad s r l hI _ => ?_, fun hres w hdec => hres ?_⟩
  · rw [exec_setvl_issued hI, EngRun.setvl_eq_some _ _ _ hew (by omega)]
    rfl
  · rw [exec_setvl_issued hI, EngRun.setvl_eq_none _ _ _ hbad, Option.elim_none]
  · simpa [setvlOk] using setvlOk_of_decodeEngine hdec

end Sys2Proof.Machine
end

section
/-! SUPPORT. Writes of MAINT_HOLD and the MANAGER holder that follows it (R455, R468). -/
namespace Sys2Proof.Machine

/-- Bits of a word, as the model reads them off its number. -/
theorem bitAt_toNat (v : Word) (k : Nat) : bitAt v.toNat k = v.getLsbD k := by
  show _ = v.toNat.testBit k
  rw [Nat.testBit_eq_decide_div_mod_eq, bitAt, Nat.shiftRight_eq_div_pow]
  rfl

/-- COLD_START covers every condition but FACTORY (R22). -/
theorem Dev.mode_of_cold {d : Dev} (hf : d.factory = false) (hc : d.cold = true) : d.mode = .coldStart := by
  simp [Dev.mode, hf, hc]

/-- A holder puts the device in MAINTENANCE where nothing of higher rank holds (R449). -/
theorem Dev.mode_of_maint {d : Dev} (hf : d.factory = false) (hc : d.cold = false) (hn : d.contained = false)
    (hm : d.maint ≠ []) : d.mode = .maintenance := by
  simp [Dev.mode, hf, hc, hn, hm]

/-- A change of the conditions that leaves the mode posts nothing. -/
theorem State.setDev_of_mode_eq {s : State} {f : Dev → Dev} (h : (f s.dev).mode = s.dev.mode) :
    s.setDev f = { s with dev := f s.dev } :=
  if_pos h

/-- In COLD_START a holder starts or ends with no change of mode, so the list of holders alone changes. -/
theorem State.holder_of_cold {s : State} (hf : s.dev.factory = false) (hc : s.dev.cold = true) (b : Nat) (on : Bool) :
    ∃ m, s.holder b on = { s with dev := { s.dev with maint := m } } := by
  refine ⟨_, State.setDev_of_mode_eq ?_⟩
  rw [Dev.mode_of_cold hf hc]
  exact Dev.mode_of_cold hf hc

/-- Outside a placement pause the MANAGER holder follows MAINT_HOLD at once (R455). -/
theorem State.applyHold_of_not_paused {s : State} (hp : s.paused = false) (v : Nat) :
    s.applyHold v = ({ s with dev := { s.dev with maintHold := bitAt v 0 } } : State).holder 3 (bitAt v 0) :=
  if_neg (by simpa [State.paused] using hp)

/-- MAINT_HOLD takes bit 0 of the value, in a placement pause too (R468). -/
theorem State.applyHold_maintHold (s : State) (v : Nat) : (s.applyHold v).dev.maintHold = bitAt v 0 := by
  cases hp : s.paused with
  | false => rw [s.applyHold_of_not_paused hp]; exact (State.holder_maint _ 3 _).1
  | true => exact congrArg (fun t : State => t.dev.maintHold) (if_pos hp)

/-- Outside a placement pause a write makes the MANAGER holder what bit 0 says, and no other holder starts or ends. -/
theorem State.applyHold_maint {s : State} (hp : s.paused = false) (v : Nat) :
    (s.applyHold v).dev.maint.contains 3 = bitAt v 0 ∧
    ∀ h, h ≠ 3 → (s.applyHold v).dev.maint.contains h = s.dev.maint.contains h := by
  rw [s.applyHold_of_not_paused hp]
  exact (State.holder_maint _ 3 _).2

/-- In COLD_START a write of MAINT_HOLD changes MAINT_HOLD and the holders alone (R468). -/
theorem State.applyHold_of_cold {s : State} (hf : s.dev.factory = false) (hc : s.dev.cold = true) (hp : s.paused = false)
    (v : Nat) : ∃ m, s.applyHold v = { s with dev := { s.dev with maintHold := bitAt v 0, maint := m } } := by
  rw [s.applyHold_of_not_paused hp]
  refine State.holder_of_cold ?_ ?_ 3 _
  · exact hf
  · exact hc

/-- A write of DEV_MODE_CTRL in COLD_START has no reset in it: it is a write of MAINT_HOLD (R468). -/
theorem State.writeModeCtrl_of_cold {s : State} (hr : s.running = true) (hf : s.dev.factory = false)
    (hc : s.dev.cold = true) (hp : s.paused = false) (v : Nat) (bad : List (Nat × Nat)) :
    s.writeModeCtrl v bad = s.applyHold v := by
  have hcold : (s.applyHold v).dev.cold = true := by
    obtain ⟨m, hm⟩ := State.applyHold_of_cold hf hc hp v
    rw [hm]
    exact hc
  simp [State.writeModeCtrl, hr, hcold]

/-- On a running part MAINT_HOLD_WRITE completes with the hold applied. -/
theorem exec_maintHoldWrite {s : State} (hr : s.running = true) (v : Word) :
    exec (.maintHoldWrite v) s = .next (s.applyHold v.toNat) :=
  if_pos hr

/-- The fields that start at bit `k` or above leave the bits below `k` to the others. -/
theorem fields_append_mod (k : Nat) (l : List (Nat × Nat)) {r : List (Nat × Nat)} (h : ∀ p, p ∈ r → k ≤ p.1) :
    fields (l ++ r) % 2 ^ k = fields l % 2 ^ k := by
  rw [fields, List.foldl_append, fields_mod_from k r h, fields]

/-- The fields of DEV_STATUS: MODE, CONSTRAIN and MAINT, and those from bit 24 up (R467). -/
theorem State.viewDev_status (s : State) :
    s.viewDev 0x10 =
      fields ([(0, s.dev.mode.code), (8, b2n s.dev.constrain), (16, sumOf (s.dev.maint.map (2 ^ ·)))] ++
        [(24, s.dev.coldStep), (28, s.dev.coldFail), (32, (s.dev.causes.head?.map (·.1)).getD 0),
         (40, s.dev.causes.length)]) :=
  rfl

/-- The low 24 bits of DEV_STATUS. -/
theorem State.regRead_status_low (s : State) :
    s.regRead 0x10 % 2 ^ 24 =
      (s.dev.mode.code + b2n s.dev.constrain * 2 ^ 8 + sumOf (s.dev.maint.map (2 ^ ·)) * 2 ^ 16) % 2 ^ 24 := by
  rw [s.regRead_status, Nat.mod_mod_of_dvd _ (Nat.pow_dvd_pow 2 (by decide)), s.viewDev_status,
    fields_append_mod 24 _ (by simp), fields]
  iterate 3 rw [List.foldl_cons]
  rw [List.foldl_nil, Nat.zero_add, Nat.pow_zero, Nat.mul_one]

/-- DEV_STATUS.MAINT is the set of active holders (R467). -/
theorem State.regRead_status_maint {s : State} (h : sumOf (s.dev.maint.map (2 ^ ·)) < 16) :
    s.regRead 0x10 / 2 ^ 16 % 16 = sumOf (s.dev.maint.map (2 ^ ·)) := by
  have hlow := s.regRead_status_low
  have hcode := s.dev.mode.code_lt_six
  have hcon : b2n s.dev.constrain ≤ 1 := by cases s.dev.constrain <;> decide
  omega

/-- Settles O31: outside a placement pause a write is `State.applyHold` and no more, which in COLD_START changes no
mode and so posts nothing. -/
theorem maintHoldDuringColdStart : Obligations.MaintHoldDuringColdStart := by
  refine ⟨fun s v bad hr hc hf ha => ?_, fun s t v hr ht => ?_, fun s hm => ?_, fun d => Dev.mode_of_maint⟩
  · have hp : s.paused = false := by simp [State.paused, ha]
    obtain ⟨hmanager, hother⟩ := State.applyHold_maint hp v.toNat
    refine ⟨s.applyHold v.toNat, ?_, exec_maintHoldWrite hr v, ?_, ?_, hother, ?_⟩
    · exact congrArg Host.Outcome.next (State.writeModeCtrl_of_cold hr hf hc hp _ bad)
    · obtain ⟨m, hm⟩ := State.applyHold_of_cold hf hc hp v.toNat
      rw [hm]
    · rw [s.applyHold_maintHold, bitAt_toNat]
    · rw [hmanager, bitAt_toNat]
  · rw [exec_maintHoldWrite hr] at ht
    injection ht with ht
    subst ht
    refine ⟨?_, fun hp => ?_⟩
    · rw [State.regRead_modeCtrl, s.applyHold_maintHold, bitAt_toNat, b2n]
    · rw [(State.applyHold_maint hp _).1, bitAt_toNat]
  · have hsum : sumOf (s.dev.maint.map (2 ^ ·)) = 8 := by rw [hm]; rfl
    rw [State.regRead_status_maint (by omega), hsum]

end Sys2Proof.Machine
end

section
/-! SUPPORT. Engine instruction words: the decoder and the encoder are inverse to each other (R100, R109–R122). -/
namespace Sys2Proof.Machine

/-- FN of a comparison word holds the kind, a zero and the condition (R110). -/
theorem vcmpFn_fields (kind : BitVec 2) (cond : BitVec 3) :
    (kind ++ (0 : BitVec 1) ++ cond).extractLsb' 0 3 = cond ∧ (kind ++ (0 : BitVec 1) ++ cond).extractLsb' 3 1 = 0 ∧
      (kind ++ (0 : BitVec 1) ++ cond).extractLsb' 4 2 = kind := by
  revert kind cond; decide

/-- The word of a comparison decodes to it, under the conditions of R110 on its fields. -/
theorem decodeVcmp_wRR (e : Nat) (d a b : BitVec 5) (m : BitVec 1) (mk : BitVec 3) (s : BitVec 1) (kind : BitVec 2)
    {cond : BitVec 3} (hd : maskField d = true) (hm : maskOk m mk = true) (hc : cond.toNat < 6) :
    decodeVcmp e (wRR 0x2A d a b m mk s (kind ++ (0 : BitVec 1) ++ cond)) = some (.vcmp e d a b m mk s kind cond) := by
  obtain ⟨hcond, hzero, hkind⟩ := vcmpFn_fields kind cond
  simp only [decodeVcmp, fD_wRR, fA_wRR, fB_wRR, fM_wRR, fMk_wRR, fS_wRR, fFn_wRR, hcond, hzero, hkind, hd, hm, hc]
  rfl

-- The major opcodes that hand a word to a function table (R109–R118).
section
variable (e : Nat) (d a b : BitVec 5) (m : BitVec 1) (mk : BitVec 3) (s : BitVec 1) (fn : BitVec 6)

theorem decodeEngine_alu :
    decodeEngine e (wRR 0x00 d a b m mk s fn) = decodeAlu e (wRR 0x00 d a b m mk s fn) := by
  rw [decodeEngine, fMaj_wRR]; rfl

theorem decodeEngine_vint :
    decodeEngine e (wRR 0x28 d a b m mk s fn) = decodeVint e (wRR 0x28 d a b m mk s fn) := by
  rw [decodeEngine, fMaj_wRR]; rfl

theorem decodeEngine_vfp :
    decodeEngine e (wRR 0x29 d a b m mk s fn) = decodeVfp e (wRR 0x29 d a b m mk s fn) := by
  rw [decodeEngine, fMaj_wRR]; rfl

theorem decodeEngine_vmsk :
    decodeEngine e (wRR 0x2B d a b m mk s fn) = decodeVmsk e (wRR 0x2B d a b m mk s fn) := by
  rw [decodeEngine, fMaj_wRR]; rfl

theorem decodeEngine_vperm :
    decodeEngine e (wRR 0x2C d a b m mk s fn) = decodeVperm e (wRR 0x2C d a b m mk s fn) := by
  rw [decodeEngine, fMaj_wRR]; rfl

theorem decodeEngine_xacc :
    decodeEngine e (wRR 0x2E d a b m mk s fn) = decodeXacc e (wRR 0x2E d a b m mk s fn) := by
  rw [decodeEngine, fMaj_wRR]; rfl

end

/-- Settles O1: the cases go by the format and the function table of the instruction's word; the words of one table
decode by the same rows. -/
theorem decodeOfEncodedEngineInstruction : Obligations.DecodeOfEncodedEngineInstruction := by
  intro e i w he hwf hw
  cases i
  case add | sub | and | or | xor | sll | srl | sra | mul | mulh | mulhu | div | divu | rem | remu | slt | sltu | min | max
      | minu | maxu | clz | ctz | popc =>
    cases he; cases hw
    rw [decodeEngine_alu, decodeAlu]
    simp
  case aadd | aswp | fetch | ths | thn | thw | mld | mst =>
    cases he; cases hw
    simp_all [decodeEngine, decodeMemx, engineWf]
  case jalr =>
    cases he; cases hw
    simp [decodeEngine, decodeJalr]
  case vadd | vsub | vmul | vand | vor | vxor | vsll | vsrl | vsra | vmin | vmax | vminu | vmaxu | vaddcS | vaddcU | vsubcS
      | vsubcU | vmulcS | vmv | vbcast =>
    cases he; cases hw
    rw [decodeEngine_vint, decodeVint]
    simp_all [engineWf]
  case vfadd | vfsub | vfmul | vfdiv | vfmin | vfmax | vfabs | vfneg =>
    cases he; cases hw
    rw [decodeEngine_vfp, decodeVfp]
    simp_all [engineWf]
  case vcmp =>
    cases he; cases hw
    simp only [engineWf, Bool.and_eq_true, decide_eq_true_eq] at hwf
    obtain ⟨⟨hd, hm⟩, hc⟩ := hwf
    rw [decodeEngine, fMaj_wRR]
    exact decodeVcmp_wRR _ _ _ _ _ _ _ _ hd hm hc
  case mand | mor | mxor | mandn | mnot | mset | mpop | mffs | mfromg | mtog =>
    cases he; cases hw
    rw [decodeEngine_vmsk, decodeVmsk]
    simp
  case vcmprs | vexpnd | vsort | vsortp | vunpk =>
    cases he; cases hw
    simp only [engineWf, Bool.and_eq_true, beq_iff_eq] at hwf
    obtain ⟨hm, rfl⟩ := hwf
    rw [decodeEngine_vperm, decodeVperm]
    simpa using hm
  case vscan | vext | vins | vwidenS | vwidenU | vnarrow | vcvtIf | vcvtFi | vcvtSd | vcvtDs =>
    cases he; cases hw
    rw [decodeEngine_vperm, decodeVperm]
    simp_all [engineWf]
  case hashc | hashm =>
    cases he; cases hw
    simp_all [decodeEngine, decodeVhash, engineWf]
  case xclr | xaddf | xaddi | xmacf | xmrg | xrnd | xrnds | xrdw | xpost | xld | xst =>
    cases he; cases hw
    rw [decodeEngine_xacc, decodeXacc]
    simp_all [engineWf]
  case bnext | emit | emitend | spawn | commit =>
    cases he; cases hw
    simp_all [decodeEngine, decodeLeaf, engineWf]
  case addi | andi | ori | xori | slti | sltiu | shi | li | lsh | setvl | mfc | mtc | lds | sts | vld | vst | beq | bne | blt
      | bge | bltu | bgeu | j | jal =>
    cases he; cases hw
    simp_all [decodeEngine, engineWf]
  all_goals cases hw

/-- What a row of the decoder's tables must answer: a step of engine `e` that keeps R100 and has a word. -/
def WellDecoded (e : Nat) (i : Instr) : Prop :=
  engineNo i = some e ∧ engineWf i = true ∧ (encodeEngine i).isSome = true

/-- A row of a function table answers its instruction under its condition. -/
theorem WellDecoded.of_row {e : Nat} {c : Bool} {i j : Instr} (hi : c = true → WellDecoded e i)
    (h : (if c then some i else none) = some j) : WellDecoded e j := by
  obtain ⟨hc, hij⟩ := Option.ite_none_right_eq_some.mp h
  cases hij
  exact hi hc

/-- Every row of the function tables of the RR and leaf formats answers a well-formed instruction of its engine. -/
theorem functionTable_wellDecoded (e : Nat) (w : BitVec 32) (i : Instr) :
    ∀ table ∈ [decodeAlu, decodeMemx, decodeJalr, decodeVint, decodeVfp, decodeVcmp, decodeVmsk, decodeVperm,
      decodeVhash, decodeXacc, decodeLeaf], table e w = some i → WellDecoded e i := by
  simp only [List.forall_mem_cons, decodeAlu, decodeMemx, decodeJalr, decodeVint, decodeVfp, decodeVmsk, decodeVperm,
    decodeVhash, decodeXacc, decodeLeaf]
  refine ⟨?_, ?_, ?_, ?_, ?_, ?vcmp, ?_, ?_, ?_, ?_, ?_, by simp⟩
  case vcmp => exact WellDecoded.of_row fun h => ⟨rfl, by simp_all only [engineWf, Bool.and_eq_true, and_self], rfl⟩
  all_goals
    split
    any_goals exact WellDecoded.of_row fun h => ⟨rfl, by simp_all only [engineWf, Bool.and_eq_true, and_self], rfl⟩
    all_goals exact nofun

/-- Settles O2: the row of a word's major opcode answers an instruction, or hands the word to a function table. -/
theorem decodedEngineInstructionKeepsR100 : Obligations.DecodedEngineInstructionKeepsR100 := by
  intro e w i h
  have hTable := functionTable_wellDecoded e w i
  simp only [List.forall_mem_cons] at hTable
  obtain ⟨hAlu, hMemx, hJalr, hVint, hVfp, hVcmp, hVmsk, hVperm, hVhash, hXacc, hLeaf, -⟩ := hTable
  have hRow : WellDecoded e i := by
    unfold decodeEngine at h
    split at h
    case h_1 => exact hAlu h
    case h_18 => exact hMemx h
    case h_27 => exact hJalr h
    case h_28 => exact hVint h
    case h_29 => exact hVfp h
    case h_30 => exact hVcmp h
    case h_31 => exact hVmsk h
    case h_32 => exact hVperm h
    case h_33 => exact hVhash h
    case h_34 => exact hXacc h
    case h_35 => exact hLeaf h
    case h_36 => cases h
    any_goals exact WellDecoded.of_row (fun hc => ⟨rfl, by simp_all only [engineWf], rfl⟩) h
    all_goals (cases h; exact ⟨rfl, rfl, rfl⟩)
  exact hRow

end Sys2Proof.Machine
end

section
/-! SUPPORT. A part that THERMTRIP_N has stopped: which commands still reach it, and that no other does anything (R443). -/
namespace Sys2Proof.Machine

/-- The commands through which the host and the board reach a part that has stopped: supplies, pins, and the two doorbells
that carry stores of host software (R318, R431, R500). -/
def reachesStopped (c : Instr) : Bool :=
  match c with
  | .powerGoodRise _ | .powerGoodFall | .perstNAssert | .perstNDeassert _ | .pwrbrkNAssert | .pwrbrkNDeassert => true
  | _ => carriesStores c

section
variable {s : State} (hs : s.stopped = true)
include hs

theorem State.takePress_stopped (i sq cid op : Nat) : s.takePress i sq cid op = none := by
  simp [State.takePress, State.takeCmd_stopped hs]

theorem State.takeAssocCmd_stopped (i sq cid op : Nat) : s.takeAssocCmd i sq cid op = none := by
  simp [State.takeAssocCmd, State.takeCmd_stopped hs]

theorem State.running_none_stopped (e : Nat) : s.running_ e = none := by simp [State.running_, State.running_stopped hs]

theorem State.hears_stopped (f : Frame) : s.hears f = false := by simp [State.hears, State.running_stopped hs]

theorem State.doeUp_stopped : s.doeUp = false := by simp [State.doeUp, State.running_stopped hs]

theorem State.hotReset_stopped (bad : List (Nat × Nat)) : s.hotReset bad = s := by
  simp [State.hotReset, State.running_stopped hs]

theorem State.writeModeCtrl_stopped (v : Nat) (bad : List (Nat × Nat)) : s.writeModeCtrl v bad = s := by
  simp [State.writeModeCtrl, State.running_stopped hs]

theorem State.onFrame_stopped (f : Frame) (typ : Nat)
    (g : State → Nat → (path seq off psn flags : Nat) → Bytes → State) : s.onFrame f typ g = s := by
  simp [State.onFrame, State.hears_stopped hs]

theorem State.dispatchPass_stopped : s.dispatchPass = s := by simp [State.dispatchPass, State.serving_stopped hs]

theorem State.writeRset_stopped (i k v : Nat) : s.writeRset i k v = s := by
  simp [State.writeRset, State.serving_stopped hs]

theorem State.writeMarch_stopped (q v : Nat) : s.writeMarch q v = s := by
  simp [State.writeMarch, State.running_stopped hs]

theorem State.slcRestart_stopped (mech cause : Nat) : s.slcRestart mech cause = s := by
  simp [State.slcRestart, State.running_stopped hs]

theorem State.doe_stopped (f : State → State) : s.doe f = s := by simp [State.doe, State.doeUp_stopped hs]

theorem State.ideKm_stopped (x : Session) (f : State → State) : s.ideKm x f = s := State.doe_stopped hs _

theorem State.tdisp_stopped (vf : Nat) (good : Bool) (f : State → State) : s.tdisp vf good f = s := by
  simp [State.tdisp, State.doeUp_stopped hs]

theorem State.mbxDoorbell_stopped (i : Nat) (up : Bool) (v : Nat) : s.mbxDoorbell i up v = s := by
  unfold State.mbxDoorbell
  cases s.inst? i <;> simp [State.serving_stopped hs]

/-- Host software's own stores reach a stopped part's surroundings alone. -/
theorem State.hostStore_stopped (i : Nat) (st : HostStores) :
    Frozen s (s.hostStore i st) ∧ (s.hostStore i st).serving = false := by
  have h : s.hostStore i st = { s with
      mem := (s.hostStore i st).mem, hostErrs := (s.hostStore i st).hostErrs, upsets := (s.hostStore i st).upsets } := by
    simp [State.hostStore, State.running_stopped hs]
  rw [h]
  exact ⟨⟨rfl, rfl⟩, State.serving_stopped (s := { s with mem := _, hostErrs := _, upsets := _ }) hs⟩

/-- No other command does anything: each one's row asks for an engine that issues, a command that may start, a Slipcase
that answers, or itself whether the part runs. -/
theorem exec_of_stopped_unreached {c : Instr} (hc : reachesStopped c = false) : exec c s = .next s := by
  have hr := State.running_stopped hs
  have hv := State.serving_stopped hs
  cases c
  case add | sub | and | or | xor | sll | srl | sra | mul | mulh | mulhu | div | divu | rem | remu | slt | sltu |
      min | max | minu | maxu | clz | ctz | popc | addi | andi | ori | xori | slti | sltiu | shi | li | lsh | setvl
      | mfc | mtc | lds | sts | vld | vst | aadd | aswp | fetch | ths | thn | thw | mld | mst | beq | bne | blt |
      bge | bltu | bgeu | j | jal | jalr | vadd | vsub | vmul | vand | vor | vxor | vsll | vsrl | vsra | vmin |
      vmax | vminu | vmaxu | vaddcS | vaddcU | vsubcS | vsubcU | vmulcS | vmv | vbcast | vfadd | vfsub | vfmul |
      vfdiv | vfmin | vfmax | vfabs | vfneg | vcmp | mand | mor | mxor | mandn | mnot | mset | mpop | mffs | mfromg
      | mtog | vcmprs | vexpnd | vscan | vsort | vsortp | vunpk | vext | vins | vwidenS | vwidenU | vnarrow |
      vcvtIf | vcvtFi | vcvtSd | vcvtDs | hashc | hashm | xclr | xaddf | xaddi | xmacf | xmrg | xrnd | xrnds | xrdw
      | xpost | xld | xst | bnext | emit | emitend | spawn | commit =>
    exact congrArg Host.Outcome.next (runEng_stopped hs _ _ _)
  case identify | getLogPage | setFeatures | getFeatures | firmwareImageDownload | firmwareCommit |
      createSubmissionQueue | deleteSubmissionQueue | createCompletionQueue | deleteCompletionQueue |
      asynchronousEventRequest | createInstance | quiesceInstance | resumeInstance | removeInstance |
      setInstanceShare | loadFolio | submitFolio | cancelFolio | loadSegments | readResults | thumbLoad | copy |
      cipher | digest | pressCompress | pressDecompress | pressRegisterDictionary | associationBind |
      associationUnbind | associationOpen | associationClose | associationRekey | flush =>
    simp only [exec, execIdentify, execGetLogPage, execSetFeatures, execGetFeatures, execFirmwareImageDownload,
      execFirmwareCommit, execCreateSubmissionQueue, execDeleteSubmissionQueue, execCreateCompletionQueue,
      execDeleteCompletionQueue, execAsynchronousEventRequest, execCreateInstance, execQuiesceInstance,
      execResumeInstance, execRemoveInstance, execSetInstanceShare, execLoadFolio, execSubmitFolio,
      execCancelFolio, execLoadSegments, execReadResults, execThumbLoad, execCopy, execCipher, execDigest,
      execPressCompress, execPressDecompress, execPressRegisterDictionary, execAssociationBind,
      execAssociationUnbind, execAssociationOpen, execAssociationClose, execAssociationRekey, execFlush,
      State.takePress_stopped hs, State.takeAssocCmd_stopped hs, State.takeCmd_stopped hs, State.openCmd_stopped hs]
    rfl
  case hotReset | deviceReset | dispatchPass | qmRsetWrite | marchStart | receiveData | receiveAck | receiveProbe |
      receiveProbeReply | receiveRekey | receiveClose | receiveCloseAck | mailboxUpDoorbell | mailboxDownDoorbell |
      slipcaseWatchdogExpiry | lockstepMismatch | setDomainPolicy | advanceFuseSvn | spdmRequest | ideKmQuery |
      ideKmKeyProg | ideKmKeySetGo | ideKmKeySetStop | lockInterface | tdiRun =>
    simp only [exec, execHotReset, execDeviceReset, execDispatchPass, execQmRsetWrite, execMarchStart, execReceiveData,
      execReceiveAck, execReceiveProbe, execReceiveProbeReply, execReceiveRekey, execReceiveClose,
      execReceiveCloseAck, execMailboxUpDoorbell, execMailboxDownDoorbell, execSlipcaseWatchdogExpiry,
      execLockstepMismatch, execSetDomainPolicy, execAdvanceFuseSvn, execSpdmRequest, execIdeKmQuery,
      execIdeKmKeyProg, execIdeKmKeySetGo, execIdeKmKeySetStop, execLockInterface, execTdiRun,
      State.hotReset_stopped hs, State.writeModeCtrl_stopped hs, State.onFrame_stopped hs,
      State.dispatchPass_stopped hs, State.writeRset_stopped hs, State.writeMarch_stopped hs,
      State.slcRestart_stopped hs, State.doe_stopped hs, State.ideKm_stopped hs, State.tdisp_stopped hs,
      State.mbxDoorbell_stopped hs]
    rfl
  case interruptCoalesceTimer | activationLoaded | activationReady | activationTimeout | cutLeaf | creditRefill |
      stallWatchdogExpiry | commitApplied | marchComplete | pfcWatchdogExpiry | ackDelayTimer | backlogAckTimer |
      retransmitTimeout | pathProbeTimer | assocNoPathTimeout | assocOpenTimeout | establishHelloRepeat |
      unpairedHelloExpiry | rekeyKeyEraseTimer | portRetrainComplete | portAddressWrite | apertureAnswer |
      apertureDeadline | mailboxTimeout | copyDescriptorStart | copyDescriptorComplete | copyDescriptorFail |
      getDeviceInterfaceReport =>
    simp only [exec, execInterruptCoalesceTimer, execActivationLoaded, execActivationReady, execActivationTimeout,
      execCutLeaf, execCreditRefill, execStallWatchdogExpiry, execCommitApplied, execMarchComplete,
      execPfcWatchdogExpiry, execAckDelayTimer, execBacklogAckTimer, execRetransmitTimeout, execPathProbeTimer,
      execAssocNoPathTimeout, execAssocOpenTimeout, execEstablishHelloRepeat, execUnpairedHelloExpiry,
      execRekeyKeyEraseTimer, execPortRetrainComplete, execPortAddressWrite, execApertureAnswer,
      execApertureDeadline, execMailboxTimeout, execCopyDescriptorStart, execCopyDescriptorComplete,
      execCopyDescriptorFail, execGetDeviceInterfaceReport, State.timerRuns, State.tdisp_stopped hs]
    repeat' split
    all_goals simp_all [ok]
  case invalidInstruction | efuraStartTimeout | coldStartComplete | refclkLoss | refclkReturn | hbmRefclkHoldExpiry
      | ppsInEdge | ppsOutEdge | maintHoldWrite | registerWrite | latchedLowHalfRead | badRegisterAccess |
      settingsPersist | enableAdminQueues | disableAdminQueues | cqHeadDoorbell | pushWindowWrite | fetchEntries |
      quiesceComplete | functionLevelReset | cipherJobComplete | digestJobStart | digestJobComplete | pressJobStart
      | pressJobComplete | traceRingEnable | budgetRefill | powerEstimateTick | telemetryRead | thermalSensorRead |
      voltageTargetRevision | stepLimitReached | engineFaultDetected | engineFaultCount | completionReportWrite |
      trimmerBatch | mergerBatch | fetchDeliver | pagerSweep | pageEvictComplete | pageRestoreComplete |
      frameZeroComplete | pageTableWalk | pageTableWalkComplete | qmScrubRead | marchRun | thumbBankRetention |
      thumbBankWakeComplete | thumbThrottleUpdate | hbmRefresh | hbmScrubRead | hbmRecalibration | channelMigration
      | channelMapOutComplete | cxlLinkDown | cxlRetrainTimeout | receiveEstablish | receiveSlowPathFrame |
      receiveOtherFrame | receivePfcFrame | pfcIgnoreEnd | sendData | rateControlPeriod | rekeyPolicyTimer |
      portAlignmentLoss | fabGroupModeWrite | apertureRead | apertureWrite | apertureSpeculativeRead |
      apertureWindowConfigWrite | hbmWindowAccess | copyLateWriteError | slipcaseRestartComplete |
      tdiRequestRejected | progressMonitorExpiry | controlFaultDetected | spineFaultDetected | faultInjectArm |
      logRecordFlush | optimeSave | cxlLinkRetrainComplete | hdmDecoderCommit | smbusMctpMessage | atsInvalidation
      | xtsReserveRefill =>
    simp [exec, execInvalidInstruction, execEfuraStartTimeout, execColdStartComplete, execRefclkLoss, execRefclkReturn,
      execHbmRefclkHoldExpiry, execPpsInEdge, execPpsOutEdge, execMaintHoldWrite, execRegisterWrite,
      execLatchedLowHalfRead, execBadRegisterAccess, execSettingsPersist, execEnableAdminQueues,
      execDisableAdminQueues, execCqHeadDoorbell, execPushWindowWrite, execFetchEntries, execQuiesceComplete,
      execFunctionLevelReset, execCipherJobComplete, execDigestJobStart, execDigestJobComplete, execPressJobStart,
      execPressJobComplete, execTraceRingEnable, execBudgetRefill, execPowerEstimateTick, execTelemetryRead,
      execThermalSensorRead, execVoltageTargetRevision, execStepLimitReached, execEngineFaultDetected,
      execEngineFaultCount, execCompletionReportWrite, execTrimmerBatch, execMergerBatch, execFetchDeliver,
      execPagerSweep, execPageEvictComplete, execPageRestoreComplete, execFrameZeroComplete, execPageTableWalk,
      execPageTableWalkComplete, execQmScrubRead, execMarchRun, execThumbBankRetention, execThumbBankWakeComplete,
      execThumbThrottleUpdate, execHbmRefresh, execHbmScrubRead, execHbmRecalibration, execChannelMigration,
      execChannelMapOutComplete, execCxlLinkDown, execCxlRetrainTimeout, execReceiveEstablish,
      execReceiveSlowPathFrame, execReceiveOtherFrame, execReceivePfcFrame, execPfcIgnoreEnd, execSendData,
      execRateControlPeriod, execRekeyPolicyTimer, execPortAlignmentLoss, execFabGroupModeWrite, execApertureRead,
      execApertureWrite, execApertureSpeculativeRead, execApertureWindowConfigWrite, execHbmWindowAccess,
      execCopyLateWriteError, execSlipcaseRestartComplete, execTdiRequestRejected, execProgressMonitorExpiry,
      execControlFaultDetected, execSpineFaultDetected, execFaultInjectArm, execLogRecordFlush, execOptimeSave,
      execCxlLinkRetrainComplete, execHdmDecoderCommit, execSmbusMctpMessage, execAtsInvalidation,
      execXtsReserveRefill, hr, hv, hs, ok, State.hears_stopped hs, State.running_none_stopped hs]
  all_goals cases hc

/-- What the supplies excepted can still do to a stopped part stays outside its blocks: pins, the host link, and with a
store-carrying doorbell host memory and what the host and the memory devices answer. -/
theorem exec_of_stopped_reached {c : Instr} (hc : reachesStopped c = true) (hp : powerEvent c = false) :
    ∃ t, exec c s = .next t ∧ Frozen s t ∧ (carriesStores c = false → t.mem = s.mem ∧ t.hostErrs = s.hostErrs) := by
  have hr := State.running_stopped hs
  have hr' : ∀ p : Pins, ({ s with pins := p } : State).running = false := fun _ => hr
  cases c
  case perstNAssert =>
    refine ⟨({ s with pins := { s.pins with perstN := false } } : State).linkReset, ?_, ⟨rfl, rfl⟩, fun _ => ⟨rfl, rfl⟩⟩
    simp only [exec, execPerstNAssert, hr', Bool.not_false, Bool.true_or, if_true, ok]
  case perstNDeassert =>
    cases hpin : s.pins.perstN
    · refine ⟨{ s with pins := { s.pins with perstN := true } }, ?_, ⟨rfl, rfl⟩, fun _ => ⟨rfl, rfl⟩⟩
      simp [exec, execPerstNDeassert, hr', hpin, ok]
    · refine ⟨s, ?_, ⟨rfl, rfl⟩, fun _ => ⟨rfl, rfl⟩⟩
      simp only [exec, execPerstNDeassert, hpin, if_true, ok]
  case pwrbrkNAssert =>
    refine ⟨{ s with pins := { s.pins with pwrbrkN := false } }, ?_, ⟨rfl, rfl⟩, fun _ => ⟨rfl, rfl⟩⟩
    simp only [exec, execPwrbrkNAssert, hr', Bool.not_false, or_true, if_true, ok]
  case pwrbrkNDeassert => exact ⟨{ s with pins := { s.pins with pwrbrkN := true } }, rfl, ⟨rfl, rfl⟩, fun _ => ⟨rfl, rfl⟩⟩
  case sqTailDoorbell i k v st =>
    obtain ⟨hF, hv⟩ := State.hostStore_stopped hs i st
    exact ⟨s.hostStore i st, by simp [exec, execSqTailDoorbell, hv, ok], hF, nofun⟩
  case copyResumeDoorbell i k st =>
    obtain ⟨hF, hv⟩ := State.hostStore_stopped hs i st
    refine ⟨s.hostStore i st, ?_, hF, nofun⟩
    simp only [exec, execCopyResumeDoorbell, hv]
    split <;> rfl
  case powerGoodRise | powerGoodFall => cases hp
  all_goals cases hc

end

theorem State.endTick_stopped {s : State} (hs : s.stopped = true) : s.endTick = s := by
  simp [State.endTick, State.running_stopped hs]

/-- What is frozen stays tripped while no command of the supplies waits. -/
theorem Frozen.tripped {s t : State} (h : Frozen s t) (hs : s.tripped = true) : t.tripped = true := by
  obtain ⟨ht, hpin⟩ := h
  simp only [State.tripped, Bool.and_eq_true] at hs ⊢
  rw [hpin]
  rw [ht]
  exact hs

theorem State.idleTick_tripped (s : State) : (idleTick s).tripped = s.tripped := by
  unfold idleTick
  split <;> rfl

/-- Settles O33: the front command does nothing or reaches only what lies outside the blocks, and on an empty queue no
timer acts. -/
theorem thermalTripStopsEveryBlock : Obligations.ThermalTripStopsEveryBlock := by
  intro s s' htrip hstep
  have hall : s.stopped = true ∧ s.pins.thermtripN = false ∧ ∀ c ∈ s.pending, powerEvent c = false := by
    simpa [State.tripped, and_assoc] using htrip
  obtain ⟨hs, hpin, hq⟩ := hall
  unfold step at hstep
  split at hstep
  case h_1 c rest hpend =>
    have hpow : powerEvent c = false := hq c (by simp [hpend])
    have hs0 : ({ s with pending := rest } : State).stopped = true := hs
    have htrip0 : ({ s with pending := rest } : State).tripped = true := by
      simp_all [State.tripped]
    have hF : Frozen { s with pending := rest } s' ∧ (carriesStores c = false → s'.mem = s.mem ∧ s'.hostErrs = s.hostErrs) := by
      cases hc : reachesStopped c
      · rw [exec_of_stopped_unreached hs0 hc] at hstep
        cases hstep
        exact ⟨⟨rfl, rfl⟩, fun _ => ⟨rfl, rfl⟩⟩
      · obtain ⟨t, ht, hF, hm⟩ := exec_of_stopped_reached hs0 hc hpow
        rw [ht] at hstep
        cases hstep
        exact ⟨hF, hm⟩
    refine ⟨hF.1.tripped htrip0, fun c' rest' h => ?_, fun h => ?_⟩
    · rw [hpend] at h
      cases h
      exact hF
    · rw [hpend] at h
      cases h
  case h_2 hpend =>
    rw [State.endTick_stopped hs] at hstep
    cases hstep
    refine ⟨s.idleTick_tripped ▸ htrip, fun c rest h => ?_, fun _ => rfl⟩
    rw [hpend] at h
    cases h

end Sys2Proof.Machine
end

section
/-! SUPPORT. Engine instructions that complete: from the row of an instruction to what it gives the registers. -/
namespace Sys2Proof.Machine

/-- An instruction that completes under `ok` gives the registers its row computes. -/
theorem givesWhen_of_runEng {e : Nat} {c : Instr} {P : EngRun → Prop} {f : EngRun → EngRun}
    (F : EngRun → Leaf → State → EngOut) (h : ∀ s, exec c s = ok (runEng e c F s))
    (hF : ∀ r l s, P r → F (counted c r) l s = .next (f (counted c r)) s) : GivesWhen e c P f := by
  intro s r l hI hP
  rw [exec_issued hI (h s), hF r l s hP]
  rfl

/-- A row that only computes in registers gives what it computes. -/
theorem gives_of_runPure {e : Nat} {c : Instr} (f : EngRun → EngRun) (h : ∀ s, exec c s = ok (runPure e c f s)) :
    Gives e c f :=
  givesWhen_of_runEng _ h fun _ _ _ _ => rfl

/-- A row that admits some element widths gives what it computes at these widths. -/
theorem givesWhen_of_runWidth {e : Nat} {c : Instr} {ews : List Nat} {P : EngRun → Prop} (f : EngRun → EngRun)
    (h : ∀ s, exec c s = ok (runWidth e c ews f s)) (hP : ∀ r, P r → r.w ∈ ews) : GivesWhen e c P f :=
  givesWhen_of_runEng _ h fun r _ _ hr => if_pos (List.contains_iff_mem.mpr (hP r hr))

/-- The same result written another way. -/
theorem GivesWhen.congr {e : Nat} {c : Instr} {P : EngRun → Prop} {f g : EngRun → EngRun} (h : GivesWhen e c P f)
    (hfg : ∀ r, P r → f (counted c r) = g (counted c r)) : GivesWhen e c P g := fun s r l hI hP =>
  hfg r hP ▸ h s r l hI hP

/-- A row that refuses its operands fails the leaf with the row's status. -/
theorem failsWhen_of_runEng {e : Nat} {c : Instr} {P : EngRun → Prop} {st : Nat} (F : EngRun → Leaf → State → EngOut)
    (h : ∀ s, exec c s = ok (runEng e c F s)) (hF : ∀ r l s, P r → F (counted c r) l s = .fail st s) :
    FailsWhen e c P st := by
  intro s r l hI hP
  rw [exec_issued hI (h s), hF r l s hP]
  rfl

/-- A row fails its leaf at an element width that it does not allow (R103). -/
theorem failsWhen_of_runWidth {e : Nat} {c : Instr} {ews : List Nat} {P : EngRun → Prop} (f : EngRun → EngRun)
    (h : ∀ s, exec c s = ok (runWidth e c ews f s)) (hP : ∀ r, P r → r.w ∉ ews) : FailsWhen e c P 0x1001 :=
  failsWhen_of_runEng _ h fun r _ _ hr => if_neg (mt List.contains_iff_mem.mp (hP r hr))

end Sys2Proof.Machine
end

section
/-! SUPPORT. The scalar instructions: results, division corners, control values, branches and jumps (R99–R101, R109). -/
namespace Sys2Proof.Machine

/-- Settles O3: each word is written out, and the decoder computes. -/
theorem engineWordsOfTheSpecDecode : Obligations.EngineWordsOfTheSpecDecode := fun _ =>
  ⟨rfl, rfl, rfl, rfl, rfl, rfl, rfl, rfl, rfl, rfl⟩

theorem aluMin_eq (x y : Word) : aluMin x y = if y.toInt < x.toInt then y else x := by
  simp only [aluMin, ← Int.not_lt, ite_not]

theorem aluMinu_eq (x y : Word) : aluMinu x y = if y.toNat < x.toNat then y else x := by
  simp only [aluMinu, ← Nat.not_lt, ite_not]

/-- Settles O4: every row of MAJOR 0x00 computes in registers; MIN and MINU decide by the other comparison. -/
theorem scalarFunctionResults : Obligations.ScalarFunctionResults := by
  intro e d a b
  refine ⟨?_, ?_, ?_, ?_, ?_, ?_, ?_, ?_, ?_, ?_, ?_, ?_, ?_, ?_, ?_, ?_, ?_, ?min, ?_, ?minu, ?_, ?_, ?_, ?_⟩
  case min =>
    exact (gives_of_runPure _ fun _ => rfl).congr fun r _ => congrArg _ (aluMin_eq (r.rg a) (r.rg b))
  case minu =>
    exact (gives_of_runPure _ fun _ => rfl).congr fun r _ => congrArg _ (aluMinu_eq (r.rg a) (r.rg b))
  all_goals exact gives_of_runPure _ fun _ => rfl

/-- Signed quotient and remainder put the dividend together again, modulo 2^64. -/
theorem aluDiv_mul_add_aluRem {y : Word} (x : Word) (hy : y ≠ 0) : aluDiv x y * y + aluRem x y = x := by
  rw [aluDiv, aluRem, if_neg hy, if_neg hy]
  calc BitVec.ofInt 64 (x.toInt.tdiv y.toInt) * y + BitVec.ofInt 64 (x.toInt.tmod y.toInt)
      = BitVec.ofInt 64 (x.toInt.tdiv y.toInt * y.toInt + x.toInt.tmod y.toInt) := by
        rw [BitVec.ofInt_add, BitVec.ofInt_mul, BitVec.ofInt_toInt]
    _ = x := by rw [Int.tdiv_mul_add_tmod, BitVec.ofInt_toInt]

/-- Unsigned quotient and remainder put the dividend together again. -/
theorem aluDivu_mul_add_aluRemu {y : Word} (x : Word) (hy : y ≠ 0) : aluDivu x y * y + aluRemu x y = x := by
  rw [aluDivu, aluRemu, if_neg hy, if_neg hy]
  calc BitVec.ofNat 64 (x.toNat / y.toNat) * y + BitVec.ofNat 64 (x.toNat % y.toNat)
      = BitVec.ofNat 64 (x.toNat / y.toNat * y.toNat + x.toNat % y.toNat) := by
        rw [BitVec.ofNat_add, BitVec.ofNat_mul, BitVec.ofNat_toNat, BitVec.setWidth_eq]
    _ = x := by rw [Nat.div_add_mod', BitVec.ofNat_toNat, BitVec.setWidth_eq]

/-- The unsigned remainder lies below the divisor. -/
theorem aluRemu_lt {y : Word} (x : Word) (hy : y ≠ 0) : (aluRemu x y).toNat < y.toNat := by
  have hpos : 0 < y.toNat := Nat.pos_of_ne_zero fun h => hy (BitVec.eq_of_toNat_eq h)
  rw [aluRemu, if_neg hy, BitVec.toNat_ofNat]
  exact Nat.lt_of_le_of_lt (Nat.mod_le _ _) (Nat.mod_lt _ hpos)

/-- Settles O5: Euclid's identity for both pairs, and the corners by evaluation. -/
theorem divisionCornersOfTheScalarTable : Obligations.DivisionCornersOfTheScalarTable :=
  ⟨fun x _ hy => ⟨aluDiv_mul_add_aluRem x hy, aluDivu_mul_add_aluRemu x hy, aluRemu_lt x hy⟩, by decide, by decide,
    fun _ => ⟨rfl, rfl, rfl, rfl⟩⟩

/-- SHI shifts as IMM[7:6] names. -/
theorem shi_gives (e : Nat) (d a : BitVec 5) (imm : BitVec 16) (f : Word → Word)
    (h : ∀ x, shiftImm x imm = f x) : Gives e (.shi e d a imm) (fun r => r.wg d (f (r.rg a))) :=
  (gives_of_runPure _ fun _ => rfl).congr fun r _ => congrArg _ (h (r.rg a))

/-- Settles O6: every row computes in registers; SHI by its kind. -/
theorem immediateResults : Obligations.ImmediateResults := by
  intro e d a imm
  refine ⟨?_, ?_, ?_, ?_, ?_, ?_, ?_, ?_, fun h => ?left, fun h => ?right, fun h => ?arith⟩
  case left => exact shi_gives e d a imm (· <<< (imm.extractLsb' 0 6).toNat) fun x => by rw [shiftImm, h]; rfl
  case right => exact shi_gives e d a imm (· >>> (imm.extractLsb' 0 6).toNat) fun x => by rw [shiftImm, h]; rfl
  case arith => exact shi_gives e d a imm (·.sshiftRight (imm.extractLsb' 0 6).toNat) fun x => by rw [shiftImm, h]; rfl
  all_goals exact gives_of_runPure _ fun _ => rfl

/-- MFC of a control value that exists. -/
theorem mfc_gives (e : Nat) (d : BitVec 5) {imm : BitVec 16} {f : EngRun → Word}
    (h : ∀ r, r.control imm.toNat = some (f r)) : Gives e (.mfc e d imm) (fun r => r.wg d (f r)) :=
  givesWhen_of_runEng _ (fun _ => rfl) fun r _ _ _ => by simp [h]

/-- There is no control value above 9 (R99). -/
theorem EngRun.control_eq_none (r : EngRun) {n : Nat} (h : 9 < n) : r.control n = none := by
  obtain ⟨k, rfl⟩ := Nat.exists_eq_add_of_le' (show 10 ≤ n from h)
  rfl

/-- Settles O8: MFC by the table of control values, MTC by its two writable ones. -/
theorem controlValues : Obligations.ControlValues := by
  intro e d a
  refine ⟨?_, ?_, ?_, ?_, ?_, ?ovf, ?_, ?_, ?_, ?_, fun imm h => ?mfcFails, ?mtcSb, ?mtcOvf, fun imm h3 h5 => ?mtcFails⟩
  case ovf => exact mfc_gives e d fun r => by cases h : r.ovf <;> simp [EngRun.control, b2n, ofN, h]
  case mfcFails => exact failsWhen_of_runEng _ (fun _ => rfl) fun r _ _ _ => by simp [EngRun.control_eq_none _ h]
  case mtcSb => exact givesWhen_of_runEng _ (fun _ => rfl) fun _ _ _ _ => rfl
  case mtcOvf => exact givesWhen_of_runEng _ (fun _ => rfl) fun _ _ _ _ => rfl
  case mtcFails => exact failsWhen_of_runEng _ (fun _ => rfl) fun _ _ _ _ => (if_neg h3).trans (if_neg h5)
  all_goals exact mfc_gives e d fun _ => rfl

/-- A conditional branch whose row decides by `cond`. -/
theorem branches_of_runBranch {e : Nat} {c : Instr} {a b : BitVec 5} {off : BitVec 16} {cond : Word → Word → Prop}
    (f : Word → Word → Bool) (h : ∀ s, exec c s = ok (runBranch e c a b off f s)) (hf : ∀ x y, f x y = true ↔ cond x y) :
    Branches e c a b off cond := by
  intro s r l hI
  rw [exec_issued hI (h s)]
  refine ⟨fun hno => ?_, fun hyes ⟨hexit, halign, hend⟩ => ?_⟩
  · have hb : f (r.rg a) (r.rg b) = false := (Bool.not_eq_true _).mp (mt (hf _ _).mp hno)
    simp [hb, EngOut.next, State.stepTo, State.endInstr]
  · have hb : f (r.rg a) (r.rg b) = true := (hf _ _).mpr hyes
    simp only [counted_rg_, hb, if_true]
    exact congrArg _ (endInstr_jump hexit halign hend)

/-- Settles O9: the branches by their comparison, the jumps by where their target lies. -/
theorem branchesAndJumps : Obligations.BranchesAndJumps := by
  intro e a b d off joff
  refine ⟨?_, ?_, ?_, ?_, ?_, ?_, fun s r l hI => ⟨fun hT => ?_, fun hx hT => ?_⟩, fun s r l hI hT => ?_, fun s r l hI hT => ?_⟩
  · exact branches_of_runBranch _ (fun _ => rfl) fun x y => beq_iff_eq
  · exact branches_of_runBranch _ (fun _ => rfl) fun x y => bne_iff_ne
  · exact branches_of_runBranch _ (fun _ => rfl) fun x y => decide_eq_true_iff
  · exact branches_of_runBranch _ (fun _ => rfl) fun x y => decide_eq_true_iff
  · exact branches_of_runBranch _ (fun _ => rfl) fun x y => decide_eq_true_iff
  · exact branches_of_runBranch _ (fun _ => rfl) fun x y => decide_eq_true_iff
  · rw [exec_issued hI rfl]
    exact congrArg _ (endInstr_jump hT.1 hT.2.1 hT.2.2)
  · rw [exec_issued hI rfl]
    simp only [JumpInside, not_and] at hT
    exact congrArg _ ((if_neg hx).trans (if_neg fun h => hT hx h.1 h.2))
  · rw [exec_issued hI rfl]
    exact congrArg _ (endInstr_jump hT.1 hT.2.1 hT.2.2)
  · rw [exec_issued hI rfl]
    exact congrArg _ (endInstr_jump hT.1 hT.2.1 hT.2.2)

end Sys2Proof.Machine
end

section
/-! SUPPORT. The vector, mask and accumulator instructions give what their rows say (R101–R104, R109–R112, R115–R118). -/
namespace Sys2Proof.Machine

/-- A row that writes a masked element-wise result gives every element of it (R102). -/
theorem GivesWhen.elements {e : Nat} {c : Instr} {d : BitVec 5} {m : BitVec 1} {mk : BitVec 3} {P : EngRun → Prop}
    {pre : EngRun → EngRun} {f g : EngRun → Nat → Nat}
    (h : GivesWhen e c P (fun r => (pre r).wv d (r.mapV m mk (r.rv d) (f r))))
    (hfg : ∀ r i, P r → f (counted c r) i % 2 ^ r.w = g r i % 2 ^ r.w) : GivesElements e c d m mk P pre g := by
  intro s r l hI hP
  refine ⟨_, h s r l hI hP, fun i hi => ?_⟩
  rw [← hfg r i hP]
  exact (counted c r).elem_mapV m mk _ _ i hi

/-- A row of two operands at any element width. -/
theorem givesElements_of_vec2 {e : Nat} {c : Instr} {d a b : BitVec 5} {m : BitVec 1} {mk : BitVec 3} {s : BitVec 1}
    {f : Nat → Nat → Nat → Nat} {g : EngRun → Nat → Nat}
    (h : ∀ st, exec c st = ok (runPure e c (fun r => r.vec2 d a b m mk s (f r.w)) st))
    (hfg : ∀ r i, f r.w (elem (r.rv a) r.w i) (r.bElem s b i) = g r i) :
    GivesElements e c d m mk (fun _ => True) id g :=
  (gives_of_runPure _ h).elements fun r i _ => congrArg (· % 2 ^ r.w) (hfg r i)

/-- Settles O10: every row writes an element-wise result; the shifts are products and quotients by powers of two. -/
theorem vectorIntegerElements : Obligations.VectorIntegerElements := by
  intro e d a b m mk s
  refine ⟨?_, ?_, ?_, ?_, ?_, ?_, ?vsll, ?vsrl, ?_, ?_, ?_, ?_, ?_, ?vmv, ?vbcast⟩
  case vsll => exact givesElements_of_vec2 (fun _ => rfl) fun r i => Nat.shiftLeft_eq _ _
  case vsrl => exact givesElements_of_vec2 (fun _ => rfl) fun r i => Nat.shiftRight_eq_div_pow _ _
  case vmv => exact (gives_of_runPure _ fun _ => rfl).elements fun _ _ _ => rfl
  case vbcast => exact (gives_of_runPure _ fun _ => rfl).elements fun r i _ => Nat.mod_mod _ _
  all_goals exact givesElements_of_vec2 (fun _ => rfl) fun _ _ => rfl

/-- OVF is no operand: the checked row writes the elements of the unchecked one. -/
theorem EngRun.vec2_check2 (r : EngRun) (d a b : BitVec 5) (m : BitVec 1) (mk : BitVec 3) (s : BitVec 1)
    (ex : Nat → Nat → Bool) (f : Nat → Nat → Nat) :
    (r.check2 a b m mk s ex).vec2 d a b m mk s f =
      ({ r with ovf := r.ovf || (r.actives m mk).any fun i => ex (elem (r.rv a) r.w i) (r.bElem s b i) } : EngRun).wv d
        (r.mapV m mk (r.rv d) fun i => f (elem (r.rv a) r.w i) (r.bElem s b i)) := rfl

/-- A checked row: the result of the unchecked one, and OVF of the operands. -/
theorem givesElements_of_check2 {e : Nat} {c : Instr} {d a b : BitVec 5} {m : BitVec 1} {mk : BitVec 3} {s : BitVec 1}
    (ex : EngRun → Nat → Nat → Bool) (f : Nat → Nat → Nat → Nat)
    (h : ∀ st, exec c st = ok (runPure e c (fun r => (r.check2 a b m mk s (ex r)).vec2 d a b m mk s (f r.w)) st)) :
    GivesElements e c d m mk (fun _ => True)
      (fun r => { r with ovf := r.ovf || (r.actives m mk).any fun i => ex r (elem (r.rv a) r.w i) (r.bElem s b i) })
      (fun r i => f r.w (elem (r.rv a) r.w i) (r.bElem s b i)) := by
  simp only [EngRun.vec2_check2] at h
  exact (gives_of_runPure _ h).elements
    (f := fun r i => f r.w (elem (r.rv a) r.w i) (r.bElem s b i)) fun _ _ _ => rfl

/-- Settles O11: the five rows are checked rows. -/
theorem checkedVectorArithmetic : Obligations.CheckedVectorArithmetic := by
  intro e d a b m mk s
  refine ⟨?_, ?_, ?_, ?_, ?_⟩
  · exact givesElements_of_check2 (fun r x y => ovfSigned r.w (signed x r.w + signed y r.w)) veltVadd fun _ => rfl
  · exact givesElements_of_check2 (fun r x y => ovfUnsigned r.w ((x : Int) + y)) veltVadd fun _ => rfl
  · exact givesElements_of_check2 (fun r x y => ovfSigned r.w (signed x r.w - signed y r.w)) veltVsub fun _ => rfl
  · exact givesElements_of_check2 (fun r x y => ovfUnsigned r.w ((x : Int) - y)) veltVsub fun _ => rfl
  · exact givesElements_of_check2 (fun r x y => ovfSigned r.w (signed x r.w * signed y r.w)) veltVmul fun _ => rfl

theorem mem_floatWidths {w : Nat} : w ∈ [32, 64] ↔ w = 32 ∨ w = 64 := by simp

/-- A row of two operands at the float widths. -/
theorem givesElements_of_floatVec2 {e : Nat} {c : Instr} {d a b : BitVec 5} {m : BitVec 1} {mk : BitVec 3}
    {s : BitVec 1} (f : Fmt → Nat → Nat → Nat)
    (h : ∀ st, exec c st = ok (runWidth e c [32, 64] (fun r => r.vec2 d a b m mk s (f (fmtOf r.w))) st)) :
    GivesElements e c d m mk (fun r => r.w = 32 ∨ r.w = 64) id
      (fun r i => f (fmtOf r.w) (elem (r.rv a) r.w i) (r.bElem s b i)) :=
  (givesWhen_of_runWidth _ h fun _ => mem_floatWidths.mpr).elements fun _ _ _ => rfl

/-- The sign bit of a float of an admitted width is its highest. -/
theorem signBit_fmtOf {w : Nat} (h : w = 32 ∨ w = 64) : (fmtOf w).signBit = 2 ^ (w - 1) := by
  rcases h with rfl | rfl <;> rfl

/-- Inverting the highest bit of a number of `k + 1` bits is an exclusive or. -/
theorem invert_bit_eq_xor {x k : Nat} (h : x < 2 ^ (k + 1)) :
    (if !bitAt x k then 2 ^ k else 0) + x % 2 ^ k = x ^^^ 2 ^ k := by
  have hlow : x % 2 ^ k < 2 ^ k := Nat.mod_lt _ (Nat.two_pow_pos k)
  have hbit : bitAt x k = x.testBit k := by simp [bitAt, Nat.testBit, Nat.and_comm]
  have hsum : (if !bitAt x k then 2 ^ k else 0) = 2 ^ k * (!x.testBit k).toNat := by
    rw [hbit]; cases x.testBit k <;> simp
  refine Nat.eq_of_testBit_eq fun i => ?_
  rw [hsum, Nat.testBit_two_pow_mul_add _ hlow, Nat.testBit_xor, Nat.testBit_two_pow, Nat.testBit_mod_two_pow]
  rcases Nat.lt_trichotomy i k with hi | rfl | hi
  · simp [hi, Nat.ne_of_gt hi]
  · cases x.testBit i <;> simp
  · have hx : x.testBit i = false := Nat.testBit_lt_two_pow (Nat.lt_of_lt_of_le h (Nat.pow_le_pow_right (by decide) hi))
    have hb : (!x.testBit k).toNat.testBit (i - k) = false :=
      Nat.testBit_lt_two_pow (Nat.lt_of_lt_of_le (Bool.toNat_lt _) (Nat.le_self_pow (Nat.sub_ne_zero_of_lt hi) 2))
    simp [Nat.lt_asymm hi, Nat.ne_of_lt hi, hx, hb]

theorem fmtOf_negate {w x : Nat} (hw : w = 32 ∨ w = 64) (hx : x < 2 ^ w) : (fmtOf w).negate x = x ^^^ 2 ^ (w - 1) := by
  rcases hw with rfl | rfl <;> exact invert_bit_eq_xor hx

theorem elem_lt (v : BitVec 512) (w i : Nat) : elem v w i < 2 ^ w := Nat.mod_lt _ (Nat.two_pow_pos w)

/-- Settles O12: the two-operand rows compute the format's operations; VFABS and VFNEG touch the highest bit alone. -/
theorem vectorFloatElements : Obligations.VectorFloatElements := by
  intro e d a b m mk s
  refine ⟨?_, ?_, ?_, ?_, ?_, ?_, ?fabs, ?fneg, ?fails⟩
  · exact givesElements_of_floatVec2 Fmt.add fun _ => rfl
  · exact givesElements_of_floatVec2 Fmt.sub fun _ => rfl
  · exact givesElements_of_floatVec2 Fmt.mul fun _ => rfl
  · exact givesElements_of_floatVec2 Fmt.div fun _ => rfl
  · exact givesElements_of_floatVec2 Fmt.fmin fun _ => rfl
  · exact givesElements_of_floatVec2 Fmt.fmax fun _ => rfl
  case fabs =>
    refine (givesWhen_of_runWidth _ (fun _ => rfl) fun _ => mem_floatWidths.mpr).elements fun r i hw => ?_
    exact congrArg (elem (r.rv a) r.w i % · % 2 ^ r.w) (signBit_fmtOf hw)
  case fneg =>
    refine (givesWhen_of_runWidth _ (fun _ => rfl) fun _ => mem_floatWidths.mpr).elements fun r i hw => ?_
    exact congrArg (· % 2 ^ r.w) (fmtOf_negate hw (elem_lt (r.rv a) r.w i))
  case fails => exact failsWhen_of_runWidth _ (fun _ => rfl) fun r hr => by simpa using hr

/-- Settles O13: the rows at a width they allow, and what the pair forms and VUNPK refuse. -/
theorem conversionElements : Obligations.ConversionElements := by
  intro e d a b m mk s
  have wide : ∀ {w : Nat}, w = 16 ∨ w = 32 ∨ w = 64 ∨ w = 128 → w ∈ [16, 32, 64, 128] := fun h => by simpa using h
  refine ⟨?widenS, ?widenU, ?narrow, ?cvtIf, ?cvtFi, ?cvtSd, ?cvtDs, ?unpk, ?narrowFails, ?cvtDsFails, ?unpkFails⟩
  case widenS => exact (givesWhen_of_runWidth _ (fun _ => rfl) fun _ => wide).elements fun _ _ _ => rfl
  case widenU => exact (givesWhen_of_runWidth _ (fun _ => rfl) fun _ => wide).elements fun _ _ _ => rfl
  case cvtIf =>
    exact (givesWhen_of_runWidth _ (fun _ => rfl) fun _ => mem_floatWidths.mpr).elements fun _ _ _ => rfl
  case cvtFi =>
    exact (givesWhen_of_runWidth _ (fun _ => rfl) fun _ => mem_floatWidths.mpr).elements fun _ _ _ => rfl
  case cvtSd =>
    exact (givesWhen_of_runWidth _ (fun _ => rfl) fun _ => List.mem_singleton.mpr).elements fun _ _ _ => rfl
  case narrow =>
    exact (givesWhen_of_runEng _ (fun _ => rfl) fun r _ _ h => if_neg (not_or.mpr h)).elements
      (f := fun r i => r.pairElem a i) fun _ _ _ => rfl
  case cvtDs =>
    exact (givesWhen_of_runEng _ (fun _ => rfl) fun r _ _ h =>
      if_neg (not_or.mpr ⟨h.1, not_not_intro h.2⟩)).elements
      (f := fun r i => f64.convert f32 (r.pairElem a i)) fun _ _ _ => rfl
  case unpk =>
    exact (givesWhen_of_runEng _ (fun _ => rfl) fun r _ _ h => if_neg h).elements
      (f := fun r i => (r.rv a).toNat >>> (i * ((r.rg b).toNat % 128)) % 2 ^ ((r.rg b).toNat % 128)) fun r i _ =>
      congrArg (· % 2 ^ ((r.rg b).toNat % 128) % 2 ^ r.w) (Nat.shiftRight_eq_div_pow _ _)
  case narrowFails => exact failsWhen_of_runEng _ (fun _ => rfl) fun _ _ _ h => if_pos (.inl h)
  case cvtDsFails => exact failsWhen_of_runEng _ (fun _ => rfl) fun _ _ _ h => if_pos (.inl h)
  case unpkFails => exact failsWhen_of_runEng _ (fun _ => rfl) fun _ _ _ h => if_pos h

/-- The element widths of the codes 0 to 4 (R99). -/
theorem EngRun.w_mem (r : EngRun) (h : r.ew ≤ 4) : r.w ∈ [8, 16, 32, 64, 128] := by
  have hall : ∀ k < 5, ewBits k ∈ [8, 16, 32, 64, 128] := by decide
  exact hall r.ew (Nat.lt_succ_of_le h)

/-- A comparison is admitted at the widths of its kind (R110). -/
theorem mem_cmpWidths {r : EngRun} {kind : BitVec 2} (h2 : kind = 2 → r.w = 32 ∨ r.w = 64) (h3 : kind = 3 → r.w = 128)
    (hew : r.ew ≤ 4) : r.w ∈ cmpWidths kind.toNat := by
  match kind with
  | 0 => exact r.w_mem hew
  | 1 => exact r.w_mem hew
  | 2 => exact mem_floatWidths.mpr (h2 rfl)
  | 3 => exact List.mem_singleton.mpr (h3 rfl)

/-- The comparison that a kind names (R110). -/
theorem cmpElem_eq (kind : BitVec 2) (cond w x y : Nat) : cmpElem kind.toNat cond w x y =
    if kind = 0 then intCond cond (signed x w) (signed y w)
    else if kind = 1 then intCond cond x y
    else if kind = 2 then (fmtOf w).compare cond x y
    else intCond cond (ofBe (leBytes 16 x)) (ofBe (leBytes 16 y)) :=
  match kind with
  | 0 => rfl
  | 1 => rfl
  | 2 => rfl
  | 3 => rfl

/-- Settles O14: the mask that VCMP makes has the bits of its comparison. -/
theorem compareToMask : Obligations.CompareToMask := by
  intro e d a b m mk s kind cond st r l hI h2 h3 hew x y holds
  have hgives := givesWhen_of_runWidth (P := fun r => r.w ∈ cmpWidths kind.toNat) _
    (fun _ => rfl : ∀ st, exec (.vcmp e d a b m mk s kind cond) st = ok (runWidth e _ (cmpWidths kind.toNat) _ st))
    (fun _ h => h)
  refine ⟨_, hgives st r l hI (mem_cmpWidths h2 h3 hew), fun i hi => ?_⟩
  rw [maskOf_bit _ _ hi]
  exact congrArg (r.active m mk i && ·) (cmpElem_eq kind cond.toNat r.w (x i) (y i))

/-- Settles O15: every row computes in registers; the low mask is bit by bit. -/
theorem maskFunctionResults : Obligations.MaskFunctionResults := by
  intro e d a b g
  refine ⟨?_, ?_, ?_, ?_, ?_, ?_, ?_, ?_, ?_, ?_, fun n i hi => maskOf_bit _ i hi⟩
  all_goals exact gives_of_runPure _ fun _ => rfl

section
variable {α : Type} {le : α → α → Bool}

theorem insertBy_perm (x : α) (l : List α) : (insertBy le x l).Perm (x :: l) := by
  induction l with
  | nil => exact .refl _
  | cons y r ih =>
    rw [insertBy]
    split
    · exact (ih.cons y).trans (.swap x y r)
    · exact .refl _

/-- Insertion keeps a list sorted by any transitive order that holds wherever insertion stops or goes on. -/
theorem insertBy_pairwise {R : α → α → Prop} (htrans : ∀ {x y z}, R x y → R y z → R x z) (x : α) (l : List α)
    (hbefore : ∀ y ∈ l, le y x = true → R y x) (hafter : ∀ y ∈ l, le y x = false → R x y) (hl : l.Pairwise R) :
    (insertBy le x l).Pairwise R := by
  induction l with
  | nil => exact List.pairwise_singleton _ _
  | cons y r ih =>
    obtain ⟨hy, hr⟩ := List.pairwise_cons.mp hl
    rw [insertBy]
    split
    next h =>
      refine List.pairwise_cons.mpr ⟨fun z hz => ?_, ih (fun z hz => hbefore z (.tail _ hz)) (fun z hz => hafter z (.tail _ hz)) hr⟩
      rcases List.mem_cons.mp ((insertBy_perm x r).subset hz) with rfl | hz
      · exact hbefore y List.mem_cons_self h
      · exact hy z hz
    next h =>
      have hxy := hafter y List.mem_cons_self ((Bool.not_eq_true _).mp h)
      refine List.pairwise_cons.mpr ⟨fun z hz => ?_, hl⟩
      rcases List.mem_cons.mp hz with rfl | hz
      · exact hxy
      · exact htrans hxy (hy z hz)

end

/-- One more element is inserted last. -/
theorem sortBy_concat {α : Type} (le : α → α → Bool) (l : List α) (x : α) :
    sortBy le (l ++ [x]) = insertBy le x (sortBy le l) := by
  rw [sortBy, sortBy, List.foldl_append]
  rfl

theorem sortBy_perm {α : Type} (le : α → α → Bool) (l : List α) : (sortBy le l).Perm l := by
  rw [← List.reverse_reverse l]
  induction l.reverse with
  | nil => exact .refl _
  | cons x l ih =>
    rw [List.reverse_cons, sortBy_concat]
    exact (insertBy_perm x _).trans ((ih.cons x).trans (List.perm_append_singleton x _).symm)

/-- Numbers sorted by a key stand in the order of their keys, and of the numbers where keys are equal. -/
theorem sortBy_range_pairwise (key : Nat → Nat) (n : Nat) :
    (sortBy (fun i j => decide (key i ≤ key j)) (List.range n)).Pairwise
      (fun i j => key i < key j ∨ (key i = key j ∧ i < j)) := by
  induction n with
  | zero => exact .nil
  | succ n ih =>
    rw [List.range_succ, sortBy_concat]
    have hlt : ∀ y ∈ sortBy (fun i j => decide (key i ≤ key j)) (List.range n), y < n :=
      fun y hy => List.mem_range.mp ((sortBy_perm _ _).subset hy)
    refine insertBy_pairwise (fun h1 h2 => ?_) n _ (fun y hy h => ?_) (fun y hy h => ?_) ih
    · omega
    · have := hlt y hy
      have := of_decide_eq_true h
      omega
    · exact .inl (Nat.not_le.mp (of_decide_eq_false h))

/-- Settles O16: the rows place elements by `setElems`, the sorts in the order of `sortBy`. -/
theorem rearrangementElements : Obligations.RearrangementElements := by
  intro e d a b m mk
  refine ⟨?_, ?_, ?scan, ?_, ?_, ?ext, ?ins, ?extFails, ?insFails,
    fun r => ⟨sortBy_perm _ _, sortBy_range_pairwise _ _⟩, fun w old ps i hw hi => elem_setElems w hw old ps i hi⟩
  case scan =>
    exact (gives_of_runPure _ fun _ => rfl).elements fun r i _ =>
      congrArg (· % 2 ^ r.w) (List.sum_eq_foldl ..).symm
  case ext => exact givesWhen_of_runEng _ (fun _ => rfl) fun r _ _ h => if_neg (Nat.not_le.mpr h)
  case ins => exact givesWhen_of_runEng _ (fun _ => rfl) fun r _ _ h => if_neg (Nat.not_le.mpr h)
  case extFails => exact failsWhen_of_runEng _ (fun _ => rfl) fun _ _ _ h => if_pos h
  case insFails => exact failsWhen_of_runEng _ (fun _ => rfl) fun _ _ _ h => if_pos h
  all_goals exact gives_of_runPure _ fun _ => rfl

/-- Settles O17: both rows hash element by element, at the widths they allow. -/
theorem hashElements : Obligations.HashElements := by
  intro e d a b m mk s
  refine ⟨?hashc, ?hashm64, ?hashm32, ?hashcFails, ?hashmFails⟩
  case hashc =>
    exact (givesWhen_of_runWidth _ (fun _ => rfl) fun r h => by simpa using h).elements fun _ _ _ => rfl
  case hashm64 =>
    refine (givesWhen_of_runWidth _ (fun _ => rfl) fun r h => by simp [h]).elements fun r i h => ?_
    have hr : elem (r.rv a) r.w i * r.seed s b i % 2 ^ 64 % 2 ^ r.w = elem (r.rv a) r.w i * r.seed s b i % 2 ^ r.w := by
      rw [h, Nat.mod_mod]
    exact (congrArg (· % 2 ^ r.w) (if_pos h)).trans hr
  case hashm32 =>
    refine (givesWhen_of_runWidth _ (fun _ => rfl) fun r h => by simp [h]).elements fun r i h => ?_
    exact congrArg (· % 2 ^ r.w) (if_neg fun h64 => absurd (h.symm.trans h64) (by decide))
  case hashcFails => exact failsWhen_of_runWidth _ (fun _ => rfl) fun r h => by simpa using h
  case hashmFails => exact failsWhen_of_runWidth _ (fun _ => rfl) fun r h => by simpa using h

/-- Settles O18: the rows compute on the accumulator register, at the widths they allow. -/
theorem accumulatorResults : Obligations.AccumulatorResults := by
  intro e g v u d a m mk s
  refine ⟨?_, ?addf, ?_, ?macf, ?_, ?_, ?_, ?rdw, ?rdwFails⟩
  case addf => exact givesWhen_of_runWidth _ (fun _ => rfl) fun _ => mem_floatWidths.mpr
  case macf => exact givesWhen_of_runWidth _ (fun _ => rfl) fun _ => List.mem_singleton.mpr
  case rdw => exact givesWhen_of_runEng _ (fun _ => rfl) fun r _ _ h => if_neg (Nat.not_lt.mpr h)
  case rdwFails => exact failsWhen_of_runEng _ (fun _ => rfl) fun _ _ _ h => if_pos h
  all_goals exact gives_of_runPure _ fun _ => rfl

end Sys2Proof.Machine
end

section
/-! SUPPORT. The frame of the instructions that only compute in registers (R99, R109–R118). -/
namespace Sys2Proof.Machine

/-- What a row may do to the registers: it keeps the registers outside `ds`, the address and the counted steps. -/
structure RegStep (ds : List RegName) (r r' : EngRun) : Prop where
  keeps : KeepsOthers ds r r'
  pc    : r'.pc = r.pc
  steps : r'.steps = r.steps

theorem RegStep.same (ds : List RegName) (r : EngRun) : RegStep ds r r := ⟨.same ds r, rfl, rfl⟩

section
variable {ds : List RegName} {r0 r : EngRun}

theorem RegStep.wg {d : BitVec 5} {x : Word} (h : RegName.g d ∈ ds) (h0 : RegStep ds r0 r) : RegStep ds r0 (r.wg d x) :=
  ⟨h0.keeps.wg d x h, (r.wg_pc d x).trans h0.pc, (r.wg_steps d x).trans h0.steps⟩

theorem RegStep.wv {d : BitVec 5} {x : BitVec 512} (h : RegName.v d ∈ ds) (h0 : RegStep ds r0 r) :
    RegStep ds r0 (r.wv d x) :=
  ⟨h0.keeps.wv d x h, h0.pc, h0.steps⟩

theorem RegStep.wm {d : BitVec 3} {x : Word} (h : RegName.m d ∈ ds) (h0 : RegStep ds r0 r) : RegStep ds r0 (r.wm d x) :=
  ⟨h0.keeps.wm d x h, h0.pc, h0.steps⟩

theorem RegStep.wa {d : BitVec 2} {x : ExactAcc} (h : RegName.a d ∈ ds) (h0 : RegStep ds r0 r) :
    RegStep ds r0 (r.wa d x) :=
  ⟨h0.keeps.wa d x h, h0.pc, h0.steps⟩

theorem RegStep.setOvf (b : Bool) (h : RegName.ovf ∈ ds) (h0 : RegStep ds r0 r) :
    RegStep ds r0 { r with ovf := b } :=
  ⟨{ h0.keeps with rest := by rw [h0.keeps.rest], ovf := fun hn => absurd h hn }, h0.pc, h0.steps⟩

theorem RegStep.setSb (x : Word) (h : RegName.sb ∈ ds) (h0 : RegStep ds r0 r) : RegStep ds r0 { r with sb := x } :=
  ⟨{ h0.keeps with rest := by rw [h0.keeps.rest], sink := fun hn => absurd h hn }, h0.pc, h0.steps⟩

theorem RegStep.setLength (ew vlen vl : Nat) (h : RegName.vl ∈ ds) (h0 : RegStep ds r0 r) :
    RegStep ds r0 { r with ew := ew, vlen := vlen, vl := vl } :=
  ⟨{ h0.keeps with rest := by rw [h0.keeps.rest], length := fun hn => absurd h hn }, h0.pc, h0.steps⟩

end

/-- Where a register instruction leads: to a failed leaf, or past itself with its destinations written. -/
def RegOutcome (ds : List RegName) (r : EngRun) (s : State) (o : EngOut) : Prop :=
  o = .fail 0x1001 s ∨ o = .fail 0x1002 s ∨ ∃ r', o = .next r' s ∧ RegStep ds r r'

/-- The frame of an instruction `c` of engine `e` that writes the registers `ds`. -/
def Framed (e : Nat) (c : Instr) (ds : List RegName) : Prop :=
  ∀ (s t : State) (r : EngRun) (l : Leaf), Issued s e c r l → exec c s = .next t →
    (t = s.failAt l 0x1001 0 ∨ t = s.failAt l 0x1002 0) ∨
    ((∃ r', t.engRun e = some r' ∧ KeepsOthers ds r r' ∧ r'.rg 0 = 0 ∧ r'.pc = r.pc + 4 ∧
        r'.steps = r.steps + engCost c r) ∧
      (∀ j, j ≠ e → t.engOf j = s.engOf j) ∧ (∀ a, Mem.read t.mem a = Mem.read s.mem a) ∧ t = { s with eng := t.eng })

/-- A row whose every outcome is a `RegOutcome` frames its instruction. -/
theorem framed_of_runEng {e : Nat} {c : Instr} {ds : List RegName} (F : EngRun → Leaf → State → EngOut)
    (h : ∀ s, exec c s = ok (runEng e c F s)) (hF : ∀ r l s, RegOutcome ds r s (F r l s)) : Framed e c ds := by
  intro s t r l hI ht
  rw [exec_issued hI (h s)] at ht
  obtain rfl := Host.Outcome.next.inj ht
  rcases hF (counted c r) l s with hfail | hfail | ⟨r', hnext, hstep⟩
  · exact .inl (.inl (by rw [hfail]; rfl))
  · exact .inl (.inr (by rw [hfail]; rfl))
  · rw [hnext, endInstr_next]
    refine .inr ⟨⟨{ r' with pc := r'.pc + 4 }, ?_, ?_, rfl, congrArg (· + 4) hstep.pc, hstep.steps⟩,
      fun j hj => State.engOf_updEng_ne _ _ _ _ hj, fun _ => rfl, rfl⟩
    · exact State.engRun_setRun_same ..
    · exact { hstep.keeps with rest := by rw [hstep.keeps.rest]; rfl }

theorem framed_of_runPure {e : Nat} {c : Instr} {ds : List RegName} (f : EngRun → EngRun)
    (h : ∀ s, exec c s = ok (runPure e c f s)) (hf : ∀ r, RegStep ds r (f r)) : Framed e c ds :=
  framed_of_runEng _ h fun r _ _ => .inr (.inr ⟨_, rfl, hf r⟩)

theorem framed_of_runWidth {e : Nat} {c : Instr} {ds : List RegName} {ews : List Nat} (f : EngRun → EngRun)
    (h : ∀ s, exec c s = ok (runWidth e c ews f s)) (hf : ∀ r, RegStep ds r (f r)) : Framed e c ds :=
  framed_of_runEng _ h fun r _ s => by
    by_cases hw : ews.contains r.w = true
    · exact .inr (.inr ⟨_, if_pos hw, hf r⟩)
    · exact .inl (if_neg hw)

/-- A row that refuses some operands with a status and else computes. -/
theorem framed_of_guard {e : Nat} {c : Instr} {ds : List RegName} {bad : EngRun → Prop} [DecidablePred bad] {st : Nat}
    (hst : st = 0x1001 ∨ st = 0x1002) (f : EngRun → EngRun)
    (h : ∀ s, exec c s = ok (runEng e c (fun r _ s => if bad r then .fail st s else .next (f r) s) s))
    (hf : ∀ r, RegStep ds r (f r)) : Framed e c ds :=
  framed_of_runEng _ h fun r _ s => by
    by_cases hb : bad r
    · rcases hst with rfl | rfl
      · exact .inl (if_pos hb)
      · exact .inr (.inl (if_pos hb))
    · exact .inr (.inr ⟨_, if_neg hb, hf r⟩)

theorem framed_setvl (e : Nat) (d a : BitVec 5) (imm : BitVec 16) : Framed e (.setvl e d a imm) [.g d, .vl] :=
  framed_of_runEng _ (fun _ => rfl) fun r l s => by
    by_cases h : 4 < (imm.extractLsb' 0 3).toNat ∨ (imm.extractLsb' 3 2).toNat = 3
    · exact .inl (by rw [EngRun.setvl, if_pos h])
    · refine .inr (.inr ⟨_, by rw [EngRun.setvl, if_neg h], ?_⟩)
      exact ((RegStep.same _ r).setLength _ _ _ (by simp)).wg (by simp)

theorem framed_mfc (e : Nat) (d : BitVec 5) (imm : BitVec 16) : Framed e (.mfc e d imm) [.g d] :=
  framed_of_runEng _ (fun _ => rfl) fun r l s => by
    cases r.control imm.toNat with
    | none => exact .inl rfl
    | some x => exact .inr (.inr ⟨_, rfl, (RegStep.same _ r).wg (by simp)⟩)

theorem framed_mtc (e : Nat) (a : BitVec 5) (imm : BitVec 16) :
    Framed e (.mtc e a imm) (if imm = 3 then [.sb] else [.ovf]) :=
  framed_of_runEng _ (fun _ => rfl) fun r l s => by
    by_cases h3 : imm = 3
    · exact .inr (.inr ⟨_, if_pos h3, (RegStep.same _ r).setSb _ (by rw [if_pos h3]; simp)⟩)
    by_cases h5 : imm = 5
    · exact .inr (.inr ⟨_, (if_neg h3).trans (if_pos h5), (RegStep.same _ r).setOvf _ (by rw [if_neg h3]; simp)⟩)
    · exact .inl ((if_neg h3).trans (if_neg h5))

/-- A checked row writes its vector register and OVF. -/
theorem RegStep.check2 {r : EngRun} {d a b : BitVec 5} {m : BitVec 1} {mk : BitVec 3} {s : BitVec 1}
    {ex : Nat → Nat → Bool} {f : Nat → Nat → Nat} :
    RegStep [.v d, .ovf] r ((r.check2 a b m mk s ex).vec2 d a b m mk s f) :=
  ((RegStep.same _ r).setOvf _ (by simp)).wv (by simp)

/-- Settles O60: every row is a write of its destinations, under the guard of its operands or widths. -/
theorem frameOfRegisterInstructions : Obligations.FrameOfRegisterInstructions := by
  intro s t c e ds r l hd hI ht
  suffices Framed e c ds from this s t r l hI ht
  clear hI ht
  cases c
  case setvl => cases hd; exact framed_setvl _ _ _ _
  case mfc => cases hd; exact framed_mfc _ _ _
  case mtc => cases hd; exact framed_mtc _ _ _
  case add | sub | and | or | xor | sll | srl | sra | mul | mulh | mulhu | div | divu | rem | remu | slt | sltu | min | max
      | minu | maxu | clz | ctz | popc | addi | andi | ori | xori | slti | sltiu | lsh | li | shi | mpop | mffs | mtog | xrnd
      | xrnds =>
    cases hd
    exact framed_of_runPure _ (fun _ => rfl) fun r => (RegStep.same _ r).wg (List.mem_singleton.mpr rfl)
  case vadd | vsub | vmul | vand | vor | vxor | vsll | vsrl | vsra | vmin | vmax | vminu | vmaxu | vmv | vbcast | vcmprs
      | vexpnd | vscan | vsort =>
    cases hd
    exact framed_of_runPure _ (fun _ => rfl) fun r => (RegStep.same _ r).wv (List.mem_singleton.mpr rfl)
  case vfadd | vfsub | vfmul | vfdiv | vfmin | vfmax | vfabs | vfneg | vwidenS | vwidenU | vcvtIf | vcvtFi | vcvtSd | hashc
      | hashm =>
    cases hd
    exact framed_of_runWidth _ (fun _ => rfl) fun r => (RegStep.same _ r).wv (List.mem_singleton.mpr rfl)
  case vaddcS | vaddcU | vsubcS | vsubcU | vmulcS =>
    cases hd
    exact framed_of_runPure _ (fun _ => rfl) fun r => .check2
  case vsortp =>
    cases hd
    exact framed_of_runPure _ (fun _ => rfl) fun r => ((RegStep.same _ r).wv (by simp)).wv (by simp)
  case vext =>
    cases hd
    exact framed_of_guard (.inr rfl) _ (fun _ => rfl) fun r => (RegStep.same _ r).wg (List.mem_singleton.mpr rfl)
  case xrdw =>
    cases hd
    exact framed_of_guard (.inr rfl) _ (fun _ => rfl) fun r => (RegStep.same _ r).wg (List.mem_singleton.mpr rfl)
  case vins =>
    cases hd
    exact framed_of_guard (.inr rfl) _ (fun _ => rfl) fun r => (RegStep.same _ r).wv (List.mem_singleton.mpr rfl)
  case vunpk =>
    cases hd
    exact framed_of_guard (.inr rfl) _ (fun _ => rfl) fun r => (RegStep.same _ r).wv (List.mem_singleton.mpr rfl)
  case vnarrow | vcvtDs =>
    cases hd
    exact framed_of_guard (.inl rfl) _ (fun _ => rfl) fun r => (RegStep.same _ r).wv (List.mem_singleton.mpr rfl)
  case vcmp =>
    cases hd
    exact framed_of_runWidth _ (fun _ => rfl) fun r => (RegStep.same _ r).wm (List.mem_singleton.mpr rfl)
  case mand | mor | mxor | mandn | mnot | mset | mfromg =>
    cases hd
    exact framed_of_runPure _ (fun _ => rfl) fun r => (RegStep.same _ r).wm (List.mem_singleton.mpr rfl)
  case xclr | xaddi | xmrg =>
    cases hd
    exact framed_of_runPure _ (fun _ => rfl) fun r => (RegStep.same _ r).wa (List.mem_singleton.mpr rfl)
  case xaddf | xmacf =>
    cases hd
    exact framed_of_runWidth _ (fun _ => rfl) fun r => (RegStep.same _ r).wa (List.mem_singleton.mpr rfl)
  all_goals cases hd

end Sys2Proof.Machine
end

section
/-! SUPPORT. Engine instructions that reach memory: what they do once their access is answered (R105–R108, R118). -/
namespace Sys2Proof.Machine

section
variable {e : Nat} {c : Instr} {s s' : State} {r r' : EngRun} {l : Leaf} {A : EngRun → Leaf → State → Acc EngRun}

/-- An issued instruction whose access is answered goes on with the registers that it gives. -/
theorem exec_of_acc_ok (hI : Issued s e c r l) (h : ∀ s, exec c s = ok (runEng e c (fun r l s => .acc (A r l s)) s))
    (hA : A (counted c r) l s = .ok r' s') : exec c s = .next (s'.stepTo e r') := by
  rw [exec_issued hI (h s), hA]
  rfl

/-- An issued instruction whose access waits leaves what the wait leaves. -/
theorem exec_of_acc_wait (hI : Issued s e c r l) (h : ∀ s, exec c s = ok (runEng e c (fun r l s => .acc (A r l s)) s))
    (hA : A (counted c r) l s = .wait s') : exec c s = .next s' := by
  rw [exec_issued hI (h s), hA]
  rfl

/-- An issued instruction whose access faults fails its leaf. -/
theorem exec_of_acc_fail {st a : Nat} (hI : Issued s e c r l)
    (h : ∀ s, exec c s = ok (runEng e c (fun r l s => .acc (A r l s)) s))
    (hA : A (counted c r) l s = .fail st a s') : exec c s = .next (s'.failAt l st a) := by
  rw [exec_issued hI (h s), hA]
  rfl

end

-- ---------------------------------------------------------------- vector loads (R106)

section
variable {s s1 s2 : State} {e : Nat} {r : EngRun} {l : Leaf} {t a : BitVec 5} {m : BitVec 1} {mk : BitVec 3}
  {off : BitVec 11} {vs : List Nat}

theorem getLast?_cons_eq_getLast! (x : Nat) (xs : List Nat) : (x :: xs).getLast? = some (x :: xs).getLast! := by
  rw [List.getLast!_eq_getLast?_getD, List.getLast?_eq_some_getLast (List.cons_ne_nil x xs)]
  rfl

/-- The first faulting element decides. -/
theorem find?_fault {f : Nat → Option Nat} {before after : List Nat} {k st : Nat} (hb : ∀ i ∈ before, f i = none)
    (hk : f k = some st) : (before ++ k :: after).find? (fun i => (f i).isSome) = some k := by
  rw [List.find?_append, List.find?_eq_none.mpr fun i hi => by simp [hb i hi], Option.none_or,
    List.find?_cons_of_pos (by simp [hk])]

/-- VLD without a faulting element loads every active one. -/
theorem State.vload_all {ff : BitVec 1} {i0 : Nat} {rest : List Nat} (hacts : r.actives m mk = i0 :: rest)
    (hgood : ∀ i ∈ r.actives m mk, s.elemFault e r l.inst (r.elemAddr a off i) (r.w / 8) .load = none)
    (hready : s.loadReady e l (r.elemAddr a off i0) (((r.actives m mk).map (r.elemAddr a off)).getLast!)
      ((r.actives m mk).map (r.elemAddr a off)) (r.w / 8) = .ok () s1)
    (hload : s1.engLoads e r l (r.w / 8) ((r.actives m mk).map (r.elemAddr a off)) [] = .ok vs s2) :
    s.vload e r l t a m mk ff off = .ok { r with
      ffi := if ff = 1 then r.vl else r.ffi
      v := (r.wv t (setElems r.w (r.rv t) ((r.actives m mk).zip vs))).v } s2 := by
  have hfind : (r.actives m mk).find?
      (fun i => (s.elemFault e r l.inst (r.elemAddr a off i) (r.w / 8) .load).isSome) = none :=
    List.find?_eq_none.mpr fun i hi => by simp [hgood i hi]
  have hlast := getLast?_cons_eq_getLast! (r.elemAddr a off i0) (rest.map (r.elemAddr a off))
  rw [hacts] at hready hload hfind ⊢
  rw [List.map_cons] at hready hload
  simp only [State.vload, hacts, hfind, List.map_cons, hlast, hready, hload]
  split <;> rfl

/-- The active elements rise. -/
theorem EngRun.actives_pairwise (r : EngRun) (m : BitVec 1) (mk : BitVec 3) : (r.actives m mk).Pairwise (· < ·) :=
  List.pairwise_lt_range.sublist List.filter_sublist

/-- Of rising numbers, those below one of them stand before it. -/
theorem filter_lt_of_pairwise {before after : List Nat} {k : Nat} (h : (before ++ k :: after).Pairwise (· < ·)) :
    (before ++ k :: after).filter (fun i => decide (i < k)) = before := by
  obtain ⟨-, hafter, hbefore⟩ := List.pairwise_append.mp h
  have hb : before.filter (fun i => decide (i < k)) = before :=
    List.filter_eq_self.mpr fun i hi => decide_eq_true (hbefore i hi k List.mem_cons_self)
  have ha : (k :: after).filter (fun i => decide (i < k)) = [] := List.filter_eq_nil_iff.mpr fun i hi => by
    rcases List.mem_cons.mp hi with rfl | hi
    · simp
    · simpa using Nat.le_of_lt (List.rel_of_pairwise_cons hafter hi)
  rw [List.filter_append, hb, ha, List.append_nil]

/-- VLD with FF stops at the first element that faults for its address, behind another active one (R106). -/
theorem State.vload_firstFault {i0 k : Nat} {good rest : List Nat} (hacts : r.actives m mk = i0 :: good ++ k :: rest)
    (hgood : ∀ i ∈ i0 :: good, s.elemFault e r l.inst (r.elemAddr a off i) (r.w / 8) .load = none)
    (hk : s.elemFault e r l.inst (r.elemAddr a off k) (r.w / 8) .load = some 0x1006)
    (hready : s.loadReady e l (r.elemAddr a off i0) (((i0 :: good).map (r.elemAddr a off)).getLast!)
      ((i0 :: good).map (r.elemAddr a off)) (r.w / 8) = .ok () s1)
    (hload : s1.engLoads e r l (r.w / 8) ((i0 :: good).map (r.elemAddr a off)) [] = .ok vs s2) :
    s.vload e r l t a m mk 1 off = .ok { r with
      vl := k, ffi := k, v := (r.wv t (setElems r.w (r.rv t) ((i0 :: good).zip vs))).v } s2 := by
  have hsorted := hacts ▸ r.actives_pairwise m mk
  have hfilter := filter_lt_of_pairwise hsorted
  have hfind := find?_fault (after := rest) hgood hk
  have hne : i0 ≠ k := fun h => by
    subst h
    exact Nat.lt_irrefl _ ((List.pairwise_cons.mp hsorted).1 i0 (by simp))
  have hlast := getLast?_cons_eq_getLast! (r.elemAddr a off i0) (good.map (r.elemAddr a off))
  rw [List.map_cons] at hready hload
  have hhead : (i0 :: good ++ k :: rest).head? ≠ some k := by simpa using hne
  simp only [State.vload, hacts, hfind, hk, hfilter, hhead, List.map_cons, hlast, hready, hload]
  rfl

end

/-- Settles O19: each load goes on with what its access answers. -/
theorem engineLoadResults : Obligations.EngineLoadResults := by
  refine ⟨fun s s' e t a sz sx off r l b hI hload => ?lds, fun s s' e d a r l b hI hload => ?mld,
    fun s s' e d a r l b hI halign hload => ?xld,
    fun s s1 s2 e t a m mk ff off r l i0 rest vs hI hacts hgood hready hload => ?vld,
    fun s s1 s2 e t a m mk off r l good rest i0 k vs hI hacts hgood hk hready hload => ?vldFf⟩
  case lds =>
    exact exec_of_acc_ok hI (fun _ => rfl) (by simp only [effAddr, counted_rg_, hload]; rfl)
  case mld =>
    exact exec_of_acc_ok hI (fun _ => rfl) (by simp only [counted_rg_, hload]; rfl)
  case xld =>
    exact exec_of_acc_ok hI (fun _ => rfl) (by simp only [counted_rg_, halign, hload]; rfl)
  case vld => exact exec_of_acc_ok hI (fun _ => rfl) (State.vload_all hacts hgood hready hload)
  case vldFf => exact exec_of_acc_ok hI (fun _ => rfl) (State.vload_firstFault hacts hgood hk hready hload)

-- ---------------------------------------------------------------- staged writes (R42, R108)

section
variable {s : State} {e : Nat} {r : EngRun} {l : Leaf}

/-- A stage within 128 KiB grows in place (R43). -/
theorem State.grow_small {n : Nat} (h : r.staged + n ≤ 131072) : s.grow e r l n = .ok { r with staged := r.staged + n } s := by
  have hwant : ceilDiv (r.staged + n - 131072) mib2 = 0 := by rw [Nat.sub_eq_zero_of_le h]; rfl
  simp only [State.grow, hwant, Nat.zero_le, if_true]
  rw [if_neg (by omega)]

/-- Items without a page behind them join a stage within 128 KiB at once. -/
theorem State.stageItems_small {items : List StageItem} {n : Nat} (h : r.staged + n ≤ 131072) :
    s.stageItems e r l [] items n = .ok { r with staged := r.staged + n, stage := r.stage ++ items } s := by
  simp only [State.stageItems, State.stageItems.ready, State.grow_small h]
  rfl

/-- A store to quire memory is staged. -/
theorem State.engStore_quire {a : Nat} {b : Bytes} (hq : engMem a = .quire) (hf : s.accFault e l.inst a b.length .store = none)
    (h : r.staged + (b.length + 8) ≤ 131072) :
    s.engStore e r l a b =
      .ok { r with staged := r.staged + (b.length + 8), stage := r.stage ++ [.quire (a - quireBase) b] } s := by
  simp only [State.engStore, hf, hq]
  exact State.stageItems_small h

/-- An atomic on an aligned word of quire memory is staged. -/
theorem State.stageAtomic_quire {a : Nat} {k : Kind} {it : StageItem} (hq : engMem a = .quire)
    (hf : s.accFault e l.inst a 8 k = none) (ha : a % 8 = 0) (h : r.staged + it.size ≤ 131072) :
    s.stageAtomic e r l a k it = .ok { r with staged := r.staged + it.size, stage := r.stage ++ [it] } s := by
  simp only [State.stageAtomic, hf, hq, ha]
  exact State.stageItems_small h

end

/-- XPOST to an aligned image of quire memory is staged. -/
theorem State.xpost_quire {s : State} {e : Nat} {r : EngRun} {l : Leaf} {a : Nat} {acc : ExactAcc} (hq : engMem a = .quire)
    (hf : s.accFault e l.inst a 528 .atomic = none) (ha : a % 8 = 0) (h : r.staged + 536 ≤ 131072) :
    s.xpost e r l acc a =
      .ok { r with staged := r.staged + 536, stage := r.stage ++ [.accQuire (a - quireBase) acc] } s := by
  simp only [State.xpost, hq, if_true, hf, ha, ne_eq, not_true_eq_false, if_false]
  exact State.stageItems_small h

/-- THW of an owned entry that the leaf's sink names is staged. -/
theorem State.thw_owned {s : State} {e : Nat} {r : EngRun} {l : Leaf} {a b : BitVec 5} {g : SigInfo}
    (hg : s.sigOfLeaf l = some g) (hsink : g.sink = 5) (hidx : (r.rg b).toNat < 65536)
    (hown : ∃ q, q < 16 ∧ ((Tab.find s.banks (q * 64 + (r.rg b).toNat / 1024)).map (·.owner)) = some l.inst)
    (hbit : bitAt g.ke ((r.rg b).toNat / 1024) = true) (h : r.staged + 48 ≤ 131072) :
    s.thw e r l a b = .ok { r with
      staged := r.staged + 48, rows := r.rows + 1
      stage := r.stage ++ [.thumb (r.rg b).toNat
        { key := (r.rv a).extractLsb' 0 128, care := (r.rv a).extractLsb' 128 128, payload := (r.rv a).extractLsb' 256 32,
          priority := (r.rv a).extractLsb' 288 16, valid := true }] } s := by
  have hany : (List.range 16).any (fun q =>
      ((Tab.find s.banks (q * 64 + (r.rg b).toNat / 1024)).map (·.owner)) == some l.inst) = true :=
    List.any_eq_true.mpr (hown.imp fun q hq => ⟨List.mem_range.mpr hq.1, beq_iff_eq.mpr hq.2⟩)
  have hstage := fun it => State.stageItems_small (s := s) (e := e) (l := l) (items := [it]) h
  simp only [State.thw, hg, hsink, hany, hbit, StageItem.size, hstage, Nat.not_le.mpr hidx]
  rfl

/-- Settles O21: each write becomes one item of the stage. -/
theorem stagedWritesWaitForCommit : Obligations.StagedWritesWaitForCommit := by
  intro s e t a b x sz off r l
  refine ⟨fun ad had hI ⟨hq, hf⟩ h => ?sts, fun hI ⟨hq, hf⟩ h => ?mst, fun hI ⟨hq, hf⟩ halign h himg => ?xst,
    fun hI ⟨hq, hf⟩ halign h => ?aadd, fun hI ⟨hq, hf⟩ halign h => ?aswp, fun hI ⟨hq, hf⟩ halign h => ?xpost,
    fun g hg hsink hI hidx hown hbit h => ?thw⟩
  case sts =>
    subst had
    refine exec_of_acc_ok hI (fun _ => rfl) (State.engStore_quire hq ?_ ?_)
    · rw [length_leBytes]; exact hf
    · rw [length_leBytes]; exact h
  case mst => exact exec_of_acc_ok hI (fun _ => rfl) (State.engStore_quire hq hf h)
  case xst =>
    refine exec_of_acc_ok hI (fun _ => rfl) ?_
    have hstore := State.engStore_quire (s := s) (r := counted (.xst e x b) r) (b := (r.ra x).image) hq (himg ▸ hf) (himg ▸ h)
    simp only [counted_rg_, halign]
    exact hstore
  case aadd => exact exec_of_acc_ok hI (fun _ => rfl) (State.stageAtomic_quire hq hf halign h)
  case aswp => exact exec_of_acc_ok hI (fun _ => rfl) (State.stageAtomic_quire hq hf halign h)
  case xpost => exact exec_of_acc_ok hI (fun _ => rfl) (State.xpost_quire hq hf halign h)
  case thw => exact exec_of_acc_ok hI (fun _ => rfl) (State.thw_owned hg hsink hidx hown hbit h)

end Sys2Proof.Machine
end

section
/-! SUPPORT. Engine reads of quire memory and constants, and the frame of a store to the working space (R98, R105). -/
namespace Sys2Proof.Machine

section
variable {s : State} {e : Nat} {r : EngRun} {l : Leaf} {a n : Nat}

/-- A permitted read of quire memory, with nothing poisoned, armed or written at this instant. -/
theorem State.engRead_quire (hf : s.accFault e l.inst a n .load = none) (hq : engMem a = .quire)
    (harmed : s.armed 2 (e / 16) = false) (harrived : s.arrived.filter (fun w => !w.past) = [])
    (hclean : s.poisoned (.quire (e / 16)) (a - quireBase) n = false) :
    s.engRead e r l a n = .ok (s.rd (.quire (e / 16)) (a - quireBase) n) s := by
  simp [State.engRead, hf, hq, State.qmTouch, harmed, hclean, State.portRead, harrived]

theorem State.length_rd (s : State) (sp : Space) (a n : Nat) : (s.rd sp a n).length = n := Mem.length_readN _ _ _

/-- Reading a list position by position gives the list. -/
theorem map_range_getD {b : Bytes} {n : Nat} (h : b.length = n) {f : Nat → Byte} (hf : ∀ j, j < n → f j = b.getD j 0) :
    (List.range n).map f = b := by
  subst h
  refine List.ext_getElem (by simp) fun j hj _ => ?_
  simp at hj
  simp [hf j hj, hj]

/-- The constants read as they are stored. -/
theorem State.dataBytes_const {o : Nat} (h : o + n ≤ 0x20000) : s.dataBytes e r o n = (s.rd (.dmem e) o n, s) := by
  refine Prod.ext (map_range_getD (s.length_rd _ _ _) fun j hj => ?_) (if_neg (by omega))
  rw [if_neg (by omega), if_neg (by omega)]

/-- A permitted read of the constants, with nothing poisoned there. -/
theorem State.engRead_const (hf : s.accFault e l.inst a n .load = none) (hd : engMem a = .data)
    (hin : a - dataBase + n ≤ 0x20000) (hclean : s.poisoned (.dmem e) (a - dataBase) n = false) :
    s.engRead e r l a n = .ok (s.rd (.dmem e) (a - dataBase) n) s := by
  simp [State.engRead, hf, hd, hclean, State.dataBytes_const hin]

/-- A read that its access check refuses, other than for rights, changes nothing. -/
theorem State.engRead_fault {st : Nat} (hf : s.accFault e l.inst a n .load = some st) (hst : st ≠ 0x5002) :
    s.engRead e r l a n = .fail st a s := by
  simp [State.engRead, hf, hst]

end

/-- Settles O20. -/
theorem engineReadsOfItsMemories : Obligations.EngineReadsOfItsMemories := fun _ _ _ _ _ _ =>
  ⟨State.engRead_quire, State.engRead_const, fun _ => State.engRead_fault⟩

-- ---------------------------------------------------------------- writes where nothing is poisoned

theorem Mem.writeN_append (m : Mem) (a : Nat) (b c : Bytes) :
    Mem.writeN m a (b ++ c) = Mem.writeN (Mem.writeN m a b) (a + b.length) c := by
  induction b generalizing m a with
  | nil => rfl
  | cons x b ih =>
    rw [List.cons_append, Mem.writeN, ih, Mem.writeN, List.length_cons]
    congr 1
    omega

/-- A write in two parts is the write of the whole. -/
theorem State.wr_wr_append (s : State) (sp : Space) (a : Nat) (b c : Bytes) :
    (s.wr sp a b).wr sp (a + b.length) c = s.wr sp a (b ++ c) := by
  simp only [State.wr, Mem.writeN_append, Nat.add_assoc]

/-- Without poison a piece is written as it is. -/
theorem State.wrPiece_of_clean {s : State} (h : s.poison = []) (sp : Space) (a : Nat) (b : Bytes) :
    s.wrPiece sp a b = s.wr sp a b := by
  have hclear : s.clearPoison sp a b.length = s := by
    rw [State.clearPoison, h, List.filter_nil, ← h]
  have hpoisoned : s.poisoned sp a b.length = false := by rw [State.poisoned, h]; rfl
  rw [State.wrPiece, hclear, hpoisoned]
  split <;> rfl

theorem granule_pos (sp : Space) : 0 < granule sp := by
  unfold granule
  split <;> decide

/-- The pieces of a write, written one after the other, are the write. -/
theorem State.foldl_wrPiece_granPieces {s : State} (h : s.poison = []) (sp : Space) (n a : Nat) (b : Bytes)
    (hn : b.length ≤ n) :
    (granPieces (granule sp) n a b).foldl (fun s p => s.wrPiece sp p.1 p.2) s = s.wr sp a b := by
  induction n generalizing s a b with
  | zero =>
    obtain rfl := List.length_eq_zero_iff.mp (Nat.le_zero.mp hn)
    rfl
  | succ n ih =>
    rw [granPieces]
    split
    next hb => rw [hb]; rfl
    next hb =>
      have hk : 0 < granule sp - a % granule sp := Nat.sub_pos_of_lt (Nat.mod_lt _ (granule_pos sp))
      generalize granule sp - a % granule sp = k at hk
      rw [List.foldl_cons, State.wrPiece_of_clean h, ih (s := s.wr sp a (b.take k)) h _ _ (by simp; omega)]
      by_cases hkb : k ≤ b.length
      · have hlen : (b.take k).length = k := by simp [hkb]
        simpa [hlen] using s.wr_wr_append sp a (b.take k) (b.drop k)
      · rw [List.drop_of_length_le (by omega), List.take_of_length_le (by omega)]
        rfl

/-- Without poison a write under ECC is a plain write. -/
theorem State.wrEcc_of_clean {s : State} (h : s.poison = []) (sp : Space) (a : Nat) (b : Bytes) :
    s.wrEcc sp a b = s.wr sp a b :=
  State.foldl_wrPiece_granPieces h sp _ a b (Nat.le_succ _)

-- ---------------------------------------------------------------- the working space (R98)

/-- The pattern that unwritten working space XORs into the byte at an offset. -/
def EngRun.pattern (r : EngRun) (o : Nat) : Byte := (r.free.map (fun c => (Config.free (c + o)).truncate 8)).getD 0

theorem State.workWrite_eq {s : State} (h : s.poison = []) (e : Nat) (r : EngRun) (o : Nat) (b : Bytes) :
    s.workWrite e r o b = s.wr (.dmem e) o (b.zipIdx.map fun p => p.1 ^^^ r.pattern (o + p.2)) :=
  State.wrEcc_of_clean h _ _ _

/-- A leaf reads back what it stored in the working space. -/
theorem State.dataBytes_wr_work (s : State) (e : Nat) (r : EngRun) {o : Nat} {b : Bytes} (hlo : 0x20000 ≤ o)
    (hhi : o + b.length ≤ 0x60000) :
    ((s.wr (.dmem e) o (b.zipIdx.map fun p => p.1 ^^^ r.pattern (o + p.2))).dataBytes e r o b.length).1 = b := by
  have hraw := s.rd_wr (.dmem e) o (b.zipIdx.map fun p => p.1 ^^^ r.pattern (o + p.2))
  rw [List.length_map, List.length_zipIdx] at hraw
  refine map_range_getD rfl fun j hj => ?_
  rw [if_neg (by omega), if_pos (by omega), hraw]
  simp [hj, EngRun.pattern, BitVec.xor_assoc]

/-- A store wholly inside the working space is permitted. -/
theorem State.accFault_work (s : State) (e i : Nat) {o n : Nat} (hlo : 0x20000 ≤ o) (hhi : o + n ≤ 0x60000) :
    engMem (dataBase + o) = .data ∧ s.accFault e i (dataBase + o) n .store = none := by
  have hmem : engMem (dataBase + o) = .data := by
    rw [engMem, if_neg (by unfold dataBase; omega), if_pos (by omega)]
  refine ⟨hmem, ?_⟩
  simp only [State.accFault, hmem, Nat.add_sub_cancel_left]
  rw [if_neg (by decide), if_pos ⟨hlo, hhi⟩]

/-- Settles O22: the store is one write of the data memory. -/
theorem workingSpaceStoreFrame : Obligations.WorkingSpaceStoreFrame := by
  intro s e t a sz off r l o hI hclean haddr hlo hhi
  have hlen := length_leBytes (2 ^ sz.toNat) (r.rg t).toNat
  generalize hb : leBytes (2 ^ sz.toNat) (r.rg t).toNat = b at hlen
  rw [← hlen] at hhi ⊢
  obtain ⟨hmem, hfault⟩ := s.accFault_work e l.inst hlo hhi
  have hstore : s.engStore e (counted (.sts e t a sz off) r) l (dataBase + o) b =
      .ok (counted (.sts e t a sz off) r) (s.wr (.dmem e) o (b.zipIdx.map fun p => p.1 ^^^ r.pattern (o + p.2))) := by
    simp only [State.engStore, hmem, hfault, Nat.add_sub_cancel_left]
    exact congrArg _ (State.workWrite_eq hclean e _ o b)
  refine ⟨_, exec_of_acc_ok hI (fun _ => rfl) ?_, fun k hk => Mem.read_writeN_out _ _ _ _ ?_,
    State.dataBytes_wr_work s e r hlo hhi⟩
  · simp only [effAddr, counted_rg_, haddr, hb]
    exact hstore
  · rw [List.length_map, List.length_zipIdx]
    exact hk

end Sys2Proof.Machine
end

section
/-! SUPPORT. Vector stores, the fetch unit, the Thumb index, input and row groups, SPAWN and COMMIT (R106, R113, R114,
R119–R124). -/
namespace Sys2Proof.Machine

-- ---------------------------------------------------------------- vector stores (R106)

section
variable {s : State} {e : Nat} {r : EngRun} {l : Leaf} {t a : BitVec 5} {m : BitVec 1} {mk : BitVec 3} {off : BitVec 11}

/-- Without a faulting element VST stores them all. -/
theorem State.vstore_all
    (hgood : ∀ i ∈ r.actives m mk, s.elemFault e r l.inst (r.elemAddr a off i) (r.w / 8) .store = none) :
    s.vstore e r l t a m mk off = s.engStores e r l (mergeStores ((r.actives m mk).map (fun i =>
      (r.elemAddr a off i, leBytes (r.w / 8) (elem (r.rv t) r.w i))))) := by
  have hfind : (r.actives m mk).findSome? (fun i => (s.elemFault e r l.inst (r.elemAddr a off i) (r.w / 8) .store).map
      (fun st => (st, r.elemAddr a off i))) = none :=
    List.findSome?_eq_none_iff.mpr fun i hi => by rw [hgood i hi, Option.map_none]
  simp only [State.vstore, hfind]

/-- The first faulting element fails VST, with nothing staged. -/
theorem State.vstore_fault {before after : List Nat} {k st : Nat} (hacts : r.actives m mk = before ++ k :: after)
    (hb : ∀ i ∈ before, s.elemFault e r l.inst (r.elemAddr a off i) (r.w / 8) .store = none)
    (hk : s.elemFault e r l.inst (r.elemAddr a off k) (r.w / 8) .store = some st) (hst : st ≠ 0x5002) :
    s.vstore e r l t a m mk off = .fail st (r.elemAddr a off k) s := by
  have hfind : (before ++ k :: after).findSome? (fun i =>
      (s.elemFault e r l.inst (r.elemAddr a off i) (r.w / 8) .store).map (fun st => (st, r.elemAddr a off i))) =
        some (st, r.elemAddr a off k) := by
    have hnone : before.findSome? (fun i =>
        (s.elemFault e r l.inst (r.elemAddr a off i) (r.w / 8) .store).map (fun st => (st, r.elemAddr a off i))) = none :=
      List.findSome?_eq_none_iff.mpr fun i hi => by rw [hb i hi, Option.map_none]
    rw [List.findSome?_append, hnone, Option.none_or, List.findSome?_cons, hk]
    rfl
  simp only [State.vstore, hacts, hfind, hst, if_false]

end

/-- VST without FF is answered by its stores. -/
theorem execVst_row (e : Nat) (t a : BitVec 5) (m : BitVec 1) (mk : BitVec 3) (off : BitVec 11) (s : State) :
    exec (.vst e t a m mk 0 off) s =
      ok (runEng e (.vst e t a m mk 0 off) (fun r l s => .acc (s.vstore e r l t a m mk off)) s) := rfl

/-- Settles O23. -/
theorem vectorStoreResults : Obligations.VectorStoreResults := by
  intro s s' e t a m mk off r r' l
  refine ⟨fun hI hgood hstores => ?_, fun before after k st hI hacts hb hk hst => ?_, ?_⟩
  · exact exec_of_acc_ok hI (execVst_row e t a m mk off) ((State.vstore_all (r := counted _ r) hgood).trans hstores)
  · exact exec_of_acc_fail hI (execVst_row e t a m mk off) (State.vstore_fault (r := counted _ r) hacts hb hk hst)
  · exact failsWhen_of_runEng _ (fun _ => rfl) fun _ _ _ _ => rfl

-- ---------------------------------------------------------------- the fetch unit (R113, R183)

section
variable {s s1 s2 : State} {e : Nat} {r : EngRun} {l : Leaf} {q : FetchReq}

/-- While the quire is mapped out a waiting request fails its leaf (R127). -/
theorem exec_fetchDeliver_lost (hrun : s.running = true) (hr : s.engRun e = some r) (hq : r.fetch = some q)
    (hl : s.leaf? r.leaf = some l) (hl' : l.state = .running) (hlost : s.quireLost e = true) :
    exec (.fetchDeliver e) s = .next (s.failAt l 0x4002 0) := by
  show execFetchDeliver e s = _
  simp [execFetchDeliver, hrun, hr, hq, hl, hl', hlost, ok]

/-- A waiting request without a faulting element is delivered whole once its bursts are read. -/
theorem exec_fetchDeliver_all {on pins : List Nat} {got : List (Nat × Bytes)} (hrun : s.running = true)
    (hr : s.engRun e = some r) (hq : r.fetch = some q) (hl : s.leaf? r.leaf = some l) (hl' : l.state = .running)
    (hlost : s.quireLost e = false) (hon : on = (List.range 16).filter (fun i => q.on.getD i false))
    (hgood : ∀ i, i ∈ on → s.fetchFault e r l.inst (q.pos.getD i 0) = none)
    (hready : s.fetchReady e l.inst (r.w / 8) (on.map (fun i => q.pos.getD i 0)) q.pins false = .ok (pins, false) s1)
    (hread : s1.fetchRead l.inst (fetchSpans (r.w / 8) (on.map (fun i => q.pos.getD i 0))) [] = .ok got s2) :
    exec (.fetchDeliver e) s = .next (((pins.foldl (fun s f => s.unpin f) s2).setRun e
      (r.fetched q 16 (on.zip (on.map (fun i => fetchElem (r.w / 8) (q.pos.getD i 0) got))))).count
        (0x802028 + 0x8000 * (e / 16)) 1) := by
  have hfind : on.find? (fun i => (s.fetchFault e r l.inst (q.pos.getD i 0)).isSome) = none :=
    List.find?_eq_none.mpr fun i hi => by rw [hgood i hi]; simp
  have hall : on.filter (fun i => decide (i < 16)) = on := List.filter_eq_self.mpr fun i hi => by
    rw [hon] at hi
    exact decide_eq_true (List.mem_range.mp (List.mem_filter.mp hi).1)
  show execFetchDeliver e s = _
  simp only [execFetchDeliver, hrun, hr, hq, hl, hl', hlost, ← hon, hfind, Option.getD_none, hall, hready, hread]
  rfl

end

/-- Settles O24: the request is what FETCH computes, and its delivery follows the waiting request. -/
theorem fetchUnitRequestAndDelivery : Obligations.FetchUnitRequestAndDelivery := by
  refine ⟨fun s e d a b m mk r l hI hd q hq => ?request, fun e d a b m mk => ?beyond,
    fun s e r l q hrun hr hq hl hl' hlost => exec_fetchDeliver_lost hrun hr hq hl hl' hlost,
    fun s s1 s2 e r l q on pins got hrun hr hq hl hl' hlost hon hgood hready hread =>
      exec_fetchDeliver_all hrun hr hq hl hl' hlost hon hgood hready hread⟩
  case request =>
    have hd' : ¬ 32 < d.toNat + fetchRegs (counted (.fetch e d a b m mk) r).ew := Nat.not_lt.mpr hd
    rw [exec_issued hI rfl, if_neg hd', hq]
    rfl
  case beyond => exact failsWhen_of_runEng _ (fun _ => rfl) fun _ _ _ h => if_pos h

end Sys2Proof.Machine
end

section
/-! SUPPORT. The Thumb index, input and row groups, SPAWN and COMMIT as the engines run them (R114, R119–R124, R161–R163). -/
namespace Sys2Proof.Machine

-- ---------------------------------------------------------------- searches (R161, R162)

section
variable {s : State} {e : Nat} {r : EngRun} {l : Leaf} {d a b : BitVec 5}

/-- Puts a Thumb record into the low bits of a register. -/
def EngRun.putThumb (r : EngRun) (d : BitVec 5) (x : Nat) : EngRun := r.wv d (putRecord (r.rv d) x)

/-- An empty bank mask gives the record of no match at once. -/
theorem State.ths_empty (h : (r.rg b).toNat = 0) :
    s.ths e r l d a b = .ok (r.putThumb d (thumbRecord noCursor false false 0 0 0 0)) s := by
  simp only [State.ths, h, if_true]
  rfl

theorem State.ths_denied (h : (r.rg b).toNat ≠ 0) (hden : s.thumbDenied l.inst (e / 16) (r.rg b).toNat = true) :
    s.ths e r l d a b = .fail 0x5002 0 s := by
  simp only [State.ths, h, hden, if_false, if_true]

theorem State.ths_lost (h : (r.rg b).toNat ≠ 0) (hden : s.thumbDenied l.inst (e / 16) (r.rg b).toNat = false)
    (hlost : s.quireLost e = true) : s.ths e r l d a b = .fail 0x4002 0 s := by
  simp [State.ths, h, hden, hlost]

/-- A search at its turn in awake banks takes the array and counts. -/
theorem State.thumbOp_turn {mask reg : Nat} (hwake : s.thumbWake (e / 16) mask = none)
    (hturn : s.thumbTurn (e / 16) (.search (e % 16)) = true) :
    s.thumbOp e r mask reg = .ok ({ r with waking := 0, banks := r.banks + (maskBanks mask).length },
      (s.thumbTook (e / 16) (.search (e % 16))).count (0x900000 + 0x1000 * (e / 16) + reg) 1) := by
  simp [State.thumbOp, hwake, hturn]

/-- What a search reads of the banks is not touched by taking the array and counting. -/
theorem State.thumbMatches_took (s : State) (q q' reg n mask : Nat) (w : ThumbReq) (key : Word128) :
    ((s.thumbTook q w).count reg n).thumbMatches q' key mask = s.thumbMatches q' key mask := rfl

/-- Registers and state after a search of the banks of a mask has taken the array. -/
def EngRun.searched (r : EngRun) (mask : Nat) : EngRun := { r with waking := 0, banks := r.banks + (maskBanks mask).length }
def State.searched (s : State) (e : Nat) : State :=
  (s.thumbTook (e / 16) (.search (e % 16))).count (0x900000 + 0x1000 * (e / 16) + 8) 1

section
variable (h : (r.rg b).toNat ≠ 0) (hden : s.thumbDenied l.inst (e / 16) (r.rg b).toNat = false)
  (hlost : s.quireLost e = false) (hwake : s.thumbWake (e / 16) (r.rg b).toNat = none)
  (hturn : s.thumbTurn (e / 16) (.search (e % 16)) = true)
include h hden hlost hwake hturn

theorem State.ths_none (hf : s.thumbMatches (e / 16) ((r.rv a).setWidth 128) (r.rg b).toNat = []) :
    s.ths e r l d a b =
      .ok ((r.searched (r.rg b).toNat).putThumb d (thumbRecord noCursor false false 0 0 0 0)) (s.searched e) := by
  simp only [State.ths, h, hden, hlost, State.thumbOp_turn hwake hturn, State.thumbMatches_took, hf]
  rfl

theorem State.ths_one {t : Nat × ThumbEntry}
    (hf : s.thumbMatches (e / 16) ((r.rv a).setWidth 128) (r.rg b).toNat = [t]) :
    s.ths e r l d a b = .ok ((r.searched (r.rg b).toNat).putThumb d
      (thumbRecord noCursor false true 1 t.1 t.2.priority.toNat t.2.payload.toNat)) (s.searched e) := by
  simp only [State.ths, h, hden, hlost, State.thumbOp_turn hwake hturn, State.thumbMatches_took, hf]
  rfl

theorem State.ths_more {t u : Nat × ThumbEntry} {rest : List (Nat × ThumbEntry)}
    (hf : s.thumbMatches (e / 16) ((r.rv a).setWidth 128) (r.rg b).toNat = t :: u :: rest) :
    s.ths e r l d a b = .ok ((r.searched (r.rg b).toNat).putThumb d
        (thumbRecord ((s.searched e).openCursor e ((r.rv a).setWidth 128) (r.rg b).toNat t).1 true true
          (min 255 (rest.length + 2)) t.1 t.2.priority.toNat t.2.payload.toNat))
      ((s.searched e).openCursor e ((r.rv a).setWidth 128) (r.rg b).toNat t).2 := by
  simp only [State.ths, h, hden, hlost, State.thumbOp_turn hwake hturn, State.thumbMatches_took, hf]
  rfl

end

-- ---------------------------------------------------------------- the next match (R163)

/-- THN on a record without a cursor answers the end record. -/
theorem State.thn_noCursor (hx : (r.rv a).toNat / 2 ^ 96 % 2 ^ 32 = noCursor) :
    s.thn e r d a = .ok (r.putThumb d (thumbRecord noCursor (bitAt (r.rv a).toNat 73) false
      ((r.rv a).toNat / 2 ^ 64 % 256) 0 0 0)) s := by
  simp only [State.thn, hx, if_true]
  rfl

/-- THN on a cursor of another engine or of no context. -/
theorem State.thn_foreign (hx : (r.rv a).toNat / 2 ^ 96 % 2 ^ 32 ≠ noCursor)
    (hbad : bitAt ((r.rv a).toNat / 2 ^ 96 % 2 ^ 32) 25 = true ∨ (r.rv a).toNat / 2 ^ 96 % 2 ^ 32 / 2 ^ 28 ≠ e % 16) :
    s.thn e r d a = .fail 0x1002 0 s := by
  simp only [State.thn, hx, hbad, if_false, if_true]

/-- THN on a context that gave its last match answers the end record. -/
theorem State.thn_used {k : Cursor} (hx : (r.rv a).toNat / 2 ^ 96 % 2 ^ 32 ≠ noCursor)
    (hbit : bitAt ((r.rv a).toNat / 2 ^ 96 % 2 ^ 32) 25 = false)
    (he : (r.rv a).toNat / 2 ^ 96 % 2 ^ 32 / 2 ^ 28 = e % 16)
    (hk : k = (s.engOf e).cursors.getD (bits ((r.rv a).toNat / 2 ^ 96 % 2 ^ 32) 27 26) {})
    (hgen : k.gen = bits ((r.rv a).toNat / 2 ^ 96 % 2 ^ 32) 24 16) (hused : k.used = true) :
    s.thn e r d a = .ok (r.putThumb d (thumbRecord noCursor (bitAt (r.rv a).toNat 73) false
      ((r.rv a).toNat / 2 ^ 64 % 256) 0 0 0)) s := by
  simp only [State.thn, hx, hbit, he, ← hk, hgen, hused, ne_eq, not_true_eq_false, Bool.false_eq_true, or_self, if_false,
    if_true]
  rfl

end

/-- Settles O25: THS by its banks, its turn and the number of matches; THN by the cursor of its record. -/
theorem thumbSearchResults : Obligations.ThumbSearchResults := by
  refine ⟨fun s e d a b r l hI => ⟨fun h0 => ?empty, fun h0 hden => ?denied, fun h0 hden hlost => ?lost,
    fun h0 hden hlost hwake hturn => ⟨fun hf => ?none, fun t hf => ?one, fun t u rest hf => ?more⟩⟩,
    fun s e d a r l hI => ⟨fun hx => ?thnEnd, fun hx hbad => ?thnBad, fun k hx hbit he hk hgen hused => ?thnUsed⟩⟩
  case empty => exact exec_of_acc_ok hI (fun _ => rfl) (State.ths_empty h0)
  case denied => exact exec_of_acc_fail hI (fun _ => rfl) (State.ths_denied h0 hden)
  case lost => exact exec_of_acc_fail hI (fun _ => rfl) (State.ths_lost h0 hden hlost)
  case none => exact exec_of_acc_ok hI (fun _ => rfl) (State.ths_none (r := counted _ r) h0 hden hlost hwake hturn hf)
  case one => exact exec_of_acc_ok hI (fun _ => rfl) (State.ths_one (r := counted _ r) h0 hden hlost hwake hturn hf)
  case more => exact exec_of_acc_ok hI (fun _ => rfl) (State.ths_more (r := counted _ r) h0 hden hlost hwake hturn hf)
  case thnEnd => exact exec_of_acc_ok hI (fun _ => rfl) (State.thn_noCursor (r := counted _ r) hx)
  case thnBad => exact exec_of_acc_fail hI (fun _ => rfl) (State.thn_foreign (r := counted _ r) hx hbad)
  case thnUsed =>
    exact exec_of_acc_ok hI (fun _ => rfl) (State.thn_used (r := counted _ r) hx hbit he hk hgen hused)

end Sys2Proof.Machine
end

section
/-! SUPPORT. Input batches, row groups, SPAWN, COMMIT and words that are no instruction (R47, R100, R119–R124). -/
namespace Sys2Proof.Machine

-- ---------------------------------------------------------------- input (R120)

section
variable {s s' : State} {e : Nat} {r r' : EngRun} {l : Leaf} {d a b : BitVec 5} {m : BitVec 1} {mk : BitVec 3}

/-- Without a batch in hand there is none to release. -/
theorem State.releaseBatch_of_not_handed (h : r.handed = false) : s.releaseBatch e r = (r, s) := by
  rw [State.releaseBatch, h]

/-- After the END batch, or without a source, BNEXT answers 0. -/
theorem State.bnext_end (h : r.handed = false) (hend : l.src = .none ∨ r.ended = true) :
    s.bnext e r l d = .ok (r.wg d 0) s := by
  simp only [State.bnext, State.releaseBatch_of_not_handed h, if_pos hend]

/-- A batch in the window is handed over. -/
theorem State.bnext_batch {x : Batch} {rest : List Batch} (h : r.handed = false) (hsrc : l.src ≠ .none)
    (hend : r.ended = false) (hb : r.batches = x :: rest) :
    s.bnext e r l d = .ok (({ r with handed := true } : EngRun).wg d (ofN (quireBase + winOff e + x.off))) s := by
  have hno : ¬ (l.src = .none ∨ r.ended = true) := by simp [hsrc, hend]
  simp only [State.bnext, State.releaseBatch_of_not_handed h, if_neg hno, hb]

-- ---------------------------------------------------------------- row groups (R121)

/-- The sink of a leaf's signature. -/
def State.sinkOf (s : State) (l : Leaf) : Nat := ((s.sigOfLeaf l).map (·.sink)).getD 0

/-- Sinks that take row groups: PARTITION, EXCHANGE_ALL and RESULT. -/
theorem rowSink_iff {n : Nat} : (n == 1 || n == 2 || n == 4) = true ↔ n = 1 ∨ n = 2 ∨ n = 4 := by
  simp [or_assoc]

/-- EMIT appends the active elements to its column. -/
theorem State.emitRows_row (hsink : s.sinkOf l = 1 ∨ s.sinkOf l = 2 ∨ s.sinkOf l = 4) (hcol : (r.rg b).toNat ≤ 15)
    (hvl : r.vl ≠ 0) (hroom : r.staged + (r.actives m mk).length * (r.w / 8) ≤ 131072) :
    s.emitRows e r l a b m mk = .ok { r with
      staged := r.staged + (r.actives m mk).length * (r.w / 8)
      cols := Tab.set r.cols (r.rg b).toNat
        (if (Tab.get r.cols (r.rg b).toNat (r.ew, [])).1 = r.ew then r.ew else mixedEw,
          (Tab.get r.cols (r.rg b).toNat (r.ew, [])).2 ++ (r.actives m mk).map (elem (r.rv a) r.w)) } s := by
  have hok : ¬ ((!(s.sinkOf l == 1 || s.sinkOf l == 2 || s.sinkOf l == 4) || decide (15 < (r.rg b).toNat)) = true) := by
    rw [rowSink_iff.mpr hsink]
    simpa using hcol
  have hgrow := State.grow_small (s := s) (e := e) (l := l) hroom
  rw [State.sinkOf] at hok
  simp only [State.emitRows, if_neg hok, if_neg hvl, hgrow]
  by_cases hew : (Tab.get r.cols (r.rg b).toNat (r.ew, [])).1 = r.ew
  · simp only [hew, if_true]
    rfl
  · simp only [if_neg hew]
    rfl

/-- EMIT fails under another sink and beyond column 15. -/
theorem State.emitRows_refused
    (h : ¬ (s.sinkOf l = 1 ∨ s.sinkOf l = 2 ∨ s.sinkOf l = 4) ∨ 15 < (r.rg b).toNat) :
    s.emitRows e r l a b m mk = .fail 0x1002 0 s := by
  have hbad : (!(s.sinkOf l == 1 || s.sinkOf l == 2 || s.sinkOf l == 4) || decide (15 < (r.rg b).toNat)) = true := by
    rw [Bool.or_eq_true, Bool.not_eq_true', ← Bool.not_eq_true, rowSink_iff, decide_eq_true_iff]
    exact h
  exact if_pos hbad

theorem State.emitEnd_row (hsink : s.sinkOf l = 1 ∨ s.sinkOf l = 2 ∨ s.sinkOf l = 4) :
    s.emitEnd e r l = s.closeGroup e r l :=
  if_neg (by rw [Bool.not_eq_true', ← Bool.not_eq_true, rowSink_iff]; exact not_not_intro hsink)

theorem State.emitEnd_refused (hsink : ¬ (s.sinkOf l = 1 ∨ s.sinkOf l = 2 ∨ s.sinkOf l = 4)) :
    s.emitEnd e r l = .fail 0x1002 0 s :=
  if_pos (by rw [Bool.not_eq_true', ← Bool.not_eq_true, rowSink_iff]; exact hsink)

end

/-- Settles O26. -/
theorem leafInputAndRowGroups : Obligations.LeafInputAndRowGroups := by
  intro s s' e d a b m mk r r' l
  refine ⟨fun hI hh => ⟨fun hend => ?bnextEnd, fun x rest hsrc hend hb => ?bnext⟩, fun hI hsink hcol hvl hroom => ?emit,
    fun hI hbad => ?emitRefused, fun hI hsink hclose => ?emitEnd, fun hI hsink => ?emitEndRefused⟩
  case bnextEnd => exact exec_of_acc_ok hI (fun _ => rfl) (State.bnext_end (r := counted _ r) hh hend)
  case bnext => exact exec_of_acc_ok hI (fun _ => rfl) (State.bnext_batch (r := counted _ r) hh hsrc hend hb)
  case emit => exact exec_of_acc_ok hI (fun _ => rfl) (State.emitRows_row (r := counted _ r) hsink hcol hvl hroom)
  case emitRefused => exact exec_of_acc_fail hI (fun _ => rfl) (State.emitRows_refused (r := counted _ r) hbad)
  case emitEnd => exact exec_of_acc_ok hI (fun _ => rfl) ((State.emitEnd_row hsink).trans hclose)
  case emitEndRefused => exact exec_of_acc_fail hI (fun _ => rfl) (State.emitEnd_refused hsink)

-- ---------------------------------------------------------------- SPAWN (R122, R203)

section
variable {s : State} {e : Nat} {r : EngRun} {l : Leaf} {a b : BitVec 5}

/-- The leaf that a SPAWN makes. -/
def spawnChild (s : State) (e arg : Nat) (l : Leaf) : Leaf :=
  { inst := l.inst, sub := l.sub, sig := l.sig, ord := (s.spawnOrd l.run l.sig).1, group := l.group, cls := l.cls,
    home := some (e / 16), cq := l.cq, state := .held, seq := 0, arg := arg, src := .none }

theorem State.spawn_other (h : (r.rg a).toNat ≠ l.sig) : s.spawn e r l a b = .fail 0x1002 0 s := if_pos h

theorem State.spawn_full (h : (r.rg a).toNat = l.sig) (hmany : 64 ≤ r.spawns) :
    s.spawn e r l a b = .fail 0x2002 0 s :=
  (if_neg (not_not_intro h)).trans (if_pos hmany)

/-- SPAWN with a free slot for its turn makes its leaf. -/
theorem State.spawn_ok (h : (r.rg a).toNat = l.sig) (hfew : r.spawns < 64)
    (hslot : ((s.spawnsOf l.inst).takeWhile (· != e)).length < s.slotsFree l.inst) :
    s.spawn e r l a b = .ok
      { r with spawns := r.spawns + 1, spawned := r.spawned ++ [(spawnChild s e (r.rg b).toNat l).id] }
      ({ s.updSig l.run l.sig (fun _ => (s.spawnOrd l.run l.sig).2) with
          leaves := Tab.set s.leaves (spawnChild s e (r.rg b).toNat l).id (spawnChild s e (r.rg b).toNat l)
          coll := { s.coll with spawns := s.coll.spawns.filter (· != e) } } |>.endSlotWait l.inst) := by
  simp only [State.spawn, if_neg (not_not_intro h), if_neg (Nat.not_le.mpr hfew), if_neg (Nat.not_le.mpr hslot)]
  rfl

end

-- ---------------------------------------------------------------- COMMIT (R44, R124)

section
variable {s s' : State} {e : Nat} {r r' : EngRun} {l : Leaf} (hclose : s.closeGroup e r l = .ok r' s')
include hclose

/-- A full partitioner hold makes COMMIT wait. -/
theorem State.commitLeaf_held (hheld : s'.holdKeeps e l r'.stage = true) : s.commitLeaf e r l = s := by
  simp only [State.commitLeaf, hclose, hheld, if_true]

/-- A record for a closed association fails a PARTITION leaf. -/
theorem State.commitLeaf_closed (hheld : s'.holdKeeps e l r'.stage = false)
    (hsend : ((s'.sigOfLeaf l).map (·.sink)).getD 0 = 1 ∧ r'.stage.any s'.sendClosed = true) :
    s.commitLeaf e r l = s'.failAt l 0x1002 0 := by
  simp only [State.commitLeaf, hclose, hheld, Bool.false_eq_true, if_false, if_pos hsend]

/-- Otherwise the stage goes to the commit path. -/
theorem State.commitLeaf_handOver (hheld : s'.holdKeeps e l r'.stage = false)
    (hsend : ¬ (((s'.sigOfLeaf l).map (·.sink)).getD 0 = 1 ∧ r'.stage.any s'.sendClosed = true)) :
    s.commitLeaf e r l = s'.handOver e { r' with stage := r'.stage.filter (fun t => !s'.sendClosed t) } l := by
  simp only [State.commitLeaf, hclose, hheld, Bool.false_eq_true, if_false, if_neg hsend]

end

/-- An issued COMMIT is `commitLeaf`. -/
theorem exec_commit_issued {s : State} {e : Nat} {r : EngRun} {l : Leaf} (hI : Issued s e (.commit e) r l) :
    exec (.commit e) s = .next (s.commitLeaf e (counted (.commit e) r) l) := exec_issued hI rfl

-- ---------------------------------------------------------------- words that are no instruction (R47, R97, R100)

section
variable {s : State} {e : Nat} {r : EngRun} {l : Leaf} (hr : s.running_ e = some (r, l))
include hr

theorem exec_invalidInstruction_word (hpc : r.pc < (s.engOf e).codeLen) (hdec : decodeEngine e (s.engWord e r) = none)
    (hclean : s.poisoned (.imem e) r.pc 4 = false) :
    exec (.invalidInstruction e) s = .next (s.failLeaf l.id 0x1001 0) := by
  show execInvalidInstruction e s = _
  simp [execInvalidInstruction, hr, Nat.not_le.mpr hpc, hdec, hclean, ok]

theorem exec_invalidInstruction_beyond (hpc : (s.engOf e).codeLen ≤ r.pc) :
    exec (.invalidInstruction e) s = .next (s.failAt l 0x1006 r.pc) := by
  show execInvalidInstruction e s = _
  simp [execInvalidInstruction, hr, hpc, ok]

theorem exec_stepLimitReached {i : Instr} (hpc : r.pc < (s.engOf e).codeLen)
    (hdec : decodeEngine e (s.engWord e r) = some i) (hlim : r.limit < r.steps + engCost i r) :
    exec (.stepLimitReached e) s = .next (s.failLeaf l.id 0x1007 0) := by
  show execStepLimitReached e s = _
  simp [execStepLimitReached, hr, hpc, hdec, hlim, ok]

end

/-- Settles O27. -/
theorem spawnAndCommit : Obligations.SpawnAndCommit := by
  refine ⟨fun s e a b r l hI => ⟨fun hsig hfew hslot => ?spawn, fun hsig => ?other, fun hsig hmany => ?full⟩,
    fun s s' e r r' l hI hclose => ⟨fun hheld => ?held, fun hheld hsend => ?closed, fun hheld hsend => ?handOver⟩,
    fun s e r l hr => ⟨exec_invalidInstruction_word hr, exec_invalidInstruction_beyond hr, fun _ => exec_stepLimitReached hr⟩⟩
  case spawn =>
    exact ⟨spawnChild s e (r.rg b).toNat l, rfl, rfl, rfl, rfl, rfl, rfl, rfl, rfl, rfl, rfl,
      exec_of_acc_ok hI (fun _ => rfl) (State.spawn_ok (r := counted _ r) hsig hfew hslot)⟩
  case other => exact exec_of_acc_fail hI (fun _ => rfl) (State.spawn_other (r := counted _ r) hsig)
  case full => exact exec_of_acc_fail hI (fun _ => rfl) (State.spawn_full (r := counted _ r) hsig hmany)
  case held => exact (exec_commit_issued hI).trans (congrArg _ (State.commitLeaf_held hclose hheld))
  case closed => exact (exec_commit_issued hI).trans (congrArg _ (State.commitLeaf_closed hclose hheld hsend))
  case handOver => exact (exec_commit_issued hI).trans (congrArg _ (State.commitLeaf_handOver hclose hheld hsend))

end Sys2Proof.Machine
end

section
/-! SUPPORT. Counting the events of a resource within their window (R472). -/
namespace Sys2Proof.Machine

/-- Is an event one of a resource? -/
def CountEvent.isOf (kind idx : Nat) (e : CountEvent) : Bool := e.kind == kind && e.idx == idx

/-- The kept events of a resource that are younger than the window. -/
def State.youngEvents (s : State) (kind idx window : Nat) : List CountEvent :=
  s.col.counts.filter (fun e => e.isOf kind idx && decide (s.col.optime < e.at_ + window))

section
variable {s : State} {kind idx window limit : Nat}

/-- At the limit the resource's events go, and the threshold is reported. -/
theorem State.countEvent_hit (h : limit ≤ (s.youngEvents kind idx window).length + 1) :
    s.countEvent kind idx window limit = ((s.youngEvents kind idx window).length + 1, true,
      { s with col := { s.col with counts := s.col.counts.filter (fun e => !e.isOf kind idx) } }) := if_pos h

/-- Below the limit the young events and the new one stay. -/
theorem State.countEvent_below (h : ¬ limit ≤ (s.youngEvents kind idx window).length + 1) :
    s.countEvent kind idx window limit = ((s.youngEvents kind idx window).length + 1, false,
      { s with col := { s.col with
          counts := s.col.counts.filter (fun e => !e.isOf kind idx || decide (s.col.optime < e.at_ + window)) ++
            [{ kind := kind, idx := idx, at_ := s.col.optime }] } }) := if_neg h

theorem CountEvent.isOf_self (kind idx at_ : Nat) : CountEvent.isOf kind idx { kind := kind, idx := idx, at_ := at_ } = true := by
  simp [CountEvent.isOf]

/-- With its events gone a resource counts from one again. -/
theorem State.countEvent_of_none (h : s.col.counts.filter (CountEvent.isOf kind idx) = []) (hl : 1 < limit) :
    (s.countEvent kind idx window limit).1 = 1 ∧ (s.countEvent kind idx window limit).2.1 = false := by
  have hyoung : s.youngEvents kind idx window = [] := by
    rw [State.youngEvents, List.filter_eq_nil_iff]
    exact fun e he => by simp [List.filter_eq_nil_iff.mp h e he]
  have hno : ¬ limit ≤ (s.youngEvents kind idx window).length + 1 := by rw [hyoung]; simpa using hl
  rw [State.countEvent_below hno, hyoung]
  exact ⟨rfl, rfl⟩

end

/-- Settles O37: the two branches of the count, at and below the limit. -/
theorem faultCounting : Obligations.FaultCounting := by
  intro s kind idx window limit mine young n t
  have hn : n = (s.youngEvents kind idx window).length + 1 := rfl
  by_cases h : limit ≤ (s.youngEvents kind idx window).length + 1
  · have ht : t.col.counts = s.col.counts.filter (fun e => !e.isOf kind idx) := by simp only [t, State.countEvent_hit h]
    have hgone : t.col.counts.filter (CountEvent.isOf kind idx) = [] := by simp [ht, List.filter_filter]
    rw [State.countEvent_hit h]
    refine ⟨rfl, iff_of_true rfl h, ?_, fun _ => ⟨hgone, State.countEvent_of_none hgone⟩, fun hlt => absurd h (by omega)⟩
    rw [ht, List.filter_filter]
    simp [mine, CountEvent.isOf]
  · have ht : t.col.counts = s.col.counts.filter (fun e => !e.isOf kind idx || decide (s.col.optime < e.at_ + window)) ++
        [{ kind := kind, idx := idx, at_ := s.col.optime }] := by simp only [t, State.countEvent_below h]
    rw [State.countEvent_below h]
    refine ⟨rfl, iff_of_false Bool.false_ne_true h, ?_, fun hle => absurd hle h, fun _ => ?_⟩
    · rw [ht, List.filter_append, List.filter_filter]
      have hnew : [({ kind := kind, idx := idx, at_ := s.col.optime } : CountEvent)].filter (fun e => !mine e) = [] := by
        simp [mine]
      rw [hnew, List.append_nil]
      exact List.filter_congr fun e _ => Bool.and_eq_left_iff_imp.mpr fun he => by
        rw [Bool.or_eq_true]; exact .inl he
    · rw [ht, List.filter_append, List.filter_filter]
      have hnew : [({ kind := kind, idx := idx, at_ := s.col.optime } : CountEvent)].filter mine =
          [{ kind := kind, idx := idx, at_ := s.col.optime }] := by simp [mine]
      rw [hnew]
      refine congrArg (· ++ _) (List.filter_congr fun e _ => ?_)
      show (e.isOf kind idx && (!e.isOf kind idx || young e)) = (e.isOf kind idx && young e)
      cases e.isOf kind idx <;> rfl

end Sys2Proof.Machine
end

section
/-! SUPPORT. A completion: written to its ring slot, held, or logged (R329, R332, R342). -/
namespace Sys2Proof.Machine

section
variable (s : State) (i j : Nat) (e : Event)

@[simp] theorem State.keepEvent_mem : (s.keepEvent i e).mem = s.mem := by
  unfold State.keepEvent
  split <;> rfl

@[simp] theorem State.keepEvent_col : (s.keepEvent i e).col = s.col := by
  unfold State.keepEvent
  split <;> rfl

/-- A kept event leaves the hold of its instance. -/
theorem State.keepEvent_hold : ((s.keepEvent i e).inst? j).map (·.hold) = (s.inst? j).map (·.hold) := by
  unfold State.keepEvent
  split
  · rw [State.inst?_updInst, apply_ite (Option.map _), Option.map_map]
    split
    · refine congrArg (Option.map · (s.inst? j)) (funext fun x => ?_)
      simp only [Function.comp]
      split
      · rfl
      · split <;> rfl
    · rfl
  · rfl

/-- Signalling a vector touches no queue. -/
theorem State.signal_insts (fn v : Nat) : (s.signal fn v).insts = s.insts := by
  simp only [State.signal]
  split
  · rfl
  · split <;> rfl

end

theorem length_cqeBytes (h : Held) (n : Nat) (p : Bool) : (cqeBytes h n p).length = 32 := by
  simp [cqeBytes, zeros]

section
variable {s : State} {i k : Nat} {x : Inst} {q : Cq} {h : Held}

theorem State.cq?_eq (hx : s.inst? i = some x) : s.cq? i k = Tab.find x.cqs k := by rw [State.cq?, hx]; rfl

/-- The entry of a completion in the ring of its queue. -/
def State.slotBytes (s : State) (i : Nat) (q : Cq) (h : Held) : Bytes :=
  cqeBytes h (((s.sq? i h.sq).map (·.head)).getD 0) q.phase

/-- The queue after a completion was written at its tail, but for the count of unsignalled completions. -/
def Cq.advanced (q : Cq) (unsig : Nat) : Cq :=
  { q with
    tail := if q.tail + 1 == q.depth then 0 else q.tail + 1
    phase := if q.tail + 1 == q.depth then !q.phase else q.phase
    unsig := unsig }

/-- A written completion stores its entry and moves its queue on; its vector is signalled or not. -/
theorem State.writeCqe_cases (hq : s.cq? i k = some q) :
    ∃ u, let t := (s.hostWrite i (q.base + 32 * q.tail) (s.slotBytes i q h)).updCq i k (fun _ => q.advanced u)
      s.writeCqe i k h = t ∨ s.writeCqe i k h = t.signal i q.iv := by
  simp only [State.writeCqe, hq]
  split
  · split
    · exact ⟨0, .inr rfl⟩
    · exact ⟨q.unsig + 1, .inl rfl⟩
  · exact ⟨q.unsig, .inl rfl⟩

/-- A written completion changes the memory of its slot alone. -/
theorem State.writeCqe_mem (hq : s.cq? i k = some q) (hdma : s.dmaStopped i = false) :
    (s.writeCqe i k h).mem = Mem.writeN s.mem ((Space.host i).base + (q.base + 32 * q.tail)) (s.slotBytes i q h) := by
  have hw : s.hostWrite i (q.base + 32 * q.tail) (s.slotBytes i q h) =
      s.wr (.host i) (q.base + 32 * q.tail) (s.slotBytes i q h) := by
    rw [State.hostWrite, hdma]; rfl
  obtain ⟨u, ht | ht⟩ := State.writeCqe_cases (h := h) hq
  · rw [ht, hw]; rfl
  · rw [ht, State.signal_mem, hw]; rfl

theorem State.cq?_updCq (s : State) (i k : Nat) (f : Cq → Cq) : (s.updCq i k f).cq? i k = (s.cq? i k).map f := by
  simp only [State.cq?, State.updCq, State.inst?_updInst, if_true]
  cases s.inst? i with
  | none => rfl
  | some x => simp [Tab.find_upd]

/-- A written completion moves its queue's tail on, the phase inverted at the wrap. -/
theorem State.writeCqe_cq? (hq : s.cq? i k = some q) :
    ((s.writeCqe i k h).cq? i k).map (fun y => (y.tail, y.phase, y.head)) =
      some (if q.tail + 1 = q.depth then (0, !q.phase, q.head) else (q.tail + 1, q.phase, q.head)) := by
  have hinsts : ∀ (t : State) v, (t.signal i v).cq? i k = t.cq? i k := fun t v => by
    simp only [State.cq?, State.inst?, State.signal_insts]
  have hcq : (s.hostWrite i (q.base + 32 * q.tail) (s.slotBytes i q h)).cq? i k = some q := by
    rw [State.hostWrite]
    split <;> exact hq
  obtain ⟨u, ht⟩ := State.writeCqe_cases (h := h) hq
  have hnew : (s.writeCqe i k h).cq? i k = some (q.advanced u) := by
    rcases ht with ht | ht
    · rw [ht, State.cq?_updCq, hcq]; rfl
    · rw [ht, hinsts, State.cq?_updCq, hcq]; rfl
  rw [hnew]
  by_cases hwrap : q.tail + 1 = q.depth <;> simp [Cq.advanced, hwrap]

/-- A completion behind a full queue or an earlier held one joins the hold. -/
theorem State.postRaw_held (hx : s.inst? i = some x) (hq : s.cq? i k = some q)
    (hheld : (q.full || x.hold.any (fun y => y.cq == k)) = true) :
    ((s.postRaw i k h).inst? i).map (·.hold) = some (x.hold ++ [h]) ∧ (s.postRaw i k h).mem = s.mem := by
  have hinst : ((s.updInst i (fun x => { x with hold := x.hold ++ [h] })).inst? i).map (·.hold) = some (x.hold ++ [h]) := by
    rw [State.inst?_updInst, if_pos rfl, hx]; rfl
  simp only [State.postRaw, hx, hq, hheld, if_true]
  constructor
  · split <;> split <;> simp only [State.keepEvent_hold, hinst]
  · split <;> split <;> simp

/-- A completion without a queue uses one record number and touches no memory. -/
theorem State.logLost_spec (s : State) (i : Nat) (h : Held) :
    (s.logLost i h).col.errNext = s.col.errNext + 1 ∧ (s.logLost i h).mem = s.mem := by
  simp only [State.logLost, State.logErrRaw]
  constructor <;> split <;> simp

end

/-- Settles O41: the three ways of a completion. -/
theorem completionsReachTheirRing : Obligations.CompletionsReachTheirRing := by
  intro s i k x q h hx _
  refine ⟨fun hq hfull hhold hdma => ?ring, fun hq hheld => ?held, fun hnone => ?lost⟩
  case ring =>
    have hcq : s.cq? i k = some q := (State.cq?_eq hx).trans hq
    have hfree : (q.full || x.hold.any (fun y => y.cq == k)) = false := by
      simp only [hfull, Bool.false_or, List.any_eq_false, beq_iff_eq]
      exact hhold
    have hpost : s.postRaw i k h = s.writeCqe i k h := by
      simp only [State.postRaw, hx, hcq, hfree, Bool.false_eq_true, if_false]
    have hmem := State.writeCqe_mem (h := h) hcq hdma
    have hlen : (s.slotBytes i q h).length = 32 := length_cqeBytes _ _ _
    rw [hpost]
    refine ⟨?_, fun a ha => ?_, State.writeCqe_cq? hcq⟩
    · rw [State.rd, hmem, ← hlen, Mem.readN_writeN]; rfl
    · rw [hmem, Mem.read_writeN_out _ _ _ _ (hlen ▸ ha)]
  case held =>
    refine State.postRaw_held hx ((State.cq?_eq hx).trans hq) ?_
    simp only [Bool.or_eq_true, List.any_eq_true, beq_iff_eq]
    exact hheld
  case lost =>
    have hpost : s.postRaw i k h = s.logLost i h := by
      simp only [State.postRaw, hx, (State.cq?_eq hx).trans hnone]
    rw [hpost]
    exact s.logLost_spec i h

end Sys2Proof.Machine
end

section
/-! SUPPORT. The step, the reset state, clocks, and the readings of the thermal sensors (R22, R438, R443, R502). -/
namespace Sys2Proof.Machine

-- ---------------------------------------------------------------- what posting leaves

section
variable {s t : State} (h : Posted s t)
include h

theorem Posted.pending : t.pending = s.pending := by rw [h.1]
theorem Posted.stopped : t.stopped = s.stopped := by rw [h.1]
theorem Posted.powerGood : t.powerGood = s.powerGood := by rw [h.1]
theorem Posted.pins : t.pins = s.pins := by rw [h.1]
theorem Posted.reg (off : Nat) : t.reg off = s.reg off := by rw [h.1]; rfl

end

theorem State.setDev_pending (s : State) (f : Dev → Dev) : (s.setDev f).pending = s.pending := by
  unfold State.setDev
  dsimp only
  split
  · rfl
  · exact (State.raiseAll_posted _ _ _ _ _).pending

theorem State.applyHold_pending (s : State) (v : Nat) : (s.applyHold v).pending = s.pending := by
  simp only [State.applyHold]
  split
  · rfl
  · exact State.setDev_pending _ _

/-- Settles O38: `step` and `idleTick` by their cases. -/
theorem stepRunsTheFrontCommand : Obligations.StepRunsTheFrontCommand := by
  refine ⟨fun _ _ _ => rfl, fun _ => rfl, fun s h => ?_, fun s h => ?_, fun s h => ?_, fun s h => ?_, fun s t v ht => ?_⟩
  · rw [State.endTick, h]; rfl
  · rw [State.endTick, h]; rfl
  · rw [idleTick, h]; exact ⟨rfl, rfl⟩
  · rw [idleTick, h]; rfl
  · rcases ht with ht | ht
    · change (if s.running then ok (s.applyHold v.toNat) else ok s) = .next t at ht
      split at ht <;> obtain rfl := Host.Outcome.next.inj ht
      · exact s.applyHold_pending _
      · rfl
    · change (if s.running then ok { s with ppsStamp := s.timebase, pins := { s.pins with ppsIn := true } } else ok s) =
        .next t at ht
      split at ht <;> obtain rfl := Host.Outcome.next.inj ht <;> rfl

/-- Settles O39: the reset state computes. -/
theorem resetState : Obligations.ResetState :=
  ⟨rfl, rfl, rfl, rfl, rfl, rfl, rfl, rfl, rfl, rfl, rfl, rfl, rfl, rfl, rfl, fun _ => rfl⟩

/-- A lost clock, the first time. -/
theorem execRefclkLoss_new {s : State} {c : RefClk} (hr : s.running = true) (hc : s.clkLost.contains c = false) :
    exec (.refclkLoss c) s = match c with
      | .fab k => .next ((s.clockLost c).fabClock k.val true)
      | .pcie => .next ((s.clockLost c).hotReset [])
      | .cxl p => .next ((s.clockLost c).linkDown p.val)
      | .hbm => .next (s.clockLost c)
      | .aon => .next (s.clockLost c) := by
  have hcond : ¬ ((!s.running || s.clkLost.contains c) = true) := by rw [hr, hc]; decide
  show execRefclkLoss c s = _
  rw [execRefclkLoss, if_neg hcond]
  cases c <;> rfl

/-- The return of a lost clock. -/
theorem execRefclkReturn_lost {s : State} {c : RefClk} (hr : s.running = true) (hc : s.clkLost.contains c = true) :
    exec (.refclkReturn c) s = match c with
      | .fab k => .next ((s.clockBack c).fabClock k.val false)
      | .hbm => .next ((s.clockBack c).resolveCause 7 3 0xFFFF)
      | .pcie => .next (s.clockBack c)
      | .cxl _ => .next (s.clockBack c)
      | .aon => .next (s.clockBack c) := by
  have hcond : ¬ ((!s.running || !s.clkLost.contains c) = true) := by rw [hr, hc]; decide
  show execRefclkReturn c s = _
  rw [execRefclkReturn, if_neg hcond]
  cases c <;> rfl

/-- Settles O32: each clock by its kind. -/
theorem clocksAndPulsePerSecond : Obligations.ClocksAndPulsePerSecond := by
  intro s hr
  refine ⟨fun f hcold hbooted hrestart hfail => ?end_, fun k h => execRefclkLoss_new hr h, fun h => execRefclkLoss_new hr h,
    fun p h => execRefclkLoss_new hr h, fun h => execRefclkLoss_new hr h, fun h => execRefclkLoss_new hr h,
    fun k h => execRefclkReturn_lost hr h, fun h => execRefclkReturn_lost hr h, fun c hc h => ?back, fun hs h => ?hold,
    if_pos hr, fun hs h => ?pps⟩
  case end_ => exact if_neg (by simp [hr, hcold, hbooted, hrestart, hfail])
  case back =>
    rw [execRefclkReturn_lost hr h]
    rcases hc with rfl | rfl | ⟨p, rfl⟩ <;> rfl
  case hold => exact if_pos (by rw [hs, h]; rfl)
  case pps => exact if_pos (by simp [hs, h])

-- ---------------------------------------------------------------- thermal readings (R438, R443)

/-- What a reading below the trip point leaves: the part goes on, THERMTRIP_N and the count of throttled time stay. -/
def KeepsMeter (s t : State) : Prop :=
  t.stopped = s.stopped ∧ t.pins.thermtripN = s.pins.thermtripN ∧ t.reg 0x700028 = s.reg 0x700028

theorem KeepsMeter.refl (s : State) : KeepsMeter s s := ⟨rfl, rfl, rfl⟩

theorem KeepsMeter.trans {s t u : State} (h : KeepsMeter s t) (k : KeepsMeter t u) : KeepsMeter s u :=
  ⟨k.1.trans h.1, k.2.1.trans h.2.1, k.2.2.trans h.2.2⟩

theorem KeepsMeter.foldl {α : Type} {f : State → α → State} (h : ∀ s a, KeepsMeter s (f s a)) (l : List α) (s : State) :
    KeepsMeter s (l.foldl f s) := by
  induction l generalizing s with
  | nil => exact .refl s
  | cons a l ih => exact (h s a).trans (ih _)

theorem KeepsMeter.ite {c : Prop} [Decidable c] {s a b : State} (ha : KeepsMeter s a) (hb : KeepsMeter s b) :
    KeepsMeter s (if c then a else b) := by
  split
  · exact ha
  · exact hb

theorem Posted.keepsMeter {s t : State} (h : Posted s t) : KeepsMeter s t :=
  ⟨h.stopped, congrArg _ h.pins, h.reg _⟩

theorem State.setReg_keepsMeter (s : State) {off : Nat} (v : Nat) (h : off ≠ 0x700028) : KeepsMeter s (s.setReg off v) :=
  ⟨rfl, rfl, s.reg_setReg_ne off _ v h.symm⟩

theorem State.setField_keepsMeter (s : State) {off : Nat} (hi lo x : Nat) (h : off ≠ 0x700028) :
    KeepsMeter s (s.setField off hi lo x) := s.setReg_keepsMeter _ h

theorem State.updChan_keepsMeter (s : State) (c : Nat) (f : Chan → Chan) : KeepsMeter s (s.updChan c f) := ⟨rfl, rfl, rfl⟩

theorem State.setThermAlert_keepsMeter (s : State) (b : Bool) :
    KeepsMeter s { s with pins := { s.pins with thermAlertN := b } } := ⟨rfl, rfl, rfl⟩

theorem offDie_ne (d : Nat) : offDie d ≠ 0x700028 := by unfold offDie; omega
theorem offQTemp_ne (q : Nat) : offQTemp q ≠ 0x700028 := by unfold offQTemp; omega

theorem State.sensorRead_keepsMeter (s : State) (k : Nat) (x : Int) : KeepsMeter s (s.sensorRead k x) := by
  simp only [State.sensorRead]
  exact .ite (.trans ⟨rfl, rfl, rfl⟩ (State.logFh_posted _ _).keepsMeter) ⟨rfl, rfl, rfl⟩

theorem State.quireTj_keepsMeter (s : State) (q : Nat) : KeepsMeter s (s.quireTj q).2 := by
  rw [State.quireTj]
  split
  · exact .refl s
  · split <;> exact ⟨rfl, rfl, rfl⟩

theorem State.quireThermal_keepsMeter (s : State) (q : Nat) : KeepsMeter s (s.quireThermal q) := by
  have hoff := offQTemp_ne q
  refine (s.quireTj_keepsMeter q).trans (KeepsMeter.trans ?_ (State.setReg_keepsMeter _ _ hoff))
  exact KeepsMeter.trans ⟨rfl, rfl, rfl⟩ (State.setReg_keepsMeter _ _ hoff)

/-- The sensors of a reading with their numbers. -/
def numbered (r : Thermal) : List (Nat × Int) :=
  (r.quire.take 16).zipIdx.flatMap (fun p => (p.1.take 4).zipIdx.map (fun x => (4 * p.2 + x.2, x.1)))
    ++ (r.iod.take 2).zipIdx.flatMap (fun p => (p.1.take 4).zipIdx.map (fun x => (64 + 4 * p.2 + x.2, x.1)))
    ++ (r.stack.take 8).zipIdx.map (fun x => (72 + x.2, x.1))

/-- Numbering keeps the readings. -/
theorem map_snd_zipIdx {α : Type} (l : List α) (f : Nat → Nat) : (l.zipIdx.map (fun x => (f x.2, x.1))).map (·.2) = l := by
  rw [List.map_map]
  exact List.zipIdx_map_fst 0 l

theorem flatMap_fst_zipIdx {α β : Type} (l : List α) (g : α → List β) : l.zipIdx.flatMap (fun p => g p.1) = l.flatMap g := by
  conv => rhs; rw [← List.zipIdx_map_fst 0 l, List.flatMap_map]

theorem map_snd_numbered (r : Thermal) : (numbered r).map (·.2) =
    (r.quire.take 16).flatMap (·.take 4) ++ (r.iod.take 2).flatMap (·.take 4) ++ r.stack.take 8 := by
  simp only [numbered, List.map_append, List.map_flatMap, map_snd_zipIdx, flatMap_fst_zipIdx _ (List.take 4)]

/-- A reading of a sensor at the trip point is one of the numbered readings. -/
theorem trips_iff (r : Thermal) : (numbered r).any (fun x => decide (110 ≤ x.2)) = true ↔
    ∃ x ∈ (r.quire.take 16).flatMap (·.take 4) ++ (r.iod.take 2).flatMap (·.take 4) ++ r.stack.take 8, 110 ≤ x := by
  have hany : (numbered r).any (fun x => decide (110 ≤ x.2)) = ((numbered r).map (·.2)).any (fun x => decide (110 ≤ x)) := by
    rw [List.any_map]
    rfl
  simp only [hany, map_snd_numbered, List.any_eq_true, decide_eq_true_eq]

/-- A reading below the trip point counts throttled time, and then keeps the meter. -/
theorem exec_thermalSensorRead_cool {s : State} {r : Thermal} (hr : s.running = true)
    (hany : ¬ (numbered r).any (fun x => decide (110 ≤ x.2)) = true) :
    ∃ t, exec (.thermalSensorRead r) s = .next t ∧
      KeepsMeter (if s.pwr.hot = [] then s else s.count 0x700028 10000) t := by
  have hexec : exec (.thermalSensorRead r) s = execThermalSensorRead r s := rfl
  have hrun : ¬ (!s.running) = true := by rw [hr]; decide
  rw [execThermalSensorRead, if_neg hrun] at hexec
  extract_lets xs pins0 s1 s2 s3 s4 alert top pins1 s5 at hexec
  have hcool : ¬ xs.any (fun x => decide (110 ≤ x.2)) = true := hany
  rw [if_neg hcool] at hexec
  have hsensors : KeepsMeter s1 s2 := KeepsMeter.foldl (fun s (x : Nat × Int) => s.sensorRead_keepsMeter x.1 x.2) _ s1
  have hquires : KeepsMeter s2 s3 := KeepsMeter.foldl State.quireThermal_keepsMeter _ s2
  have hdies : KeepsMeter s3 s4 := KeepsMeter.foldl (fun s d => s.setField_keepsMeter 31 24 _ (offDie_ne d)) _ s3
  clear_value s4
  have halert : KeepsMeter s4 s5 := .ite (.refl s4) (.ite (s4.setThermAlert_keepsMeter false) (.ite (s4.setThermAlert_keepsMeter true) (.refl s4)))
  clear_value s5
  refine ⟨_, hexec, hsensors.trans (hquires.trans (hdies.trans (halert.trans (KeepsMeter.foldl (fun s h => ?_) _ s5))))⟩
  split
  · refine KeepsMeter.foldl (fun s c => ?_) _ _
    exact s.updChan_keepsMeter _ _
  · exact .refl s

/-- Settles O34: the trip point decides, and the rest of a reading keeps the meter of throttled time. -/
theorem thermalReadings : Obligations.ThermalReadings := by
  intro s r hr
  refine ⟨fun htrip => ?_, fun hcool => ?_⟩
  · have hany := (trips_iff r).mpr htrip
    show execThermalSensorRead r s = _
    rw [execThermalSensorRead, hr]
    exact if_pos hany
  · have hany : ¬ (numbered r).any (fun x => decide (110 ≤ x.2)) = true := fun h => by
      obtain ⟨x, hx, hle⟩ := (trips_iff r).mp h
      exact absurd (hcool x hx) (Int.not_lt.mpr hle)
    obtain ⟨t, hexec, hstop, htripN, hmeter⟩ := exec_thermalSensorRead_cool hr hany
    have hrun : s.stopped = false := by simp [State.running] at hr; exact hr.2
    refine ⟨_, hexec, hstop.trans ?_, htripN.trans ?_, hmeter.trans ?_⟩ <;> split
    · exact hrun
    · exact hrun
    · rfl
    · rfl
    · rfl
    · exact s.reg_setReg_same _ _

end Sys2Proof.Machine
end

section
/-! SUPPORT. What a Cold Start clears and keeps, and the events that start and stop it (R448–R452, R459, R498–R500). -/
namespace Sys2Proof.Machine

-- ---------------------------------------------------------------- what is cleared (R450, R500)

/-- Of memory a Cold Start keeps the cells of host memory. -/
theorem read_hostCells (m : Mem) (k : Nat) :
    Mem.read (hostCells m) k = if (256 <<< 80) ≤ k ∧ k < (512 <<< 80) then Mem.read m k else 0 := by
  refine (Mem.read_filter m (fun a => decide ((256 <<< 80) ≤ a) && decide (a < (512 <<< 80))) k).trans ?_
  simp only [Bool.and_eq_true, decide_eq_true_eq]

/-- The cells of host memory lie in its range, and nothing below 2^88 does. -/
theorem host_range {fn a : Nat} (hfn : fn < 256) (ha : a < 2 ^ 80) :
    (256 <<< 80) ≤ (Space.host fn).base + a ∧ (Space.host fn).base + a < (512 <<< 80) := by
  have hbounds : ∀ n, a < n → 256 * n ≤ (256 + fn) * n + a ∧ (256 + fn) * n + a < 512 * n := fun n hn => by
    have hmul := Nat.mul_le_mul_right n (Nat.succ_le_of_lt hfn)
    rw [Nat.succ_mul] at hmul
    rw [Nat.add_mul]
    omega
  have hbase : (Space.host fn).base = (256 + fn) * 2 ^ 80 := Nat.shiftLeft_eq _ _
  rw [hbase, Nat.shiftLeft_eq, Nat.shiftLeft_eq]
  exact hbounds _ ha

theorem below_host {k : Nat} (hk : k < 2 ^ 88) : ¬ (256 <<< 80) ≤ k :=
  Nat.not_le_of_gt (Nat.lt_of_lt_of_le hk (by decide))

theorem State.coldClear_mem (s : State) : s.coldClear.mem = hostCells s.mem := rfl

theorem State.coldClear_dirty (s : State) :
    s.coldClear.col.dirty = s.col.dirty ∧ s.coldClear.col.featDirty = s.col.featDirty := ⟨rfl, rfl⟩

theorem State.saveSettings_dirty (s : State) :
    s.saveSettings.col.dirty = [] ∧ s.saveSettings.col.featDirty = [] := ⟨rfl, rfl⟩

/-- Nothing waits to be saved after a reset that keeps power (R467). -/
theorem State.resetTo_dirty (s : State) : s.resetTo.col.dirty = [] ∧ s.resetTo.col.featDirty = [] := by
  rw [State.resetTo, (State.coldClear_dirty _).1, (State.coldClear_dirty _).2]
  exact State.saveSettings_dirty _

/-- Settles O28: the fields compute, and memory is filtered by address. -/
theorem coldStartClearsAndKeeps : Obligations.ColdStartClearsAndKeeps := by
  refine ⟨fun s => ?fields, fun s fn a hfn ha => ?host, fun s k hk => ?rest, fun s => ⟨?reset, s.resetTo_dirty⟩⟩
  case fields =>
    and_intros
    all_goals rfl
  case host =>
    exact (congrArg (Mem.read · _) s.coldClear_mem).trans ((read_hostCells s.mem _).trans (if_pos (host_range hfn ha)))
  case rest =>
    exact (congrArg (Mem.read · k) s.coldClear_mem).trans ((read_hostCells s.mem k).trans (if_neg fun h => below_host hk h.1))
  case reset => rw [State.resetTo]

-- ---------------------------------------------------------------- records while no instance exists

theorem State.raise_of_no_insts {s : State} (h : s.insts = []) (i a b c d : Nat) : s.raise i a b c d = s := by
  have hkeep : ∀ e, s.keepEvent i e = s := fun e => by
    unfold State.keepEvent
    split
    · rw [State.updInst, h]
      exact congrArg (fun x => ({ s with insts := x } : State)) h.symm
    · rfl
  have hnone : s.inst? i = none := by rw [State.inst?, h]; rfl
  rw [State.raise, hkeep, State.drainEvents, hnone]

/-- A record kept while no instance exists changes the log and its numbers alone. -/
theorem State.logFh_of_no_insts {s : State} (h : s.insts = []) (a : FhArgs) :
    ∃ l, s.logFh a = { s with log := l, col := { s.col with fhNext := s.col.fhNext + 1 } } := by
  rw [State.logFh, State.raise_of_no_insts (by exact h)]
  exact ⟨_, rfl⟩

/-- What the search for a slot to boot keeps. -/
structure Booting (s t : State) : Prop where
  rest : t = { s with log := t.log, col := { s.col with fhNext := t.col.fhNext }, dev := t.dev, slc := t.slc }
  factory : t.dev.factory = s.dev.factory
  cold : t.dev.cold = s.dev.cold

theorem Booting.refl (s : State) : Booting s s := ⟨rfl, rfl, rfl⟩

theorem Booting.trans {s t u : State} (h : Booting s t) (k : Booting t u) : Booting s u :=
  ⟨by rw [k.rest, h.rest], k.factory.trans h.factory, k.cold.trans h.cold⟩

section
variable {s t : State} (h : Booting s t)
include h

theorem Booting.insts : t.insts = s.insts := by rw [h.rest]
theorem Booting.slotBad (bad : List (Nat × Nat)) (k : Nat) : t.slotBad bad k = s.slotBad bad k := by rw [h.rest]; rfl

end

theorem State.logFh_booting {s : State} (h : s.insts = []) (a : FhArgs) :
    Booting s (s.logFh a) ∧ (s.logFh a).dev = s.dev := by
  obtain ⟨l, hl⟩ := State.logFh_of_no_insts h a
  rw [hl]
  exact ⟨⟨rfl, rfl, rfl⟩, rfl⟩

/-- A failed slot is recorded and the next one tried (R452). -/
theorem State.trySlots_cons_bad {s : State} (h : s.insts = []) {bad : List (Nat × Nat)} {k comp : Nat} (r : List Nat) (n : Nat)
    (hk : s.slotBad bad k = some comp) :
    ∃ t, Booting s t ∧ s.trySlots bad (k :: r) n = t.trySlots bad r (if comp = 0 then 3 else 4) := by
  have hlog := State.logFh_booting h { kind := 0x0A02, outcome := 7, resType := 0x0D, resIdx := k,
                                       data := leBytes 4 k ++ leBytes 4 comp }
  rw [State.trySlots]
  simp only [hk]
  refine ⟨_, ?_, rfl⟩
  exact hlog.1.trans ⟨rfl, rfl, rfl⟩

/-- A slot that passes boots. -/
theorem State.trySlots_cons_good {s : State} {bad : List (Nat × Nat)} {k : Nat} (r : List Nat) (n : Nat)
    (hk : s.slotBad bad k = none) :
    Booting s (s.trySlots bad (k :: r) n) ∧ (s.trySlots bad (k :: r) n).dev.booted = true ∧
      (s.trySlots bad (k :: r) n).dev.activeSlot = k := by
  rw [State.trySlots, hk]
  exact ⟨⟨rfl, rfl, rfl⟩, rfl, rfl⟩

/-- The search keeps what it may; with every slot failed Cold Start stops with COLD_FAIL. -/
theorem State.trySlots_spec (bad : List (Nat × Nat)) (l : List Nat) {s : State} (h : s.insts = []) {n : Nat} (hn : n ≠ 0) :
    Booting s (s.trySlots bad l n) ∧ ((∀ k ∈ l, s.slotBad bad k ≠ none) →
      (s.trySlots bad l n).dev.booted = false ∧ (s.trySlots bad l n).dev.coldFail ≠ 0) := by
  induction l generalizing s n with
  | nil => exact ⟨⟨rfl, rfl, rfl⟩, fun _ => ⟨rfl, hn⟩⟩
  | cons k r ih =>
    cases hk : s.slotBad bad k with
    | none => exact ⟨(State.trySlots_cons_good r n hk).1, fun hall => absurd hk (hall k List.mem_cons_self)⟩
    | some comp =>
      obtain ⟨t, ht, heq⟩ := State.trySlots_cons_bad h r n hk
      obtain ⟨hrest, hfail⟩ := ih (s := t) (ht.insts.trans h) (n := if comp = 0 then 3 else 4) (by split <;> decide)
      rw [heq]
      refine ⟨ht.trans hrest, fun hall => hfail fun j hj => ?_⟩
      rw [ht.slotBad]
      exact hall j (.tail _ hj)

/-- The boot order begins with NEXT_SLOT. -/
theorem bootOrder_eq_cons (next : Nat) : ∃ r, bootOrder next = next :: r := by
  have hfold : ∀ (l acc : List Nat), ∃ r,
      l.foldl (fun acc x => if acc.contains x then acc else acc ++ [x]) (next :: acc) = next :: r := by
    intro l
    induction l with
    | nil => exact fun acc => ⟨acc, rfl⟩
    | cons x l ih =>
      intro acc
      rw [List.foldl_cons]
      split
      · exact ih acc
      · exact ih (acc ++ [x])
  exact hfold _ []

-- ---------------------------------------------------------------- Cold Start (R451, R452)

/-- Cold Start begins: the boot is counted, and the events from the reset are past. -/
def State.bootCounted (s : State) : State :=
  { s with col := { s.col with boots := s.col.boots + 1 }, dev := { s.dev with restart := false, coldStep := 3 } }

/-- Cold Start then records a closed factory pin. -/
def State.bootGated (s : State) : State :=
  if s.bootCounted.pins.factoryEn && s.bootCounted.col.prodLock then s.bootCounted.gatingDenied 12 else s.bootCounted

theorem State.coldStart_eq (s : State) (bad : List (Nat × Nat)) :
    s.coldStart bad = if (s.bootGated.pins.factoryEn && !s.bootGated.col.prodLock) = true
      then { s.bootGated with dev := { s.bootGated.dev with factory := true, cold := false } }
      else s.bootGated.trySlots bad (bootOrder s.bootGated.col.nextSlot) 3 := rfl

theorem State.bootGated_booting {s : State} (h : s.insts = []) : Booting s.bootCounted s.bootGated := by
  unfold State.bootGated
  split
  · exact (State.logFh_booting (s := s.bootCounted) h _).1
  · exact .refl _

theorem Booting.pins {s t : State} (h : Booting s t) : t.pins = s.pins := by rw [h.rest]

theorem Booting.prodLock {s t : State} (h : Booting s t) : t.col.prodLock = s.col.prodLock := by rw [h.rest]

theorem Booting.nextSlot {s t : State} (h : Booting s t) : t.col.nextSlot = s.col.nextSlot := by rw [h.rest]

/-- The state in which power-good finds the machine, cleared, as Cold Start begins. -/
def State.poweredUp (s : State) : State :=
  ({ s with powerGood := true, timebase := 0, stopped := false,
            col := { s.col with optime := s.col.optimeSaved } } : State).coldClear

/-- What the boot on a cleared machine leaves, whichever way it ends. -/
theorem Booting.poweredUp {s u : State} (h : Booting s.poweredUp.bootCounted u) :
    u.powerGood = true ∧ u.stopped = false ∧ u.timebase = 0 ∧ u.col.boots = s.col.boots + 1 ∧ u.insts = [] ∧
      u.leaves = [] ∧ u.cmds = [] := by
  rw [h.rest]
  exact ⟨rfl, rfl, rfl, rfl, rfl, rfl, rfl⟩

theorem exec_powerGoodRise {s : State} (hp : s.powerGood = false) (bad : List (Nat × Nat)) :
    exec (.powerGoodRise bad) s = .next (s.poweredUp.coldStart bad) :=
  if_neg (by simp [hp])

/-- Power-good on a part for the factory ends in FACTORY; on another it tries the slots in boot order. -/
theorem State.poweredUp_coldStart (s : State) (bad : List (Nat × Nat)) :
    ∃ u, Booting s.poweredUp.bootCounted u ∧
      s.poweredUp.coldStart bad = if (s.pins.factoryEn && !s.col.prodLock) = true
        then { u with dev := { u.dev with factory := true, cold := false } }
        else u.trySlots bad (bootOrder s.col.nextSlot) 3 := by
  have h := State.bootGated_booting (s := s.poweredUp) rfl
  have hfactory : (s.poweredUp.bootGated.pins.factoryEn && !s.poweredUp.bootGated.col.prodLock)
      = (s.pins.factoryEn && !s.col.prodLock) := by rw [h.pins, h.prodLock]; rfl
  have hnext : s.poweredUp.bootGated.col.nextSlot = s.col.nextSlot := h.nextSlot
  exact ⟨_, h, by rw [State.coldStart_eq, hfactory, hnext]⟩

theorem exec_powerGoodFall {s : State} (hp : s.powerGood = true) :
    exec .powerGoodFall s = .next { s.coldClear with
      powerGood := false, msixCtl := [], link := none, stopped := false, log := {}
      col := { s.coldClear.col with dirty := [], featDirty := [] }
      pins := { s.coldClear.pins with thermAlertN := true, gpio := 0 }
      dev := {} } :=
  if_neg (by simp [hp])

-- ---------------------------------------------------------------- DEV_MODE_CTRL

/-- Starting or ending a holder leaves Cold Start, FACTORY and the activation as they are. -/
theorem State.holder_keeps (s : State) (b : Nat) (on : Bool) :
    (s.holder b on).dev.cold = s.dev.cold ∧ (s.holder b on).dev.factory = s.dev.factory ∧
      (s.holder b on).dev.act = s.dev.act := by
  unfold State.holder
  obtain ⟨u, h, hu⟩ := s.setDev_posted (fun d => { d with
    maint := if on then (if d.maint.contains b then d.maint else d.maint ++ [b]) else d.maint.filter (· != b) })
  rw [h.dev]
  rcases hu with hu | hu <;> rw [hu] <;> exact ⟨rfl, rfl, rfl⟩

theorem bits_toNat (v : Word) (hi lo : Nat) : bits v.toNat hi lo = (v.extractLsb' lo (hi + 1 - lo)).toNat := by
  rw [bits, BitVec.extractLsb'_toNat]

/-- A write with DEV_RESET and its key runs the reset of R459 where neither Cold Start nor FACTORY keeps it off. -/
theorem State.writeModeCtrl_reset {s : State} {v : Word} (hr : s.running = true) (hc : s.dev.cold = false)
    (hf : s.dev.factory = false) (hp : s.paused = false) (hb : v.getLsbD 1 = true) (hk : v.extractLsb' 16 16 = 0xD1E5)
    (bad : List (Nat × Nat)) : s.writeModeCtrl v.toNat bad = (s.applyHold v.toNat).deviceReset bad := by
  obtain ⟨hcold, hfact, hact⟩ := State.holder_keeps { s with dev := { s.dev with maintHold := bitAt v.toNat 0 } } 3 (bitAt v.toNat 0)
  rw [← s.applyHold_of_not_paused hp] at hcold hfact hact
  have hbit : bitAt v.toNat 1 = true := (bitAt_toNat v 1).trans hb
  have hkey : bits v.toNat 31 16 = 0xD1E5 := by rw [bits_toNat, hk]; rfl
  have hpause : ((s.applyHold v.toNat).dev.act.map (·.paused)).getD false = false := by rw [hact]; exact hp
  simp [State.writeModeCtrl, hr, hbit, hkey, hcold, hfact, hc, hf, hpause]

/-- Settles O29: each event by the branch of its row that its clause names. -/
theorem powerGoodAndPerst : Obligations.PowerGoodAndPerst := by
  intro s bad
  refine ⟨fun hp => ?rise, fun hp => ⟨_, exec_powerGoodFall hp, rfl, rfl, rfl, rfl, rfl, rfl, rfl, rfl, rfl, rfl, rfl⟩,
    fun hr hf => if_neg ?perst, fun hr hf hpin => ?deassert, fun h => ⟨if_pos ?off, ?offDeassert⟩, fun hr hf => ?hotFactory,
    fun hr hf => ?hot, fun v hr hc hf hp hb hk => congrArg Host.Outcome.next (State.writeModeCtrl_reset hr hc hf hp hb hk bad),
    fun v hr hp => ⟨_, exec_maintHoldWrite hr v, ?hold⟩, fun hr hc hb hrs hcf => ?efura⟩
  case rise =>
    refine ⟨_, exec_powerGoodRise hp bad, ?_⟩
    obtain ⟨u, hu, heq⟩ := s.poweredUp_coldStart bad
    have hfactory : u.dev.factory = false := hu.factory
    have hcold : u.dev.cold = true := hu.cold
    cases hfac : s.pins.factoryEn && !s.col.prodLock with
    | true =>
      rw [heq, if_pos hfac]
      obtain ⟨h1, h2, h3, h4, h5, h6, h7⟩ := hu.poweredUp
      exact ⟨h1, h2, h3, h4, h5, h6, h7, fun _ => rfl, nofun⟩
    | false =>
      rw [heq, if_neg (by rw [hfac]; decide)]
      obtain ⟨hboot, hfail⟩ := State.trySlots_spec bad (bootOrder s.col.nextSlot) hu.poweredUp.2.2.2.2.1 (n := 3) (by decide)
      obtain ⟨h1, h2, h3, h4, h5, h6, h7⟩ := (hu.trans hboot).poweredUp
      refine ⟨h1, h2, h3, h4, h5, h6, h7, nofun, fun _ => ⟨?_, fun hk => ?_, fun hall => hfail fun k hk => ?_⟩⟩
      · exact Dev.mode_of_cold (hboot.factory.trans hfactory) (hboot.cold.trans hcold)
      · obtain ⟨r, hr⟩ := bootOrder_eq_cons s.col.nextSlot
        rw [hr]
        exact (State.trySlots_cons_good r 3 ((hu.slotBad bad _).trans hk)).2
      · exact (hu.slotBad bad k).symm ▸ hall k hk
  case perst => simp [State.running] at hr ⊢; simp [hr, hf]
  case deassert =>
    exact (if_neg (by simp [hpin])).trans (if_neg (by simp [State.running] at hr ⊢; simp [hr, hf]))
  case off => rcases h with h | h <;> simp [State.running, h]
  case offDeassert =>
    cases hpin : s.pins.perstN with
    | true => exact (if_pos hpin).trans (congrArg (fun b => ok { s with pins := { s.pins with perstN := b } }) hpin)
    | false =>
      exact (if_neg (by simp [hpin])).trans (if_pos (by rcases h with h | h <;> simp [State.running, h]))
  case hotFactory => exact congrArg ok ((if_neg (by simp [hr])).trans (if_pos hf))
  case hot => exact congrArg ok ((if_neg (by simp [hr])).trans (if_neg (by simp [hf])))
  case hold => exact ⟨(s.applyHold_maintHold _).trans (bitAt_toNat v 0), (State.applyHold_maint hp _).1.trans (bitAt_toNat v 0)⟩
  case efura => exact if_pos (by simp [hr, hc, hb, hrs, hcf])

end Sys2Proof.Machine
end

section
/-! SUPPORT. The power controller (R439–R447) and register accesses (R6–R9, R461, R472–R474). -/
namespace Sys2Proof.Machine

-- ---------------------------------------------------------------- register fields

/-- The lower field takes the value and leaves the upper one. -/
theorem putField_low (v x : Nat) :
    putField v 31 0 x % 2 ^ 32 = x % 2 ^ 32 ∧ putField v 31 0 x / 2 ^ 32 = v / 2 ^ 32 := by
  simp only [putField, bits, Nat.shiftRight_zero]
  omega

theorem State.reg_setField_low (s : State) (off x : Nat) :
    (s.setField off 31 0 x).reg off % 2 ^ 32 = x % 2 ^ 32 ∧
      (s.setField off 31 0 x).reg off / 2 ^ 32 = s.reg off / 2 ^ 32 % 2 ^ 32 := by
  obtain ⟨hlow, hhigh⟩ := putField_low (s.reg off) x
  rw [State.setField, State.reg_setReg_same]
  omega

theorem State.reg_setField_ne (s : State) {off j : Nat} (hi lo x : Nat) (h : j ≠ off) :
    (s.setField off hi lo x).reg j = s.reg j := s.reg_setReg_ne off j _ h

-- ---------------------------------------------------------------- the power brake (R446)

/-- Commands to the rails go out in turn; no register but those of the dies changes. -/
theorem railCommands_spec (l : List Nat) (s : State) :
    (l.foldl (fun s d => s.railCommand d (s.regField offPwrCfg 15 8)) s).outbox
        = s.outbox ++ l.map (fun d => Output.avs d (s.regField offPwrCfg 15 8)) ∧
      (l.foldl (fun s d => s.railCommand d (s.regField offPwrCfg 15 8)) s).pins = s.pins ∧
      (l.foldl (fun s d => s.railCommand d (s.regField offPwrCfg 15 8)) s).quires = s.quires ∧
      ∀ off, off < 0x700100 → (l.foldl (fun s d => s.railCommand d (s.regField offPwrCfg 15 8)) s).reg off = s.reg off := by
  induction l generalizing s with
  | nil => exact ⟨(List.append_nil _).symm, rfl, rfl, fun _ _ => rfl⟩
  | cons d l ih =>
    obtain ⟨hout, hpins, hquires, hreg⟩ := ih (s.railCommand d (s.regField offPwrCfg 15 8))
    have hstep : ∀ off, off < 0x700100 → (s.railCommand d (s.regField offPwrCfg 15 8)).reg off = s.reg off := fun off h =>
      s.reg_setField_ne 7 0 _ (by unfold offDie; omega)
    have hcode : (s.railCommand d (s.regField offPwrCfg 15 8)).regField offPwrCfg 15 8 = s.regField offPwrCfg 15 8 :=
      congrArg (bits · 15 8) (hstep offPwrCfg (by decide))
    rw [hcode] at hout
    refine ⟨hout.trans ?_, hpins, hquires, fun off h => (hreg off h).trans (hstep off h)⟩
    exact List.append_assoc s.outbox _ _

/-- The brake takes the credits to at most zero. -/
def State.brakeCredits (s : State) : State :=
  { s with pins := { s.pins with pwrbrkN := false }
           quires := s.quires.map (fun (p : Nat × Quire) => (p.1, { p.2 with credit := min p.2.credit 0 })) }

theorem exec_pwrbrkNAssert {s : State} (hr : s.running = true) (hp : s.pins.pwrbrkN = true) :
    exec .pwrbrkNAssert s = .next (((List.range 4).foldl (fun s d => s.railCommand d (s.regField offPwrCfg 15 8))
      s.brakeCredits).count 0x700020 1) :=
  if_neg (by simp [hp]; exact hr)

/-- Updates of the power controller's own state that keep its FIFO. -/
theorem foldl_updPwr {g : State → Nat → Pwr → Pwr} (h : ∀ s d p, (g s d p).fifo = p.fifo) (l : List Nat) (s : State) :
    ∃ p, l.foldl (fun s d => s.updPwr (g s d)) s = { s with pwr := p } ∧ p.fifo = s.pwr.fifo := by
  induction l generalizing s with
  | nil => exact ⟨s.pwr, rfl, rfl⟩
  | cons d l ih =>
    obtain ⟨p, hp, hfifo⟩ := ih (s.updPwr (g s d))
    exact ⟨p, hp, hfifo.trans (h s d s.pwr)⟩

/-- A refill joins the synchroniser FIFO with the POWER_CAP commands it completes (R440). -/
theorem exec_budgetRefill {s : State} (hs : s.serving = true) (other : Nat) :
    ∃ p, exec (.budgetRefill other) s = .next { s.setField 0x700010 31 0
          (if s.pins.pwrbrkN then s.feature 0 1 else s.feature 0 1 * 2 / 5) with pwr := p } ∧
      p.fifo = s.pwr.fifo ++ [(s.refills other, (s.cmds.filter (fun c => c.op == 3 && c.phase == .running
        && !(s.pwr.fifo.flatMap (·.2)).contains c.no)).map (·.no))] := by
  have hexec : exec (.budgetRefill other) s = execBudgetRefill other s := rfl
  have hserving : ¬ (!s.serving) = true := by rw [hs]; decide
  rw [execBudgetRefill, if_neg hserving] at hexec
  extract_lets l busy caps s1 s2 at hexec
  obtain ⟨p, hp, hfifo⟩ := foldl_updPwr (g := fun s d p =>
    let n := sumOf ((l.drop (4 * d)).take 4)
    { p with currents := keepLast 100 p.currents d (ceilDiv (n * 100) (milliVolts (s.railTarget d)))
             refills := keepLast 100 p.refills d n }) (fun _ _ _ => rfl) (List.range 4) s2
  exact ⟨p, hexec.trans (congrArg ok hp), hfifo⟩

/-- Settles O35: one branch of each row, and the frame of the rail commands. -/
theorem powerController : Obligations.PowerController := by
  intro s
  refine ⟨fun mw hr => ⟨_, if_pos hr, (s.reg_setField_low _ mw).1, (s.reg_setField_low _ mw).2,
      fun off h => s.reg_setField_ne 31 0 mw h⟩, fun rails hr => if_neg (by simp [hr]),
    fun other hs => ?refill,
    fun refill cmds rest hs hf => ?credit, fun busOk used hs => if_neg (by simp [hs]), fun hr hp => ?brake, rfl⟩
  case refill =>
    obtain ⟨p, hexec, hfifo⟩ := exec_budgetRefill hs other
    exact ⟨_, hexec, hfifo, rfl, rfl, (s.reg_setField_low 0x700010 _).1⟩
  case credit =>
    show execCreditRefill s = _
    simp only [execCreditRefill, hf]
    exact if_neg (by simp [hs])
  case brake =>
    obtain ⟨hout, hpins, hquires, hreg⟩ := railCommands_spec (List.range 4) s.brakeCredits
    refine ⟨_, exec_pwrbrkNAssert hr hp, congrArg Pins.pwrbrkN hpins, hquires, hout, (State.reg_setReg_same _ _ _).trans ?_⟩
    rw [hreg _ (by decide)]
    rfl

-- ---------------------------------------------------------------- register accesses (R6–R9)

/-- A read of the low half latches the other one, and the read of that one answers and frees it (R7). -/
theorem exec_latchedLowHalfRead_low {s : State} (hr : s.running = true) {off : Nat} (h : off % 8 = 0) :
    exec (.latchedLowHalfRead off) s = .next ({ s with dev := { s.dev with latch := some (off, s.regRead off / 2 ^ 32) } }.emit
      (.readData off (BitVec.ofNat 64 (s.regRead off % 2 ^ 32)))) :=
  (if_neg (by simp [hr])).trans ((if_neg (by omega)).trans (if_pos h))

theorem exec_latchedLowHalfRead_high {s : State} (hr : s.running = true) {off v : Nat} (h : off % 8 = 0)
    (hl : s.dev.latch = some (off, v)) :
    exec (.latchedLowHalfRead (off + 4)) s = .next ({ s with dev := { s.dev with latch := none } }.emit
      (.readData (off + 4) (BitVec.ofNat 64 v))) := by
  refine (if_neg (by simp [hr])).trans ((if_neg (by omega)).trans ((if_neg (by omega)).trans ?_))
  rw [hl, Nat.add_sub_cancel]
  simp only [if_pos]
  rfl

theorem State.assigned_setDev (s : State) (d : Dev) (sp : RegSpace) (off : Nat) :
    ({ s with dev := d } : State).assigned sp off = s.assigned sp off := by
  cases sp <;> rfl

/-- An access of a wrong size is counted where its offset is assigned, changes no register, and reads as zero (R6). -/
theorem State.badAccess_spec (s : State) (sp : RegSpace) (off size : Nat) (w : Bool) :
    (s.badAccess sp off size w).dev.badAccess = s.dev.badAccess + (if s.assigned sp off then 1 else 0) ∧
      (s.badAccess sp off size w).regs = s.regs ∧ (s.badAccess sp off size w).winRegs = s.winRegs ∧
      (s.badAccess sp off size w).outbox = (if w then s.outbox else s.outbox ++ [.readData off 0]) := by
  cases hassigned : s.assigned sp off <;> cases sp <;> cases w <;>
    simp [State.badAccess, hassigned, State.assigned_setDev, State.emit]

/-- COLL_CFG only stores: no rule beyond the legality of its fields stands in the way of a write. -/
theorem exec_registerWrite_collCfg {s : State} (hs : s.serving = true) (v : Word) :
    exec (.registerWrite .bar0 0x200000 8 v) s = .next (s.plainWrite 0x200000 0x200000 8 v.toNat) := by
  have hrow : s.barRow 0x200000 8 v.toNat = s.barWrite 0x200000 8 v.toNat := by
    simp only [State.barRow, hs]
    rfl
  have hwrite : s.barWrite 0x200000 8 v.toNat = s.plainWrite 0x200000 0x200000 8 v.toNat := rfl
  have hr : s.running = true := by
    simp only [State.serving, Bool.and_eq_true] at hs
    simp [State.running, hs]
  refine (if_neg ?_).trans (congrArg ok (hrow.trans hwrite))
  simp [hr]

theorem State.plainWrite_collCfg (s : State) {r : RegInfo} (hreg : regInfo 0x200000 = some r) (v : Nat) :
    s.plainWrite 0x200000 0x200000 8 v = if regLegal 0x200000 (regMerge r (s.reg 0x200000) 0x200000 8 v) = true
      then s.storeReg 0x200000 (regMerge r (s.reg 0x200000) 0x200000 8 v) else s := by
  have hcost : s.costOk 0x200000 0x200000 8 v = true := rfl
  have hinst : regInst 0x200000 = none := rfl
  have hqm : ((0x200000 : Nat) == offQmConfig) = false := rfl
  rw [State.plainWrite, hreg, hinst]
  dsimp only
  rw [hcost, hqm, Bool.and_false, Bool.not_true, Bool.or_false, Bool.or_false]
  cases regLegal 0x200000 (regMerge r (s.reg 0x200000) 0x200000 8 v) <;> rfl

-- ---------------------------------------------------------------- the record areas (R461)

theorem newest_of_length_le {α : Type} {n : Nat} {l : List α} (h : l.length ≤ n) : newest n l = l := by
  rw [newest, Nat.sub_eq_zero_of_le h, List.drop_zero]

/-- Where no block fails, writing a record area is what it writes. -/
theorem State.recordWrite_empty (s : State) (g : State → State) : s.recordWrite {} g = g s := rfl

theorem exec_logRecordFlush {s : State} (hr : s.running = true) (f : Flash) :
    exec (.logRecordFlush f) s = .next { s.flashReport f with
      col := { (s.flashReport f).col with
        errLog := newest (errArea - 4096 * (s.flashReport f).col.errLost) ((s.flashReport f).col.errLog ++ (s.flashReport f).log.err)
        fhLog := newest (fhArea - 2048 * (s.flashReport f).col.fhLost) ((s.flashReport f).col.fhLog ++ (s.flashReport f).log.fh) }
      log := { (s.flashReport f).log with err := [], fh := [] } } :=
  if_pos hr

/-- Where no block fails, the waiting records join the stored logs. -/
theorem exec_logRecordFlush_good {s : State} (hr : s.running = true) :
    exec (.logRecordFlush {}) s = .next { s with
      col := { s.col with errLog := newest (errArea - 4096 * s.col.errLost) (s.col.errLog ++ s.log.err)
                          fhLog := newest (fhArea - 2048 * s.col.fhLost) (s.col.fhLog ++ s.log.fh) }
      log := { s.log with err := [], fh := [] } } :=
  exec_logRecordFlush hr {}

theorem State.retireBlock_of_settings (s : State) {b : Nat} (h : b < 0x484) :
    s.retireBlock b = if s.col.spareBlocks = 0 then
        ({ s with col := { s.col with retBlocks := min 65535 (s.col.retBlocks + 1) } } : State).openCause 7 0x0D b
      else { s with col := { s.col with retBlocks := min 65535 (s.col.retBlocks + 1), spareBlocks := s.col.spareBlocks - 1 } } := by
  have herr : inErrArea b = false := by simp [inErrArea]; omega
  have hfh : inFhArea b = false := by simp [inFhArea]; omega
  exact if_neg (by simp [herr, hfh])

-- ---------------------------------------------------------------- injection (R473)

/-- The merged word of INJECT keeps the target's fields. -/
theorem inject_fields (v : Nat) :
    bitAt ((v &&& 0x00FF0000FFFFFFFF) + 2 ^ 63) 63 = true ∧
      bits ((v &&& 0x00FF0000FFFFFFFF) + 2 ^ 63) 55 48 = bits v 55 48 ∧
      bits ((v &&& 0x00FF0000FFFFFFFF) + 2 ^ 63) 31 0 = bits v 31 0 ∧ (v &&& 0x00FF0000FFFFFFFF) + 2 ^ 63 < 2 ^ 64 := by
  have hlt : v &&& 0x00FF0000FFFFFFFF < 2 ^ 56 := Nat.and_lt_two_pow v (by decide)
  have htyp : (v &&& 0x00FF0000FFFFFFFF) / 2 ^ 48 % 2 ^ 8 = v / 2 ^ 48 % 2 ^ 8 := by
    rw [← Nat.shiftRight_eq_div_pow, ← Nat.shiftRight_eq_div_pow, Nat.shiftRight_and_distrib]
    exact (congrArg (· % 2 ^ 8) (Nat.and_two_pow_sub_one_eq_mod (v >>> 48) 8)).trans (Nat.mod_mod _ _)
  have hidx : (v &&& 0x00FF0000FFFFFFFF) % 2 ^ 32 = v % 2 ^ 32 := by
    rw [← Nat.and_two_pow_sub_one_eq_mod, Nat.and_assoc, ← Nat.and_two_pow_sub_one_eq_mod]
    rfl
  simp only [bitAt, bits, Nat.shiftRight_eq_div_pow, beq_iff_eq]
  generalize v &&& 0x00FF0000FFFFFFFF = m at *
  omega

theorem State.armed_writeInject {s : State} {v : Word} (hl : injectLegal v.toNat = true) (hb : v.getLsbD 63 = true)
    (hm : s.dev.maintHold = true) :
    (s.writeInject v.toNat).armed (bits v.toNat 55 48) (bits v.toNat 31 0) = true ∧
      ∀ off, off ≠ 0xF00038 → (s.writeInject v.toNat).reg off = s.reg off := by
  have hbit : bitAt v.toNat 63 = true := (bitAt_toNat v 63).trans hb
  obtain ⟨harm, htyp, hidx, hlt⟩ := inject_fields v.toNat
  have hwrite : s.writeInject v.toNat = s.setReg offInject ((v.toNat &&& 0x00FF0000FFFFFFFF) + 2 ^ 63) := by
    rw [State.writeInject, if_neg (by simp [hl, hm]), if_pos (.inl hbit)]
  rw [hwrite]
  refine ⟨?_, fun off h => s.reg_setReg_ne offInject off _ h⟩
  rw [State.armed, State.reg_setReg_same, Nat.mod_eq_of_lt hlt, harm, htyp, hidx]
  simp

theorem State.writeInject_refused {s : State} {v : Word}
    (h : injectLegal v.toNat = false ∨ (v.getLsbD 63 = true ∧ s.dev.maintHold = false)) : s.writeInject v.toNat = s := by
  refine if_pos ?_
  rcases h with h | ⟨hb, hm⟩
  · rw [h]; rfl
  · rw [bitAt_toNat, hb, hm]; simp

/-- Settles O36: each access by its row. -/
theorem registerRows : Obligations.RegisterRows := by
  intro s hr
  refine ⟨fun off h => ⟨_, exec_latchedLowHalfRead_low hr h, rfl, _, exec_latchedLowHalfRead_high ?latch h rfl, rfl, rfl⟩,
    fun sp off size w hsize hany => ⟨_, if_pos (by simp [hr, hsize, hany]), s.badAccess_spec sp off size w⟩,
    fun v r hs _ hreg => ⟨fun hl => ?stores, fun hl => ?illegal⟩, if_pos hr, ⟨_, exec_logRecordFlush_good hr, rfl, rfl, rfl, ?err, ?fh⟩,
    if_pos hr, fun f => ⟨if_pos hr, if_pos hr, _, exec_logRecordFlush hr f, rfl, rfl⟩, fun b h => s.retireBlock_of_settings h,
    fun v hs => ⟨fun hl hb hm => ⟨_, if_pos hs, State.armed_writeInject hl hb hm⟩,
      fun h => (if_pos hs).trans (congrArg ok (State.writeInject_refused h))⟩⟩
  case latch => exact hr
  case stores => rw [exec_registerWrite_collCfg hs, s.plainWrite_collCfg hreg, if_pos hl]
  case illegal => rw [exec_registerWrite_collCfg hs, s.plainWrite_collCfg hreg, if_neg (by rw [hl]; decide)]
  case err =>
    intro hlost hlen
    show newest (errArea - 4096 * s.col.errLost) (s.col.errLog ++ s.log.err) = _
    rw [hlost, Nat.mul_zero, Nat.sub_zero]
    exact newest_of_length_le (List.length_append ▸ hlen)
  case fh =>
    intro hlost hlen
    show newest (fhArea - 2048 * s.col.fhLost) (s.col.fhLog ++ s.log.fh) = _
    rw [hlost, Nat.mul_zero, Nat.sub_zero]
    exact newest_of_length_le (List.length_append ▸ hlen)

end Sys2Proof.Machine
end

section
/-! SUPPORT. The admin commands: queues and events, Identify, log pages and features (R322–R352). -/
namespace Sys2Proof.Machine

theorem aligned_of_mod {a n : Nat} (h : a % n = 0) : aligned a n = true := by simp [aligned, h]

-- ---------------------------------------------------------------- queues and events

section
variable {s : State} {i sq cid : Nat} {x : Inst} {c : Cmd} (hx : s.inst? i = some x)
include hx

theorem exec_createSubmissionQueue_ok (hc : s.takeCmd i sq cid 7 = some c)
    (hq : 0 < c.fld 0x18 2 ∧ c.fld 0x18 2 ≤ 1023 ∧ 0 < c.fld 0x1A 2 ∧ c.dataAddr % 4096 = 0 ∧ c.devAddr = false)
    (hfree : Tab.has x.sqs (c.fld 0x18 2) = false) (hcq : Tab.has x.cqs (c.fld 0x1C 2) = true)
    (hcls : c.fld 0x1E 1 ≤ 3) (hmode : c.fld 0x1F 1 ≤ 1) (hurg : c.fld 0x1E 1 = 0 → x.alloc.urgentOk = true)
    (hroom : x.sqs.length < x.alloc.sqs) (hcount : s.sqCount < 4096) :
    exec (.createSubmissionQueue i sq cid) s = .next ((s.updInst i (fun x => { x with
      sqs := Tab.set x.sqs (c.fld 0x18 2)
        { pool := s.freeSqNo, depth := c.fld 0x1A 2 + 1, base := c.dataAddr, cq := c.fld 0x1C 2, cls := c.fld 0x1E 1
          batch := c.fld 0x1F 1 == 1 } })).finish c.no 0 0 0) := by
  obtain ⟨h0, h1, hd, ha, hdev⟩ := hq
  show execCreateSubmissionQueue i sq cid s = _
  rw [execCreateSubmissionQueue, hc, hx]
  refine (if_neg ?_).trans ((if_neg ?_).trans ((if_neg ?_).trans (if_neg ?_)))
  · rw [hfree, hcq]; simp; omega
  · rw [aligned_of_mod ha, hdev]; simp; omega
  · rintro ⟨h, hno⟩; rw [hurg h] at hno; contradiction
  · omega

theorem exec_createSubmissionQueue_taken (hc : s.takeCmd i sq cid 7 = some c) (h : Tab.has x.sqs (c.fld 0x18 2) = true) :
    exec (.createSubmissionQueue i sq cid) s = .next (s.finish c.no 0x1008 0 0) := by
  show execCreateSubmissionQueue i sq cid s = _
  rw [execCreateSubmissionQueue, hc, hx]
  exact if_pos (.inr (.inr (.inl h)))

theorem exec_createCompletionQueue_ok (hc : s.takeCmd i sq cid 9 = some c)
    (hq : 0 < c.fld 0x18 2 ∧ c.fld 0x18 2 ≤ 1023 ∧ 0 < c.fld 0x1A 2 ∧ c.dataAddr % 4096 = 0 ∧ c.devAddr = false)
    (hfree : Tab.has x.cqs (c.fld 0x18 2) = false) (hiv : 0 < c.fld 0x1C 1 ∧ c.fld 0x1C 1 ≤ 63) (hien : c.fld 0x1D 1 ≤ 1)
    (hroom : x.cqs.length < x.alloc.cqs) (hcount : s.cqCount < 4096) :
    exec (.createCompletionQueue i sq cid) s = .next ((s.updInst i (fun x => { x with
      cqs := Tab.set x.cqs (c.fld 0x18 2)
        { pool := s.freeCqNo, depth := c.fld 0x1A 2 + 1, base := c.dataAddr, iv := c.fld 0x1C 1
          ien := c.fld 0x1D 1 == 1 } })).finish c.no 0 0 0) := by
  obtain ⟨h0, h1, hd, ha, hdev⟩ := hq
  show execCreateCompletionQueue i sq cid s = _
  rw [execCreateCompletionQueue, hc, hx]
  refine (if_neg ?_).trans ((if_neg ?_).trans (if_neg ?_))
  · rw [hfree]; simp; omega
  · rw [aligned_of_mod ha, hdev]; simp; omega
  · omega

theorem exec_deleteCompletionQueue_ok (hc : s.takeCmd i sq cid 0xA = some c) (h0 : 0 < c.fld 0x18 2) (h1 : c.fld 0x18 2 ≤ 1023)
    (hhas : Tab.has x.cqs (c.fld 0x18 2) = true) (hsq : ∀ p ∈ x.sqs, p.2.cq ≠ c.fld 0x18 2)
    (hhold : ∀ h ∈ x.hold, h.cq ≠ c.fld 0x18 2) :
    exec (.deleteCompletionQueue i sq cid) s =
      .next ((s.updInst i (fun x => { x with cqs := Tab.del x.cqs (c.fld 0x18 2) })).finish c.no 0 0 0) := by
  show execDeleteCompletionQueue i sq cid s = _
  rw [execDeleteCompletionQueue, hc, hx]
  refine (if_neg ?_).trans (if_neg ?_)
  · rw [hhas]; simp; omega
  · simp only [Bool.or_eq_true, List.any_eq_true, beq_iff_eq, not_or, not_exists, not_and]
    exact ⟨hsq, hhold⟩

theorem exec_asynchronousEventRequest (hc : s.takeCmd i sq cid 0xB = some c) :
    exec (.asynchronousEventRequest i sq cid) s = if 4 ≤ x.aers.length then .next (s.finish c.no 0x2004 0 0)
      else .next (((s.start c.no).updInst i (fun x => { x with aers := x.aers ++ [c.no] })).drainEvents i 8) := by
  show execAsynchronousEventRequest i sq cid s = _
  rw [execAsynchronousEventRequest, hc, hx]
  rfl

end

section
variable {s : State} {i sq cid : Nat} {c : Cmd}

theorem exec_deleteSubmissionQueue_ok (hc : s.takeCmd i sq cid 8 = some c) {y : Sq} (h0 : 0 < c.fld 0x18 2)
    (h1 : c.fld 0x18 2 ≤ 1023) (hq : (s.sq? i (c.fld 0x18 2)).isSome = true)
    (hy : (s.cutChain i (c.fld 0x18 2)).sq? i (c.fld 0x18 2) = some y) :
    exec (.deleteSubmissionQueue i sq cid) s =
      .next ((((s.cutChain i (c.fld 0x18 2)).updSq i (c.fld 0x18 2) (fun y => { y with deleting := true })).updCmd
        c.no (fun c => { c with
          phase := .running
          status := if (y.tail + y.depth - y.head) % y.depth = 0 then 0 else 0x6003
          result := if (y.tail + y.depth - y.head) % y.depth = 0 then 0
            else (y.tail + y.depth - y.head) % y.depth * 2 ^ 16 + y.head })).settleQueues i) := by
  show execDeleteSubmissionQueue i sq cid s = _
  rw [execDeleteSubmissionQueue, hc]
  refine (if_neg ?_).trans ?_
  · rw [← Option.not_isSome, hq]; simp; omega
  · simp only [hy]; rfl

theorem exec_deleteSubmissionQueue_missing (hc : s.takeCmd i sq cid 8 = some c)
    (hq : (s.sq? i (c.fld 0x18 2)).isNone = true) :
    exec (.deleteSubmissionQueue i sq cid) s = .next (s.finish c.no 0x1008 0 0) := by
  show execDeleteSubmissionQueue i sq cid s = _
  rw [execDeleteSubmissionQueue, hc]
  exact if_pos (.inr (.inr hq))

end

/-- Settles O43: each command by the checks it passes or fails. -/
theorem queueManagement : Obligations.QueueManagement := by
  intro s i sq cid x c hx
  exact ⟨fun hc => ⟨exec_createSubmissionQueue_ok hx hc, exec_createSubmissionQueue_taken hx hc⟩,
    fun hc hq hfree h0 h1 => exec_createCompletionQueue_ok hx hc hq hfree ⟨h0, h1⟩,
    fun hc => ⟨fun _ => exec_deleteSubmissionQueue_ok hc, exec_deleteSubmissionQueue_missing hc⟩,
    exec_deleteCompletionQueue_ok hx,
    fun hc => ⟨fun h => (exec_asynchronousEventRequest hx hc).trans (if_neg (Nat.not_le.mpr h)),
      fun h => (exec_asynchronousEventRequest hx hc).trans (if_pos h)⟩⟩

-- ---------------------------------------------------------------- Identify, log pages and features

section
variable {s : State} {i sq cid : Nat} {c : Cmd}

theorem exec_identify (hc : s.takeCmd i sq cid 1 = some c) :
    (c.fld 0x18 1 = 0 → exec (.identify i sq cid) s = .next (s.answer c s.identifyDevice 0)) ∧
    ∀ x, c.fld 0x18 1 = 1 → s.inst? (if i = 0 then c.fld 0x19 1 else i) = some x →
      exec (.identify i sq cid) s = .next (s.answer c (identifyInst (if i = 0 then c.fld 0x19 1 else i) x.alloc) 0) := by
  have hexec : exec (.identify i sq cid) s = execIdentify i sq cid s := rfl
  rw [execIdentify, hc] at hexec
  refine ⟨fun h => ?_, fun x h hx => ?_⟩ <;> rw [hexec] <;> simp only [h]
  · rfl
  · simp only [hx]; rfl

theorem exec_getLogPage (hc : s.takeCmd i sq cid 2 = some c) {p : Bytes} (hp : s.page i (c.fld 0x18 1) = .ok p) :
    exec (.getLogPage i sq cid) s =
      if c.fld 0x20 8 % 4 ≠ 0 ∨ c.dataLen % 4 ≠ 0 ∨ c.dataLen < 4 ∨ 1048576 < c.dataLen ∨ p.length ≤ c.fld 0x20 8
      then .next (s.finish c.no 0x1002 0 0)
      else .next (s.answer c ((p.drop (c.fld 0x20 8)).take c.dataLen) p.length) := by
  show execGetLogPage i sq cid s = _
  rw [execGetLogPage, hc]
  simp only [hp]
  rfl

end

section
variable {s : State} {i sq cid : Nat} {c : Cmd} (hc : s.takeCmd i sq cid 3 = some c)
include hc

theorem exec_setFeatures_readOnly (h : c.fld 0x18 1 = 7) :
    exec (.setFeatures i sq cid) s = .next (s.finish c.no 0x1009 0 0) := by
  show execSetFeatures i sq cid s = _
  rw [execSetFeatures, hc]
  exact if_pos h

theorem exec_setFeatures_tenant (hi : i ≠ 0) (h : c.fld 0x18 1 = 1 ∨ c.fld 0x18 1 = 6) :
    exec (.setFeatures i sq cid) s = .next (s.finish c.no 0x1001 0 0) := by
  show execSetFeatures i sq cid s = _
  rw [execSetFeatures, hc]
  refine (if_neg (by omega)).trans (if_pos ⟨?_, hi⟩)
  rcases h with h | h <;> rw [h] <;> rfl

/-- A legal feature that the instance may set is set, and marked to be saved where the command asks for it. -/
theorem exec_setFeatures_legal (h7 : c.fld 0x18 1 ≠ 7) (hm : featManager (c.fld 0x18 1) = true → i = 0)
    (hl : featLegal (c.fld 0x18 1) (c.fld 0x20 8) = true) (hsave : c.fld 0x19 1 = 0 ∨ (c.fld 0x19 1 = 1 ∧ i = 0)) :
    exec (.setFeatures i sq cid) s =
      let u := s.setFeature i (c.fld 0x18 1) (c.fld 0x20 8)
      let t := if c.fld 0x19 1 = 1 then
          if c.fld 0x18 1 = 6 then { u with col := { u.col with dirty := dedup (u.col.dirty ++ [offQmConfig]) } }
          else { u with col := { u.col with featDirty := Tab.set u.col.featDirty (256 * i + c.fld 0x18 1) (c.fld 0x20 8) } }
        else u
      if c.fld 0x18 1 = 1 then .next (t.start c.no) else .next (t.finish c.no 0 0 0) := by
  show execSetFeatures i sq cid s = _
  rw [execSetFeatures, hc]
  refine (if_neg h7).trans ((if_neg fun h => h.2 (hm h.1)).trans (if_neg ?_))
  rw [hl]
  simp
  omega

end

section
variable {s : State} {i sq cid : Nat} {c : Cmd} (hc : s.takeCmd i sq cid 4 = some c)
include hc

theorem exec_getFeatures_ok (h1 : 1 ≤ c.fld 0x18 1) (h7 : c.fld 0x18 1 ≤ 7) (hsel : c.fld 0x19 1 ≤ 1)
    (hm : i = 0 ∨ (c.fld 0x18 1 ≠ 1 ∧ c.fld 0x18 1 ≠ 6)) :
    exec (.getFeatures i sq cid) s = .next (s.finish c.no 0
      (if c.fld 0x19 1 = 0 then s.feature i (c.fld 0x18 1) else s.savedFeature i (c.fld 0x18 1)) 0) := by
  show execGetFeatures i sq cid s = _
  rw [execGetFeatures, hc]
  refine (if_neg (by omega)).trans (if_neg ?_)
  rintro ⟨hman, hi⟩
  simp only [featManager, Bool.or_eq_true, beq_iff_eq] at hman
  omega

theorem exec_getFeatures_tenant (hi : i ≠ 0) (h : c.fld 0x18 1 = 1 ∨ c.fld 0x18 1 = 6) (hsel : c.fld 0x19 1 ≤ 1) :
    exec (.getFeatures i sq cid) s = .next (s.finish c.no 0x1001 0 0) := by
  show execGetFeatures i sq cid s = _
  rw [execGetFeatures, hc]
  refine (if_neg (by omega)).trans (if_pos ⟨?_, hi⟩)
  rcases h with h | h <;> rw [h] <;> rfl

end

theorem featManager_of_mid {fid : Nat} (h2 : 2 ≤ fid) (h5 : fid ≤ 5) : featManager fid ≠ true := by
  simp only [featManager, ne_eq, Bool.or_eq_true, beq_iff_eq]
  omega

theorem State.setFeature_of_mid (s : State) (i v : Nat) {fid : Nat} (h2 : 2 ≤ fid) (h5 : fid ≤ 5) :
    s.setFeature i fid v = s.updInst i (fun x => { x with features := Tab.set x.features fid v }) := by
  rw [State.setFeature, if_neg (by omega), if_neg (by omega)]

/-- Settles O44: each command by the case of its fields. -/
theorem identifyLogsAndFeatures : Obligations.IdentifyLogsAndFeatures := by
  intro s i sq cid c
  refine ⟨exec_identify, fun p hc hp => ⟨fun ho hn h4 hmax hlt => ?log, fun h => ?beyond⟩,
    fun hc => ⟨exec_setFeatures_readOnly hc, exec_setFeatures_tenant hc,
      fun hsave hl => ⟨fun h1 hi => ?cap, fun h2 h5 => ?mid, fun h6 hi => ?ecc⟩, fun hsave hi h2 h5 hl => ?saved⟩,
    fun hc => ⟨exec_getFeatures_ok hc, exec_getFeatures_tenant hc⟩⟩
  case log => exact (exec_getLogPage hc hp).trans (if_neg (by omega))
  case beyond => exact (exec_getLogPage hc hp).trans (if_pos (by omega))
  case cap =>
    subst hi
    rw [exec_setFeatures_legal hc (by omega) (fun _ => rfl) hl (.inl hsave), hsave, h1]
    rfl
  case mid =>
    rw [exec_setFeatures_legal hc (by omega) (fun h => absurd h (featManager_of_mid h2 h5)) hl (.inl hsave), hsave,
      State.setFeature_of_mid _ _ _ h2 h5]
    exact if_neg (by omega)
  case ecc =>
    subst hi
    rw [exec_setFeatures_legal hc (by omega) (fun _ => rfl) hl (.inl hsave), hsave, h6]
    rfl
  case saved =>
    subst hi
    rw [exec_setFeatures_legal hc (by omega) (fun _ => rfl) hl (.inr ⟨hsave, rfl⟩), hsave,
      State.setFeature_of_mid _ _ _ h2 h5]
    refine (if_neg (by omega)).trans ?_
    rw [if_pos rfl, if_neg (show c.fld 0x18 1 ≠ 6 by omega), Nat.mul_zero, Nat.zero_add]

end Sys2Proof.Machine
end

section
/-! SUPPORT. Instances and firmware (R355–R378, R385–R393). -/
namespace Sys2Proof.Machine

-- ---------------------------------------------------------------- posting leaves the quiesce state of instances

/-- The two fields of an instance that a Quiesce moves. -/
def Inst.quiet (x : Inst) : Bool × Bool := (x.quiesced, x.quiescing)

/-- No instance was quiesced or resumed. -/
def KeepsQuiet (s t : State) : Prop := ∀ i, (t.inst? i).map Inst.quiet = (s.inst? i).map Inst.quiet

theorem KeepsQuiet.of_insts {s t : State} (h : t.insts = s.insts) : KeepsQuiet s t := fun i => by
  rw [State.inst?, h]; rfl

theorem KeepsQuiet.refl (s : State) : KeepsQuiet s s := fun _ => rfl

theorem KeepsQuiet.trans {s t u : State} (h : KeepsQuiet s t) (k : KeepsQuiet t u) : KeepsQuiet s u :=
  fun i => (k i).trans (h i)

theorem KeepsQuiet.ite {c : Prop} [Decidable c] {s a b : State} (ha : KeepsQuiet s a) (hb : KeepsQuiet s b) :
    KeepsQuiet s (if c then a else b) := by
  split
  · exact ha
  · exact hb

theorem KeepsQuiet.foldl {α : Type} {f : State → α → State} (h : ∀ s a, KeepsQuiet s (f s a)) (l : List α) (s : State) :
    KeepsQuiet s (l.foldl f s) := by
  induction l generalizing s with
  | nil => exact .refl s
  | cons a l ih => exact (h s a).trans (ih _)

theorem State.updInst_keepsQuiet (s : State) (i : Nat) {f : Inst → Inst} (h : ∀ x, (f x).quiet = x.quiet) :
    KeepsQuiet s (s.updInst i f) := fun j => by
  rw [State.inst?_updInst]
  split
  · rw [Option.map_map]
    exact congrArg (Option.map · (s.inst? j)) (funext h)
  · rfl

theorem State.keepEvent_keepsQuiet (s : State) (i : Nat) (e : Event) : KeepsQuiet s (s.keepEvent i e) := by
  unfold State.keepEvent
  refine .ite (s.updInst_keepsQuiet i fun x => ?_) (.refl s)
  split
  · rfl
  · split <;> rfl

theorem State.hostWrite_keepsQuiet (s : State) (fn a : Nat) (b : Bytes) : KeepsQuiet s (s.hostWrite fn a b) :=
  .ite (.refl s) (.of_insts rfl)

theorem State.updCq_keepsQuiet (s : State) (i k : Nat) (f : Cq → Cq) : KeepsQuiet s (s.updCq i k f) :=
  s.updInst_keepsQuiet i fun _ => rfl

theorem State.signal_keepsQuiet (s : State) (fn v : Nat) : KeepsQuiet s (s.signal fn v) := .of_insts (s.signal_insts fn v)

theorem State.writeCqe_keepsQuiet (s : State) (i k : Nat) (h : Held) : KeepsQuiet s (s.writeCqe i k h) := by
  unfold State.writeCqe
  split
  · exact .refl s
  · refine (s.hostWrite_keepsQuiet _ _ _).trans (.ite (.ite ?_ (State.updCq_keepsQuiet _ _ _ _)) (State.updCq_keepsQuiet _ _ _ _))
    exact (State.updCq_keepsQuiet _ _ _ _).trans (State.signal_keepsQuiet _ _ _)

theorem State.logErrRaw_keepsQuiet (s : State) (a b c d e f g h j k : Nat) : KeepsQuiet s (s.logErrRaw a b c d e f g h j k) := by
  unfold State.logErrRaw
  have hlog : KeepsQuiet s { s with log := s.log.addErr (s.newErr a b c d e f g h j k)
                                    col := { s.col with errNext := s.col.errNext + 1 } } := .of_insts rfl
  have hevent := fun i => hlog.trans (State.keepEvent_keepsQuiet _ i { typ := 2, info := 0, lid := 1, detail := 0 })
  exact .ite (hevent c) ((hevent c).trans (State.keepEvent_keepsQuiet _ _ _))

theorem State.postRaw_keepsQuiet (s : State) (i k : Nat) (h : Held) : KeepsQuiet s (s.postRaw i k h) := by
  unfold State.postRaw
  split
  · have hhold : KeepsQuiet s (s.updInst i (fun x => { x with hold := x.hold ++ [h] })) := s.updInst_keepsQuiet i fun _ => rfl
    have hfirst := fun c [Decidable c] => KeepsQuiet.ite (c := c) (hhold.trans (State.keepEvent_keepsQuiet _ i
      { typ := 3, info := 0, lid := 5, detail := k })) hhold
    exact .ite (.ite ((hfirst _).trans (State.keepEvent_keepsQuiet _ _ _)) (hfirst _)) (s.writeCqe_keepsQuiet i k h)
  · exact s.logErrRaw_keepsQuiet _ _ _ _ _ _ _ _ _ _

theorem State.completeOwn_keepsQuiet (s : State) (c : Cmd) (a b d : Nat) : KeepsQuiet s (s.completeOwn c a b d) :=
  KeepsQuiet.trans (.of_insts rfl) (State.postRaw_keepsQuiet (s.dropCmd c.no) _ _ _)

theorem State.endDisable_keepsQuiet (s : State) (i : Nat) : KeepsQuiet s (s.endDisable i) := by
  unfold State.endDisable
  split
  · exact .ite (s.updInst_keepsQuiet i fun _ => rfl) (.refl s)
  · exact .refl s

theorem State.drainEvents_keepsQuiet (i n : Nat) (s : State) : KeepsQuiet s (s.drainEvents i n) := by
  induction n generalizing s with
  | zero => exact .refl s
  | succ n ih =>
    unfold State.drainEvents
    split
    · exact .refl s
    · split
      · have hpop := fun ar er => s.updInst_keepsQuiet i (f := fun x => { x with aers := ar, events := er }) fun _ => rfl
        dsimp only
        split
        · exact (hpop _ _).trans ((State.completeOwn_keepsQuiet _ _ _ _ _).trans ((State.endDisable_keepsQuiet _ _).trans (ih _)))
        · exact (hpop _ _).trans (ih _)
      · exact .refl s

theorem State.settleEvents_keepsQuiet (s : State) (i : Nat) : KeepsQuiet s (s.settleEvents i) :=
  .ite (State.drainEvents_keepsQuiet _ _ _) ((State.drainEvents_keepsQuiet _ _ _).trans (State.drainEvents_keepsQuiet _ _ _))

theorem State.post_keepsQuiet (s : State) (i k : Nat) (h : Held) : KeepsQuiet s (s.post i k h) :=
  (s.postRaw_keepsQuiet i k h).trans (State.settleEvents_keepsQuiet _ _)

theorem State.logErr_keepsQuiet (s : State) (a b c d e f g h j k : Nat) : KeepsQuiet s (s.logErr a b c d e f g h j k) :=
  (s.logErrRaw_keepsQuiet a b c d e f g h j k).trans (State.settleEvents_keepsQuiet _ _)

theorem State.batchSweep_keepsQuiet (i sq n : Nat) (s : State) : KeepsQuiet s (s.batchSweep i sq n) := by
  induction n generalizing s with
  | zero => exact .refl s
  | succ n ih =>
    unfold State.batchSweep
    split
    · exact .refl s
    · refine KeepsQuiet.trans (.ite ?_ (KeepsQuiet.trans ?_ (State.post_keepsQuiet _ _ _ _))) (ih _)
      · exact .of_insts rfl
      · exact .of_insts rfl

theorem State.settleQueues_keepsQuiet (s : State) (i : Nat) : KeepsQuiet s (s.settleQueues i) := by
  refine KeepsQuiet.trans (KeepsQuiet.foldl (fun s c => .ite (.refl s) ?_) _ s) (State.endDisable_keepsQuiet _ i)
  refine KeepsQuiet.trans ?_ ((State.completeOwn_keepsQuiet _ _ _ _ _).trans (State.settleEvents_keepsQuiet _ _))
  exact KeepsQuiet.trans (.of_insts rfl) (State.updInst_keepsQuiet _ _ fun _ => rfl)

theorem State.updCmd_keepsQuiet (s : State) (no : Nat) (f : Cmd → Cmd) : KeepsQuiet s (s.updCmd no f) := .of_insts rfl

/-- Ending a command quiesces and resumes no instance. -/
theorem State.finishAt_keepsQuiet (s : State) (no a b c d : Nat) : KeepsQuiet s (s.finishAt no a b c d) := by
  rw [State.finishAt]
  split
  · exact .refl s
  · extract_lets i dev s1 s2 batch h s3
    have hfailed : KeepsQuiet s s1 := .ite (.of_insts rfl) (.refl s)
    clear_value s1
    have hlogged : KeepsQuiet s1 s2 := .ite (s1.logErr_keepsQuiet _ _ _ _ _ _ _ _ _ _) (.refl s1)
    clear_value s2
    have hown := fun c a b d => (s2.completeOwn_keepsQuiet c a b d).trans (State.settleEvents_keepsQuiet _ i)
    have hmarked := fun f k h => (s2.updCmd_keepsQuiet no f).trans (State.post_keepsQuiet _ i k h)
    have hposted : KeepsQuiet s2 s3 :=
      .ite (hown _ _ _ _) (.ite (.ite (hmarked _ _ _) (hown _ _ _ _)) (s2.updCmd_keepsQuiet no _))
    clear_value s3
    exact hfailed.trans (hlogged.trans (hposted.trans ((State.batchSweep_keepsQuiet _ _ _ _).trans
      (State.settleQueues_keepsQuiet _ _))))

theorem State.finish_keepsQuiet (s : State) (no a b c : Nat) : KeepsQuiet s (s.finish no a b c) := s.finishAt_keepsQuiet no a b c 0

-- ---------------------------------------------------------------- instances (R355–R378)

section
variable {s : State} {i sq cid : Nat} {c : Cmd}

/-- The manager alone creates, quiesces, resumes, shares and removes (R356). -/
theorem exec_instanceCommands_of_tenant (hi : i ≠ 0) :
    (s.takeCmd i sq cid 0x10 = some c → exec (.createInstance i sq cid) s = .next (s.finish c.no 0x1001 0 0)) ∧
    (s.takeCmd i sq cid 0x11 = some c → exec (.quiesceInstance i sq cid) s = .next (s.finish c.no 0x1001 0 0)) ∧
    (s.takeCmd i sq cid 0x12 = some c → exec (.resumeInstance i sq cid) s = .next (s.finish c.no 0x1001 0 0)) ∧
    (s.takeCmd i sq cid 0x13 = some c → exec (.removeInstance i sq cid) s = .next (s.finish c.no 0x1001 0 0)) ∧
    (s.takeCmd i sq cid 0x14 = some c → exec (.setInstanceShare i sq cid) s = .next (s.finish c.no 0x1001 0 0)) := by
  refine ⟨fun hc => ?_, fun hc => ?_, fun hc => ?_, fun hc => ?_, fun hc => ?_⟩
  · show execCreateInstance i sq cid s = _
    rw [execCreateInstance, hc]
    exact if_pos hi
  · show execQuiesceInstance i sq cid s = _
    rw [execQuiesceInstance, hc]
    exact if_pos hi
  · show execResumeInstance i sq cid s = _
    rw [execResumeInstance, hc]
    exact if_pos hi
  · show execRemoveInstance i sq cid s = _
    rw [execRemoveInstance, hc]
    exact if_pos hi
  · show execSetInstanceShare i sq cid s = _
    rw [execSetInstanceShare, hc]
    exact if_pos hi

theorem exec_createInstance_exists (hc : s.takeCmd 0 sq cid 0x10 = some c) (h : (s.inst? (c.fld 0x18 1)).isSome = true) :
    exec (.createInstance 0 sq cid) s = .next (s.finish c.no 0x1002 0 0) := by
  show execCreateInstance 0 sq cid s = _
  rw [execCreateInstance, hc]
  exact (if_neg (by simp)).trans (if_pos (.inr (.inr (.inl h))))

theorem exec_createInstance_ok (hc : s.takeCmd 0 sq cid 0x10 = some c) {b : Bytes} {u : State} (h0 : 0 < c.fld 0x18 1)
    (h127 : c.fld 0x18 1 ≤ 127) (hnew : s.inst? (c.fld 0x18 1) = none) (hlen : c.dataLen = 704)
    (hread : s.bufRead c c.dataAddr 704 = .ok b u) (hlegal : blockLegal b = true) (hcov : u.covers (parseAlloc b) = true) :
    exec (.createInstance 0 sq cid) s = .next
      (if ((u.makeInst (c.fld 0x18 1) (parseAlloc b)).logShortfall).slcUp
        then ((u.makeInst (c.fld 0x18 1) (parseAlloc b)).logShortfall).finish c.no 0 0 0
        else ((u.makeInst (c.fld 0x18 1) (parseAlloc b)).logShortfall).start c.no) := by
  show execCreateInstance 0 sq cid s = _
  rw [execCreateInstance, hc]
  refine (if_neg (by simp)).trans ((if_neg ?_).trans ?_)
  · rw [hnew]; simp; omega
  · simp only [hread]
    exact (if_neg (by simp [hlegal])).trans (if_neg (by simp [hcov]))

theorem exec_resumeInstance_manager (hc : s.takeCmd 0 sq cid 0x12 = some c) (hj : c.fld 0x18 1 = 0) :
    exec (.resumeInstance 0 sq cid) s = if s.dev.causes ≠ [] then .next (s.finish c.no 0x100A 0 0)
      else .next ((s.setDev (fun d => { d with contained := false })).finish c.no 0 0 0) := by
  show execResumeInstance 0 sq cid s = _
  rw [execResumeInstance, hc]
  exact (if_neg (by simp)).trans (if_pos hj)

section
variable {x : Inst} {j : Nat} (hx : s.inst? j = some x)
include hx

/-- An instance whose work has stopped becomes QUIESCED. -/
theorem State.endQuiesce_quiet (hq : x.quiescing = true) :
    ((s.endQuiesce j).inst? j).map (fun y => (y.quiesced, y.quiescing)) = some (true, false) := by
  have hset : ((s.updInst j (fun x => { x with quiescing := false, quiesced := true, quiesceCmd := none })).inst? j).map Inst.quiet
      = some (true, false) := by
    rw [State.inst?_updInst, if_pos rfl, hx]; rfl
  rw [State.endQuiesce]
  simp only [hx, hq]
  cases x.quiesceCmd with
  | none => exact hset
  | some no => exact (State.finish_keepsQuiet _ no 0 0 0 j).trans hset

theorem exec_quiesceComplete (hs : s.serving = true) (hp : s.paused = false) (hstill : s.still j = true)
    (hq : x.quiescing = true) : exec (.quiesceComplete j) s = .next ((s.endQuiesce j).leaveControl j) :=
  if_pos (by simp [hs, hp, hstill, hx, hq])

theorem exec_functionLevelReset (hr : s.running = true) :
    exec (.functionLevelReset j) s = .next
      (let v := ((((s.stopLeaves j).stopJobs j).stopCopies j).abortCmds j 0x6001).settleEvents j
       let u : State := { ((v.tearDown j).endReservations j).clearMailbox j 256 with msixCtl := Tab.del v.msixCtl j }
       ((({ u with groups := u.groups.map (fun (p : Nat × Group) => if p.2.inst = j then (p.1, { p.2 with deficit := 0 }) else p) } : State).updInst
         j (fun x => { x with rdy := false, disabling := false, sqs := [], cqs := [], hold := [], aers := [] })).endQuiesce
           j).leaveControl j) := by
  refine (if_neg (by simp [hr])).trans ?_
  rw [hx]
  rfl

end

theorem exec_functionLevelReset_none {k : Nat} (hr : s.running = true) (hk : s.inst? k = none) :
    exec (.functionLevelReset k) s =
      .next { s with winRegs := s.winRegs.filter (fun p => p.1 / 2 ^ 20 != k), msixCtl := Tab.del s.msixCtl k } := by
  refine (if_neg (by simp [hr])).trans ?_
  rw [hk]
  rfl

section
variable {x : Inst} (hx : s.inst? (c.fld 0x18 1) = some x) (hj : 0 < c.fld 0x18 1)
include hx hj

theorem exec_quiesceInstance_ok (hc : s.takeCmd 0 sq cid 0x11 = some c) (hq : x.quiesced = false) :
    exec (.quiesceInstance 0 sq cid) s = .next ((s.start c.no).updInst (c.fld 0x18 1)
      (fun x => { x with quiescing := true, quiesceCmd := some c.no })) := by
  show execQuiesceInstance 0 sq cid s = _
  rw [execQuiesceInstance, hc]
  refine (if_neg (by simp)).trans ?_
  simp only [hx]
  exact (if_neg (Nat.ne_of_gt hj)).trans (if_neg (by simp [hq]))

theorem exec_resumeInstance_ok (hc : s.takeCmd 0 sq cid 0x12 = some c) (hq : x.quiesced = true) :
    exec (.resumeInstance 0 sq cid) s =
      .next ((s.updInst (c.fld 0x18 1) (fun x => { x with quiesced := false })).finish c.no 0 0 0) := by
  show execResumeInstance 0 sq cid s = _
  rw [execResumeInstance, hc]
  refine (if_neg (by simp)).trans ((if_neg (Nat.ne_of_gt hj)).trans ?_)
  simp only [hx]
  exact if_neg (by simp [hq])

theorem exec_setInstanceShare_ok {b : Bytes} {u : State} (hc : s.takeCmd 0 sq cid 0x14 = some c) (hlen : c.dataLen = 576)
    (hread : s.bufRead c c.dataAddr 576 = .ok b u) (hver : fld b 0 2 = 1) (hgroups : fld b 2 2 = x.alloc.groups)
    (hshare : fld b 4 2 ≤ 1000) (hzero : zeroAt b 6 58 = true) (hweights : weightsLegal b 0x40 x.alloc.groups = true) :
    exec (.setInstanceShare 0 sq cid) s = .next (({ u with
      shares := u.shares.filter (fun (p : Nat × Nat × List Nat) => p.1 != c.fld 0x18 1)
        ++ [(c.fld 0x18 1, fld b 4 2, (List.range x.alloc.groups).map (fun g => fld b (0x40 + g) 1))] } : State).finish c.no 0 0 0) := by
  show execSetInstanceShare 0 sq cid s = _
  rw [execSetInstanceShare, hc]
  refine (if_neg (by simp)).trans ?_
  simp only [hx]
  refine (if_neg (by omega)).trans ?_
  simp only [hread]
  refine if_neg ?_
  rw [hzero, hweights]
  simp
  omega

/-- An instance is removed when it is QUIESCED (R375). -/
theorem exec_removeInstance (hc : s.takeCmd 0 sq cid 0x13 = some c) :
    exec (.removeInstance 0 sq cid) s = if x.quiesced = false then .next (s.finish c.no 0x1002 0 0) else .next
      (((((((((((((s.stopLeaves (c.fld 0x18 1)).stopJobs (c.fld 0x18 1)).stopCopies (c.fld 0x18 1)).logRemoved (c.fld 0x18 1)
        x).settleEvents (c.fld 0x18 1)).tearDown (c.fld 0x18 1)).endReservations (c.fld 0x18 1)).clearMailbox (c.fld 0x18 1)
        0).loseWindows (c.fld 0x18 1)).giveBack (c.fld 0x18 1)).leaveControl (c.fld 0x18 1))).finish c.no 0 0 0) := by
  show execRemoveInstance 0 sq cid s = _
  rw [execRemoveInstance, hc]
  refine (if_neg (by simp)).trans ?_
  simp only [hx]
  cases x.quiesced with
  | false => exact if_pos (.inr rfl)
  | true => exact if_neg (by simp; omega)

end

end

/-- Settles O45: each command by the checks it passes or fails. -/
theorem instanceRows : Obligations.InstanceRows := by
  intro s sq cid c
  refine ⟨fun b u hc => ⟨exec_createInstance_ok hc, exec_createInstance_exists hc⟩, fun x hx hj => ⟨exec_quiesceInstance_ok hx hj,
      fun hs hp hstill hq => ⟨exec_quiesceComplete hx hs hp hstill hq, State.endQuiesce_quiet hx hq⟩, exec_resumeInstance_ok hx hj,
      fun b u hc hlen hread => exec_setInstanceShare_ok hx hj hc hlen hread,
      fun hc hq => (exec_removeInstance hx hj hc).trans (if_pos hq),
      fun hc hq => (exec_removeInstance hx hj hc).trans (if_neg (by simp [hq])), exec_functionLevelReset hx⟩,
    fun hc hj => ⟨fun h => (exec_resumeInstance_manager hc hj).trans (if_neg (not_not_intro h)),
      fun h => (exec_resumeInstance_manager hc hj).trans (if_pos h)⟩,
    fun k hr hk => exec_functionLevelReset_none hr hk, fun i op hi hc => ?tenant⟩
  case tenant =>
    obtain ⟨h10, h11, h12, h13, h14⟩ := exec_instanceCommands_of_tenant (s := s) (sq := sq) (cid := cid) (c := c) hi
    exact ⟨fun h => h10 (h ▸ hc), fun h => h11 (h ▸ hc), fun h => h12 (h ▸ hc), fun h => h13 (h ▸ hc), fun h => h14 (h ▸ hc)⟩

-- ---------------------------------------------------------------- firmware (R385–R393)

section
variable {s : State} {sq cid : Nat} {c : Cmd}

theorem exec_firmwareImageDownload_ok {b : Bytes} {u : State} (hc : s.takeCmd 0 sq cid 5 = some c)
    (hoff : c.fld 0x18 4 % 4096 = 0) (hlen : c.dataLen % 4096 = 0) (hmax : c.fld 0x18 4 + c.dataLen ≤ 33554432)
    (hread : s.bufRead c c.dataAddr c.dataLen = .ok b u) :
    exec (.firmwareImageDownload 0 sq cid) s = .next (({ u.wr .colophon (c.fld 0x18 4) b with
      col := { u.col with staged := dedup (u.col.staged ++
        (List.range (c.dataLen / 4096)).map (c.fld 0x18 4 / 4096 + ·)) } } : State).finish c.no 0 0 0) := by
  show execFirmwareImageDownload 0 sq cid s = _
  rw [execFirmwareImageDownload, hc]
  refine (if_neg (by simp)).trans ((if_neg (by omega)).trans ?_)
  simp only [hread]
  rfl

section
variable (hc : s.takeCmd 0 sq cid 6 = some c) (hslot : c.fld 0x19 1 = 1 ∨ c.fld 0x19 1 = 2)
  (hactive : c.fld 0x19 1 ≠ s.dev.activeSlot) (hwhole : s.imgWhole = true)
include hc hslot hactive hwhole

/-- A commit to a writable slot that is not running, of a whole image. -/
theorem exec_firmwareCommit (haction : c.fld 0x18 1 ≤ 2) :
    exec (.firmwareCommit 0 sq cid) s =
      if s.dev.act.isSome ∨ (c.fld 0x18 1 = 1 ∧ s.dev.contained) then .next (s.endCommit c.no 0x100A 0)
      else if !s.slcUp then .next (s.endCommit c.no 0x5003 0)
      else if !s.imgGood then .next (s.endCommit c.no 0x5004 0)
      else
        let new : FwSlot := { filled := true, version := s.img 8 8, svn := s.img 6 2, digest := s.img 0x20 48 }
        let u : State := { s with col := { s.col with slots := s.col.slots.set (c.fld 0x19 1) new } }
        if c.fld 0x18 1 = 0 then .next (u.endCommit c.no 0 (s.img 8 8))
        else if c.fld 0x18 1 = 2 then
          .next (({ u with col := { u.col with nextSlot := c.fld 0x19 1 } } : State).endCommit c.no 0 (s.img 8 8))
        else .next { u.start c.no with dev := { s.dev with act := some { cmd := c.no, slot := c.fld 0x19 1 }, actState := 2 } } := by
  show execFirmwareCommit 0 sq cid s = _
  rw [execFirmwareCommit, hc]
  refine (if_neg (by simp)).trans ((if_neg ?_).trans rfl)
  rw [hwhole]
  simp
  omega

theorem exec_firmwareCommit_busy (hact : s.dev.act.isSome = true) (haction : c.fld 0x18 1 ≤ 2) :
    exec (.firmwareCommit 0 sq cid) s = .next (s.endCommit c.no 0x100A 0) :=
  (exec_firmwareCommit hc hslot hactive hwhole haction).trans (if_pos (.inl hact))

section
variable (hact : s.dev.act = none) (hup : s.slcUp = true)
include hact hup

theorem exec_firmwareCommit_refused (hgood : s.imgGood = false) (haction : c.fld 0x18 1 = 0) :
    exec (.firmwareCommit 0 sq cid) s = .next (s.endCommit c.no 0x5004 0) := by
  refine (exec_firmwareCommit hc hslot hactive hwhole (by omega)).trans ((if_neg ?_).trans ((if_neg ?_).trans (if_pos ?_)))
  · simp [hact, haction]
  · simp [hup]
  · simp [hgood]

/-- With a good image the ACTION says what the stored slot is used for. -/
theorem exec_firmwareCommit_good (hgood : s.imgGood = true) (haction : c.fld 0x18 1 ≤ 2)
    (hcont : c.fld 0x18 1 = 1 → s.dev.contained = false) :
    exec (.firmwareCommit 0 sq cid) s =
      let new : FwSlot := { filled := true, version := s.img 8 8, svn := s.img 6 2, digest := s.img 0x20 48 }
      let u : State := { s with col := { s.col with slots := s.col.slots.set (c.fld 0x19 1) new } }
      if c.fld 0x18 1 = 0 then .next (u.endCommit c.no 0 (s.img 8 8))
      else if c.fld 0x18 1 = 2 then
        .next (({ u with col := { u.col with nextSlot := c.fld 0x19 1 } } : State).endCommit c.no 0 (s.img 8 8))
      else .next { u.start c.no with dev := { s.dev with act := some { cmd := c.no, slot := c.fld 0x19 1 }, actState := 2 } } := by
  refine (exec_firmwareCommit hc hslot hactive hwhole haction).trans ((if_neg ?_).trans ((if_neg ?_).trans (if_neg ?_)))
  · rw [hact]
    rintro (h | ⟨h1, h2⟩)
    · contradiction
    · rw [hcont h1] at h2
      contradiction
  · simp [hup]
  · simp [hgood]

end

end

section
variable {a : Activation} (ha : s.dev.act = some a) (hs : s.serving = true)
include ha hs

theorem exec_activationLoaded (hp : a.paused = false) (hup : s.slcUp = true) (good : Bool) :
    exec (.activationLoaded good) s = if good = true
      then .next { s.holder 2 true with dev := { (s.holder 2 true).dev with act := some { a with paused := true }, actState := 3 } }
      else .next (s.dropActivation 0x5004) := by
  show execActivationLoaded good s = _
  rw [execActivationLoaded, ha]
  refine (if_neg (by simp [hs, hp])).trans ((if_neg (by simp [hup])).trans ?_)
  cases good <;> rfl

theorem exec_activationReady (hp : a.paused = true) :
    exec .activationReady s = .next (({ s with
      dev := { s.dev with activeSlot := a.slot }, col := { s.col with nextSlot := a.slot } } : State).endPause a 0
        (s.slotVersion a.slot)) := by
  show execActivationReady s = _
  rw [execActivationReady, ha]
  exact if_neg (by simp [hs, hp])

theorem exec_activationTimeout (hp : a.paused = true) :
    exec .activationTimeout s = .next (({ s with
      dev := { s.dev with rollbacks := min 255 (s.dev.rollbacks + 1) }
      col := { s.col with slots := s.col.slots.modify a.slot (fun x => { x with rejected := true }) } } : State).endPause a
        0x5004 0) := by
  show execActivationTimeout s = _
  rw [execActivationTimeout, ha]
  exact if_neg (by simp [hs, hp])

end

end

/-- Settles O46: each command and each step of an activation by its branch. -/
theorem firmwareRows : Obligations.FirmwareRows := by
  intro s sq cid c
  refine ⟨fun b u => exec_firmwareImageDownload_ok, fun hc hslot hactive hwhole =>
      ⟨exec_firmwareCommit_busy hc hslot hactive hwhole, fun hact hup => ⟨fun hgood => ⟨fun h => ?store, fun h => ?next, fun h hcont => ?live⟩,
        exec_firmwareCommit_refused hc hslot hactive hwhole hact hup⟩⟩,
    fun a ha hs => ⟨fun hp hup => exec_activationLoaded ha hs hp hup true, fun hp hup => exec_activationLoaded ha hs hp hup false,
      exec_activationReady ha hs, exec_activationTimeout ha hs⟩⟩
  case store =>
    rw [exec_firmwareCommit_good hc hslot hactive hwhole hact hup hgood (by omega) (by omega)]
    exact if_pos h
  case next =>
    rw [exec_firmwareCommit_good hc hslot hactive hwhole hact hup hgood (by omega) (by omega)]
    exact (if_neg (by omega)).trans (if_pos h)
  case live =>
    rw [exec_firmwareCommit_good hc hslot hactive hwhole hact hup hgood (by omega) (fun _ => hcont)]
    exact (if_neg (by omega)).trans (if_neg (by omega))

end Sys2Proof.Machine
end

section
/-! SUPPORT. Folio commands and the data commands beside them (R60–R68, R195–R199, R210). -/
namespace Sys2Proof.Machine

section
variable {s : State} {i sq cid : Nat} {c : Cmd}

-- ---------------------------------------------------------------- Load and Submit Folio

section
variable (hc : s.openCmd i sq cid 0x40 = some c)
include hc

theorem exec_loadFolio_contained (hp : c.phase = .fetched) (hcont : s.dev.contained = true) :
    exec (.loadFolio i sq cid) s = .next ((s.start c.no).finish c.no 0x100A 0 0) := by
  have hcont' : (s.start c.no).dev.contained = true := hcont
  show execLoadFolio i sq cid s = _
  rw [execLoadFolio, hc]
  exact if_pos (by rw [hp, hcont']; rfl)

theorem exec_loadFolio_read {b : Bytes} {u : State} (hcont : s.dev.contained = false)
    (hfree : (s.start c.no).slotBusy c = false) (hmin : 256 ≤ c.dataLen) (hmax : c.dataLen ≤ 67108864)
    (hread : (s.start c.no).bufRead c c.dataAddr c.dataLen = .ok b u) :
    exec (.loadFolio i sq cid) s = if folioOk b then .next (u.storeFolio c b) else .next (u.finish c.no 0x1005 0 0) := by
  have hcont' : (s.start c.no).dev.contained = false := hcont
  show execLoadFolio i sq cid s = _
  rw [execLoadFolio, hc]
  refine (if_neg ?_).trans ((if_neg ?_).trans ((if_neg ?_).trans ?_))
  · rw [hcont', Bool.and_false]; decide
  · rw [hfree]; decide
  · omega
  · simp only [hread]; rfl

end

section
variable (hc : s.openCmd i sq cid 0x41 = some c) (hnew : ∀ p ∈ s.runs, p.2.cmd ≠ c.no)
include hc hnew

theorem exec_submitFolio_contained (hp : c.phase = .fetched) (hcont : s.dev.contained = true) :
    exec (.submitFolio i sq cid) s = .next ((s.start c.no).finish c.no 0x100A 0 0) := by
  have hcont' : (s.start c.no).dev.contained = true := hcont
  show execSubmitFolio i sq cid s = _
  rw [execSubmitFolio, hc]
  exact (if_neg (by simpa using hnew)).trans (if_pos (by rw [hp, hcont']; rfl))

section
variable (hcont : s.dev.contained = false) (hload : (s.start c.no).loadAhead c = false)
include hcont hload

theorem exec_submitFolio_empty (hslot : Tab.find s.folios (folioKey i (c.fld 0x18 1)) = none) :
    exec (.submitFolio i sq cid) s = .next ((s.start c.no).finish c.no 0x1002 0 0) := by
  have hcont' : (s.start c.no).dev.contained = false := hcont
  have hslot' : Tab.find (s.start c.no).folios (folioKey i (c.fld 0x18 1)) = none := hslot
  show execSubmitFolio i sq cid s = _
  rw [execSubmitFolio, hc]
  refine (if_neg (by simpa using hnew)).trans ((if_neg ?_).trans ((if_neg ?_).trans ?_))
  · rw [hcont', Bool.and_false]; decide
  · rw [hload]; decide
  · simp only [hslot']; rfl

theorem exec_submitFolio_begins {f : FolioSlot} {u : State} (hslot : Tab.find s.folios (folioKey i (c.fld 0x18 1)) = some f)
    (hlen : reportMin f.image ≤ c.dataLen) (hok : ∀ j, j < foSigs f.image → (s.start c.no).submitOk i f.image j = true)
    (hsources : (s.start c.no).checkSources c f.image (foSigs f.image - c.prog) = .ok true u) :
    exec (.submitFolio i sq cid) s = .next (u.beginRun c f.image) := by
  have hcont' : (s.start c.no).dev.contained = false := hcont
  have hslot' : Tab.find (s.start c.no).folios (folioKey i (c.fld 0x18 1)) = some f := hslot
  have hall : (List.range (foSigs f.image)).all ((s.start c.no).submitOk i f.image) = true := by
    rw [List.all_eq_true]
    exact fun j hj => hok j (List.mem_range.mp hj)
  show execSubmitFolio i sq cid s = _
  rw [execSubmitFolio, hc]
  refine (if_neg (by simpa using hnew)).trans ((if_neg ?_).trans ((if_neg ?_).trans ?_))
  · rw [hcont', Bool.and_false]; decide
  · rw [hload]; decide
  · simp only [hslot']
    refine (if_neg ?_).trans ?_
    · rw [hall]; simp; omega
    · simp only [hsources]; rfl

end

end

-- ---------------------------------------------------------------- Cancel Folio

section
variable (hc : s.takeCmd i sq cid 0x42 = some c)
include hc

theorem exec_cancelFolio_none (ht : (s.start c.no).cmds.find? (fun y => y.inst == i && y.sq == c.fld 0x18 2
      && y.cid == c.fld 0x1A 2 && y.op == 0x41 && y.phase == .running) = none) :
    exec (.cancelFolio i sq cid) s = .next ((s.start c.no).finish c.no 0x1002 0 0) := by
  show execCancelFolio i sq cid s = _
  rw [execCancelFolio, hc]
  simp only [ht]
  rfl

theorem exec_cancelFolio_run {t : Cmd} {k : Nat} {r : Run}
    (ht : (s.start c.no).cmds.find? (fun y => y.inst == i && y.sq == c.fld 0x18 2
      && y.cid == c.fld 0x1A 2 && y.op == 0x41 && y.phase == .running) = some t)
    (hrun : s.runs.find? (fun p => p.2.cmd == t.no) = some (k, r)) (hfin : r.finish = none) :
    exec (.cancelFolio i sq cid) s = .next (((((s.start c.no).updRun k (fun r => { r with cancelled := true })).stopRun
      k 0).settle k).finish c.no 0 0 0) := by
  have hrun' : (s.start c.no).runs.find? (fun p => p.2.cmd == t.no) = some (k, r) := hrun
  show execCancelFolio i sq cid s = _
  rw [execCancelFolio, hc]
  simp only [ht, hrun', hfin]
  rfl

end

-- ---------------------------------------------------------------- Load Segments, Read Results, Thumb Load

theorem exec_loadSegments (hc : s.openCmd i sq cid 0x43 = some c) :
    exec (.loadSegments i sq cid) s =
      if c.fld 0x18 2 = 0 ∨ 4096 < c.fld 0x18 2 ∨ c.dataLen < 32 * c.fld 0x18 2
      then .next ((s.start c.no).finish c.no 0x1002 0 0)
      else .next ((s.start c.no).rangeOps (c.fld 0x18 2) (c.fld 0x18 2 - c.prog) c) := by
  show execLoadSegments i sq cid s = _
  rw [execLoadSegments, hc]
  rfl

theorem exec_readResults_ok {b : Bytes} {u v : State} (hc : s.openCmd i sq cid 0x44 = some c)
    (hread : (s.start c.no).devRead (.cmd c.no) i (c.fld 0x18 8) c.dataLen = .ok b u)
    (hwrite : u.bufWrite c c.dataAddr b = .ok () v) :
    exec (.readResults i sq cid) s = .next ((v.forget (.cmd c.no)).finish c.no 0 0 0) := by
  show execReadResults i sq cid s = _
  rw [execReadResults, hc]
  simp only [hread, hwrite]
  rfl

section
variable {img : Bytes} {u : State} (hc : s.openCmd i sq cid 0x45 = some c)
  (hread : (s.start c.no).bufRead c c.dataAddr c.dataLen = .ok img u)
include hc hread

theorem exec_thumbLoad_bad (hbad : thumbImageOk img = false) :
    exec (.thumbLoad i sq cid) s = .next (u.finish c.no 0x1002 0 0) := by
  show execThumbLoad i sq cid s = _
  rw [execThumbLoad, hc]
  simp only [hread]
  exact if_pos (by simp [hbad])

/-- The banks that a load of an image writes: those of the mask when it clears them, else those of its records. -/
def loadBanks (mask : Nat) (img : Bytes) : Nat :=
  if bitAt (fld img 0xC 4) 0 then mask
  else (thumbRecs img).foldl (fun m r => m ||| (1 <<< (slotEntry mask r.slot / 1024))) 0

/-- A checked image goes into the banks when the writes may begin. -/
theorem exec_thumbLoad_good (hgood : thumbImageOk img = true)
    (hslots : ∀ r ∈ thumbRecs img, r.slot < 1024 * popcount 64 (c.fld 0x20 8))
    (howned : ∀ q ∈ (List.range 16).filter (bitAt (c.fld 0x18 2)), u.thumbDenied i q (c.fld 0x20 8) = false) :
    exec (.thumbLoad i sq cid) s =
      match u.beginWrites ((List.range 16).filter (bitAt (c.fld 0x18 2))) i (loadBanks (c.fld 0x20 8) img) (c.prog == 1) with
      | .error v => .next (v.updCmd c.no (fun c => { c with prog := 1 }))
      | .ok v => .next (((State.thumbImageIn (if bitAt (fld img 0xC 4) 0
            then v.thumbClearIn ((List.range 16).filter (bitAt (c.fld 0x18 2))) i (c.fld 0x20 8) else v)
          ((List.range 16).filter (bitAt (c.fld 0x18 2))) i (c.fld 0x20 8) img).forget (.cmd c.no)).finish c.no 0 (thumbCount img) 0) := by
  show execThumbLoad i sq cid s = _
  rw [execThumbLoad, hc]
  simp only [hread]
  refine (if_neg ?_).trans ((if_neg ?_).trans rfl)
  · simp [hgood]
    exact hslots
  · rw [List.any_eq_true]
    rintro ⟨q, hq, h⟩
    rw [howned q hq] at h
    contradiction

end

end

/-- Settles O47: each command by the checks it passes or fails. -/
theorem folioRows : Obligations.FolioRows := by
  intro s i sq cid c
  refine ⟨fun hc => ⟨exec_loadFolio_contained hc, fun b u hcont hfree hmin hmax hread =>
        ⟨fun hok => (exec_loadFolio_read hc hcont hfree hmin hmax hread).trans (if_pos hok),
          fun hok => (exec_loadFolio_read hc hcont hfree hmin hmax hread).trans (if_neg (by simp [hok]))⟩⟩,
    fun hc hnew => ⟨exec_submitFolio_contained hc hnew, fun hcont hload => ⟨exec_submitFolio_empty hc hnew hcont hload,
      fun f u => exec_submitFolio_begins hc hnew hcont hload⟩⟩,
    fun hc => ⟨exec_cancelFolio_none hc, fun t k r => exec_cancelFolio_run hc⟩,
    fun hc => ⟨fun h1 h2 h3 => (exec_loadSegments hc).trans (if_neg (by omega)),
      fun h => (exec_loadSegments hc).trans (if_pos (by omega))⟩,
    fun b u v => exec_readResults_ok,
    fun img u hc hread => ⟨exec_thumbLoad_bad hc hread, fun hgood hslots howned => ⟨fun v hv => ?_, fun v hv => ?_⟩⟩⟩
  · exact (exec_thumbLoad_good hc hread hgood hslots howned).trans (by rw [loadBanks, hv])
  · exact (exec_thumbLoad_good hc hread hgood hslots howned).trans (by rw [loadBanks, hv])

end Sys2Proof.Machine
end

section
/-! SUPPORT. Copy commands and channels (R417–R431). -/
namespace Sys2Proof.Machine

-- ---------------------------------------------------------------- Copy commands

section
variable {s : State} {i sq cid : Nat} {c : Cmd} (hc : s.openCmd i sq cid 0x46 = some c)
include hc

theorem exec_copy_none (hch : (s.start c.no).copyOf i (c.fld 0x18 1) = none) :
    exec (.copy i sq cid) s = .next ((s.start c.no).finish c.no 0x1002 0 0) := by
  show execCopy i sq cid s = _
  rw [execCopy, hc]
  simp only [hch]
  rfl

/-- A readable first descriptor of a held, free channel starts it when it is legal, and halts it otherwise. -/
theorem exec_copy_read {ch : Nat} {x : CopyChan} {b : Bytes} {u : State}
    (hch : (s.start c.no).copyOf i (c.fld 0x18 1) = some ch) (hx : (s.start c.no).copyChan ch = some x)
    (hsec : bitAt ((s.start c.no).reg 0x110) ch = false) (hstate : x.state ≠ 1) (halign : c.fld 0x20 8 % 64 = 0)
    (hzero : c.fld 0x20 8 ≠ 0) (hread : (s.start c.no).bufRead c (c.fld 0x20 8) 64 = .ok b u) :
    exec (.copy i sq cid) s = if (copyDesc b).ok = true
      then .next (((u.updCopy ch (fun x => { x with
        state := 1, cur := c.fld 0x20 8 + b2n c.devAddr, desc := some b, pos := 0, done := false, next := 0, fault := 0
        halt := false, resume := false })).forget (.cmd c.no)).finish c.no 0 0 0)
      else .next (((u.forget (.cmd c.no)).updCopy ch (·.halted 0x1002)).finishAt c.no 0x1002 0 0 (c.fld 0x20 8)) := by
  show execCopy i sq cid s = _
  rw [execCopy, hc]
  simp only [hch, hx]
  refine (if_neg ?_).trans ((if_neg hstate).trans ((if_neg ?_).trans ?_))
  · rw [hsec]; decide
  · omega
  · simp only [hread]
    cases (copyDesc b).ok <;> rfl

end

-- ---------------------------------------------------------------- descriptors

section
variable {s : State} {c : Nat} {x : CopyChan} (hr : s.running = true) (hx : s.copyChan c = some x) (hstate : x.state = 1)
  (hfault : x.fault = 0) (hdone : x.done = false)
include hr hx hstate hfault hdone

theorem exec_copyDescriptorStart {b : Bytes} (hdesc : x.desc = some b) :
    exec (.copyDescriptorStart c) s =
      .next (s.moveBeats c x.inst (copyDesc b) ((copyDesc b).len / 32768 + 4) x.pos) := by
  show execCopyDescriptorStart c s = _
  rw [execCopyDescriptorStart, hx]
  refine (if_neg (by simp [hstate, hr])).trans ((if_neg (by simp [hfault])).trans ((if_neg (by simp [hdone])).trans ?_))
  simp only [hdesc]
  rfl

theorem exec_copyDescriptorStart_next {b : Bytes} {u : State} (hdesc : x.desc = none)
    (hread : s.descRead c x.inst x.next 64 = .ok b u) (hok : (copyDesc b).ok = true) :
    exec (.copyDescriptorStart c) s = .next ((u.updCopy c (fun x => { x with
      cur := x.next, next := 0, desc := some b, pos := 0 })).pastArrivals.moveBeats c x.inst (copyDesc b)
        ((copyDesc b).len / 32768 + 4) 0) := by
  show execCopyDescriptorStart c s = _
  rw [execCopyDescriptorStart, hx]
  refine (if_neg (by simp [hstate, hr])).trans ((if_neg (by simp [hfault])).trans ((if_neg (by simp [hdone])).trans ?_))
  simp only [hdesc, hread, hok]
  rfl

theorem exec_copyDescriptorFail {b : Bytes} (cause : CopyCause) (hdesc : x.desc = some b) :
    exec (.copyDescriptorFail c cause) s = .next ((s.copyJunk x.inst (copyDesc b) x.pos).copyFail c (copyStatus cause)) := by
  show execCopyDescriptorFail c cause s = _
  rw [execCopyDescriptorFail, hx]
  refine (if_neg (by simp [hstate, hdesc, hdone, hfault, hr])).trans ?_
  rw [hdesc]
  rfl

theorem exec_copyDescriptorComplete {b : Bytes} {u : State} (hdesc : x.desc = some b) (hmoved : (copyDesc b).len ≤ x.pos)
    (hback : (s.copyBack c x (copyDesc b) 0).1 = some u) :
    exec (.copyDescriptorComplete c) s =
      .next ((((if (copyDesc b).intr then u.signal x.inst (copyDesc b).iv else u).forget (.copy c)).updCopy c
        (fun x => { x with done := true })).takeNext c) := by
  have hpair : s.copyBack c x (copyDesc b) 0 = (some u, (s.copyBack c x (copyDesc b) 0).2) := Prod.ext hback rfl
  show execCopyDescriptorComplete c s = _
  rw [execCopyDescriptorComplete, hx]
  simp only [hdesc]
  refine (if_neg ?_).trans ((if_neg (by simp [hdone])).trans ?_)
  · simp [hstate, hfault, hr]; exact hmoved
  · rw [hpair]
    rfl

end

-- ---------------------------------------------------------------- resume doorbells

/-- A resume doorbell comes after host software's stores, and then goes by the channel's state (R424). -/
theorem exec_copyResumeDoorbell {s : State} {i k c : Nat} {h : HostStores} {x : CopyChan} {y : Inst}
    (hs : (s.hostStore i h).serving = true) (hy : (s.hostStore i h).inst? i = some y) (hq : y.quiescing = false)
    (hquiet : y.quiesced = false) (hof : (s.hostStore i h).copyOf i k = some c)
    (hx : (s.hostStore i h).copyChan c = some x) :
    exec (.copyResumeDoorbell i k h) s =
      if x.state = 1 then .next ((s.hostStore i h).updCopy c (fun y => { y with resume := true }))
      else if x.state = 2 then .next (((s.hostStore i h).updCopy c (fun y => { y with
        state := 1, resume := false, desc := some (zeros 64), pos := 64, done := true })).takeNext c)
      else .next (s.hostStore i h) := by
  show execCopyResumeDoorbell i k h s = _
  rw [execCopyResumeDoorbell]
  simp only [hy, hof]
  refine (if_neg (by simp [hs, hq, hquiet])).trans ?_
  simp only [hx]
  rfl

/-- Settles O50: each row by its branch. -/
theorem copyRows : Obligations.CopyRows := by
  refine ⟨fun s i sq cid c hc => ⟨exec_copy_none hc, fun ch x b u hch hx hsec hstate halign hzero hread =>
      ⟨fun hok => (exec_copy_read hc hch hx hsec hstate halign hzero hread).trans (if_pos hok),
        fun hok => (exec_copy_read hc hch hx hsec hstate halign hzero hread).trans (if_neg (by simp [hok]))⟩⟩,
    fun s c x hr hx hstate => ⟨fun hfault hdone => ⟨fun b => exec_copyDescriptorStart hr hx hstate hfault hdone,
        fun b u => exec_copyDescriptorStart_next hr hx hstate hfault hdone,
        fun b cause => exec_copyDescriptorFail hr hx hstate hfault hdone cause, fun b u v hdesc hmoved hback hv => ?complete⟩,
      fun d t cause => if_pos hr, fun i k h y _ _ hq hquiet _ hs hy hof hx' => ?running⟩,
    fun s i k c h x y hs hy hq hquiet hof hx hstate => ?suspended⟩
  case complete =>
    rw [hv]
    exact exec_copyDescriptorComplete hr hx hstate hfault hdone hdesc hmoved hback
  case running => exact (exec_copyResumeDoorbell hs hy hq hquiet hof hx').trans (if_pos hstate)
  case suspended => exact (exec_copyResumeDoorbell hs hy hq hquiet hof hx).trans ((if_neg (by omega)).trans (if_pos hstate))

end Sys2Proof.Machine
end

section
/-! SUPPORT. Cipher, digest and Press jobs (R233–R240, R406–R416). -/
namespace Sys2Proof.Machine

theorem Tab.find_del_same {α : Type} (t : Tab α) (k : Nat) : Tab.find (Tab.del t k) k = none := by
  induction t with
  | nil => rfl
  | cons p r ih =>
    rw [Tab.del, List.filter_cons]
    split
    · rename_i h
      exact (if_neg (by simpa using h)).trans ih
    · exact ih

/-- Of copies of one value one stays. -/
theorem dedup_const {α : Type} [DecidableEq α] {a : α} {l : List α} (h : ∀ x ∈ l, x = a) : dedup (a :: l) = [a] := by
  have hfold : l.foldl (fun acc x => if acc.contains x then acc else acc ++ [x]) [a] = [a] := by
    induction l with
    | nil => rfl
    | cons x l ih =>
      have hx : x = a := h x List.mem_cons_self
      rw [List.foldl_cons, hx, if_pos (by simp)]
      exact ih fun y hy => h y (.tail _ hy)
  exact hfold

-- ---------------------------------------------------------------- commands

section
variable {s : State} {i sq cid : Nat} {c : Cmd}

section
variable (hc : s.openCmd i sq cid 0x47 = some c) (hprog : c.prog ≠ 1)
  (hfirst : ((s.start c.no).cmds.any (fun y => y.inst == i && y.op == 0x47 && y.open_ && decide (y.no < c.no))) = false)
include hc hprog hfirst

theorem exec_cipher_refused (h : c.cFormOk = false ∨ ((s.start c.no).cryPage i).admits c = false) :
    exec (.cipher i sq cid) s = .next ((s.start c.no).cipherFail c 0x1002 0) := by
  show execCipher i sq cid s = _
  rw [execCipher, hc]
  refine (if_neg ?_).trans (if_pos ?_)
  · rw [hfirst]; simpa using hprog
  · rcases h with h | h <;> simp [h]

theorem exec_cipher_runs (hform : c.cFormOk = true) (hadm : ((s.start c.no).cryPage i).admits c = true)
    (hout : c.cOut ≤ c.dataLen) (hauto : c.cAuto = false)
    (hspent : (((s.start c.no).cryPage i).message c c.cIv).spent c.cLen = false) (hmode : c.cMode ≠ 3) (hkeep : c.cKeep = false) :
    exec (.cipher i sq cid) s = .next ((s.start c.no).updCmd c.no (fun c => { c with prog := 1, result := 0 })) := by
  show execCipher i sq cid s = _
  rw [execCipher, hc]
  refine (if_neg ?_).trans ((if_neg ?_).trans ((if_neg (by omega)).trans ((if_neg ?_).trans ((if_neg ?_).trans
    ((if_neg ?_).trans ?_)))))
  · rw [hfirst]; simpa using hprog
  · simp [hform, hadm]
  · simp [hauto]
  · simp [hspent]
  · exact fun h => hmode h.1
  · rw [hauto, hkeep]
    rfl

end

theorem exec_digest (hc : s.takeCmd i sq cid 0x48 = some c) :
    exec (.digest i sq cid) s = if c.dOk = true
      then .next { s.start c.no with cry := { s.cry with wait := s.cry.wait ++ [c.no] } }
      else .next (s.finish c.no 0x1002 0 0) := by
  show execDigest i sq cid s = _
  rw [execDigest, hc]
  cases hok : c.dOk
  · exact if_pos (by simp [hok])
  · exact if_neg (by simp [hok])

/-- A legal job waits while a Press unit is in service. -/
theorem State.queuePress_legal (hunits : s.col.retPress.length < 32) :
    s.queuePress c true = { s.start c.no with press := { s.press with
      waiting := s.press.waiting ++ [{ cmd := some c.no, inst := c.inst, fmt := c.prsFmt }] } } :=
  (if_neg (by simp)).trans (if_neg (by omega))

theorem exec_pressCompress (hc : s.takePress i sq cid 0 = some c) (hlegal : c.compressLegal s = true) :
    exec (.pressCompress i sq cid) s = .next (s.queuePress c true) := by
  show execPressCompress i sq cid s = _
  rw [execPressCompress, hc]
  simp only [hlegal]
  rfl

theorem exec_pressDecompress (hc : s.takePress i sq cid 1 = some c) (hlegal : c.decompressLegal = true) :
    exec (.pressDecompress i sq cid) s = .next (s.queuePress c true) := by
  show execPressDecompress i sq cid s = _
  rw [execPressDecompress, hc]
  simp only [hlegal]
  rfl

theorem exec_pressRegisterDictionary {u : State} (hc : s.takePress i sq cid 2 = some c) (hfmt : c.prsFmt = 3)
    (hlen : c.fld 0x28 4 ≤ 1048576) (hroom : (s.press.dicts.filter (fun p => p.1 / 2 ^ 32 == i)).length < 256)
    (hcheck : s.devCheck (.cmd c.no) i (c.fld 0x20 8) (c.fld 0x28 4) false = .ok () u) :
    exec (.pressRegisterDictionary i sq cid) s = .next (({ u with press := { u.press with
      dicts := Tab.set u.press.dicts (i * 2 ^ 32 + c.fld 0x38 4) (c.fld 0x20 8, c.fld 0x28 4) } } : State).finish c.no 0 0 0) := by
  show execPressRegisterDictionary i sq cid s = _
  rw [execPressRegisterDictionary, hc]
  refine (if_neg (by omega)).trans ((if_neg ?_).trans ?_)
  · rw [Bool.and_eq_true, decide_eq_true_eq]; omega
  · simp only [hcheck]; rfl

end

-- ---------------------------------------------------------------- units

section
variable {s : State} (hr : s.running = true)
include hr

theorem exec_cipherJobComplete {page : Nat} {c : Cmd} (cores : List Nat)
    (hc : s.cmds.find? (fun y => y.inst == page && y.op == 0x47 && y.phase == .running && y.prog == 1) = some c) :
    exec (.cipherJobComplete page cores) s = .next ((cores.foldl State.coreFault s).cipherEnd c) := by
  refine (if_neg (by simp [hr])).trans ?_
  rw [hc]
  rfl

/-- With jobs of one instance alone, the lowest free unit takes the oldest (R414). -/
theorem exec_digestJobStart {u no : Nat} {rest : List Nat} (hwait : s.cry.wait = no :: rest)
    (hsame : ∀ n ∈ rest, s.digInst n = s.digInst no)
    (hu : (List.range 16).find? (fun u => !Tab.has s.cry.units u) = some u) :
    exec .digestJobStart s = .next { s with cry := { s.cry with
      wait := rest, rr := s.digInst no, units := Tab.set s.cry.units u no } } := by
  have hinsts : sortBy (fun a b => decide (a ≤ b)) (dedup (s.cry.wait.map s.digInst)) = [s.digInst no] := by
    rw [hwait, List.map_cons, dedup_const]
    · rfl
    · simpa using hsame
  have hturn : ([s.digInst no].find? (fun i => decide (s.cry.rr < i))).orElse (fun _ => [s.digInst no].head?) = some (s.digInst no) := by
    rw [List.find?_singleton]
    split <;> rfl
  have htake : takeFirst (fun n => s.digInst n == s.digInst no) s.cry.wait = some (no, rest) := by
    rw [hwait]
    exact if_pos (beq_self_eq_true _)
  refine (if_neg (by simp [hr])).trans ?_
  simp only [hinsts, hturn, hu, htake]
  rfl

section
variable {unit no : Nat} {c : Cmd} (hunit : Tab.find s.cry.units unit = some no)
  (hc : s.cmds.find? (fun c => c.no == no) = some c)
include hunit hc

theorem exec_digestJobComplete_done {u v : State} (hend : s.digestEnd c = (some u, v)) :
    exec (.digestJobComplete unit false) s = .next { u with cry := { u.cry with units := Tab.del u.cry.units unit } } := by
  refine (if_neg (by simp [hr])).trans ?_
  simp only [hunit, hc, hend]
  rfl

theorem exec_digestJobComplete_broken :
    exec (.digestJobComplete unit true) s = .next { s.digestBroken c with
      cry := { (s.digestBroken c).cry with units := Tab.del (s.digestBroken c).cry.units unit } } := by
  refine (if_neg (by simp [hr])).trans ?_
  simp only [hunit, hc]
  rfl

end

theorem exec_pressJobStart {u : Nat} {j : PressJob} {rest : List PressJob} {rr : Nat} (hp : s.paused = false)
    (hu : s.freeUnit = some u) (hj : s.nextJob = some (j, rest, rr)) :
    exec .pressJobStart s = .next { s with press := { s.press with
      waiting := rest, rr := rr, units := Tab.set s.press.units u { j with dicts := s.dictsOf j.inst } } } := by
  refine (if_neg (by simp [hr, hp])).trans ?_
  rw [hu, hj]
  rfl

section
variable {u : Nat} {j : PressJob} (hj : Tab.find s.press.units u = some j)
include hj

theorem exec_pressJobComplete_page (hcmd : j.cmd = none) : exec (.pressJobComplete u false) s = .next (s.endPageJob j u) := by
  refine (if_neg (by simp [hr])).trans ?_
  simp only [hj, hcmd]
  rfl

theorem exec_pressJobComplete_cmd {no : Nat} {c : Cmd} (hcmd : j.cmd = some no)
    (hc : s.cmds.find? (fun c => c.no == no) = some c) (hbusy : s.streamBusy c u = false) :
    exec (.pressJobComplete u false) s = .next (s.runPress c j u) := by
  refine (if_neg (by simp [hr])).trans ?_
  simp only [hj, hcmd, hc, hbusy]
  rfl

theorem exec_pressJobComplete_broken : exec (.pressJobComplete u true) s = .next (s.pressBroken u) := by
  refine (if_neg (by simp [hr])).trans ?_
  simp only [hj]
  rfl

end

end

/-- Settles O51: each row by its branch. -/
theorem cipherDigestAndPressRows : Obligations.CipherDigestAndPressRows := by
  refine ⟨fun s i sq cid c hc hprog hfirst => ⟨exec_cipher_refused hc hprog hfirst, exec_cipher_runs hc hprog hfirst⟩,
    fun s i sq cid c hc => ⟨fun hok => ⟨_, (exec_digest hc).trans (if_pos hok), rfl, rfl⟩,
      fun hok => (exec_digest hc).trans (if_neg (by simp [hok]))⟩,
    fun s i sq cid c => ⟨fun hc hlegal hunits => ⟨exec_pressCompress hc hlegal, by rw [State.queuePress_legal hunits]⟩,
      fun hc hlegal _ => exec_pressDecompress hc hlegal, fun u => exec_pressRegisterDictionary⟩,
    fun s hr => ⟨fun page c hc cores => exec_cipherJobComplete hr cores hc, fun u no rest => exec_digestJobStart hr,
      fun unit no c u v hunit hc => exec_digestJobComplete_done hr hunit hc,
      fun unit no c hunit hc => ⟨_, exec_digestJobComplete_broken hr hunit hc, Tab.find_del_same _ _, rfl⟩,
      fun u j rest rr => exec_pressJobStart hr, fun u j hj => ⟨exec_pressJobComplete_page hr hj,
        fun no c => exec_pressJobComplete_cmd hr hj, exec_pressJobComplete_broken hr hj⟩⟩⟩

end Sys2Proof.Machine
end

section
/-! SUPPORT. The sweep, page moves, zeroing and the page-table walk (R220–R236). -/
namespace Sys2Proof.Machine

-- ---------------------------------------------------------------- rows

/-- `t` is `s` but for the state of the memory controllers' channels and registers. -/
def OpensRows (s t : State) : Prop := t = { s with chans := t.chans, regs := t.regs }

theorem OpensRows.refl (s : State) : OpensRows s s := rfl

theorem OpensRows.trans {s t u : State} (h : OpensRows s t) (k : OpensRows t u) : OpensRows s u := by
  rw [OpensRows] at *
  rw [k, h]

theorem OpensRows.ite {c : Prop} [Decidable c] {s a b : State} (ha : OpensRows s a) (hb : OpensRows s b) :
    OpensRows s (if c then a else b) := by
  split
  · exact ha
  · exact hb

theorem OpensRows.foldl {α : Type} {f : State → α → State} (h : ∀ s a, OpensRows s (f s a)) (l : List α) (s : State) :
    OpensRows s (l.foldl f s) := by
  induction l generalizing s with
  | nil => exact .refl s
  | cons a l ih => exact (h s a).trans (ih _)

theorem State.updChan_opensRows (s : State) (c : Nat) (f : Chan → Chan) : OpensRows s (s.updChan c f) := rfl

theorem State.count_opensRows (s : State) (off n : Nat) : OpensRows s (s.count off n) := rfl

/-- Opening a row moves the state of its channel and its registers alone. -/
theorem State.touchRow_opensRows (s : State) (dpa : Nat) : OpensRows s (s.touchRow dpa) := by
  rw [State.touchRow]
  generalize mapDpa s.hbm.order dpa = p
  have hrefresh : OpensRows s (s.forceRefresh p.dev p.bankNo) := .ite (s.updChan_opensRows _ _) (.refl s)
  generalize s.forceRefresh p.dev p.bankNo = s1 at hrefresh ⊢
  split
  · exact hrefresh
  · generalize actUpdate _ _ _ = r
    have hopen : ∀ f, OpensRows s1 (s1.updChan p.dev f) := s1.updChan_opensRows _
    exact hrefresh.trans (.ite ((hopen _).trans ((State.updChan_opensRows _ _ _).trans (State.count_opensRows _ _ _))) (hopen _))

theorem State.passRows_opensRows (s : State) (dpa n : Nat) : OpensRows s (s.passRows dpa n) :=
  OpensRows.foldl (fun s k => s.touchRow_opensRows (dpa + 64 * k)) _ s

-- ---------------------------------------------------------------- zeroing

/-- A zeroed frame is listed no more and reads zero throughout, and no other byte changes. -/
theorem State.zeroFrame_spec (s : State) (f : Nat) :
    (s.zeroFrame f).hbm = s.hbm ∧ (s.zeroFrame f).frame? f = none ∧
      ∀ k, Mem.read (s.zeroFrame f).mem k =
        if Space.hbm.base + f * mib2 ≤ k ∧ k < Space.hbm.base + f * mib2 + mib2 then 0 else Mem.read s.mem k := by
  have hrows := s.passRows_opensRows (f * mib2) mib2
  generalize ht : s.passRows (f * mib2) mib2 = t at hrows
  have hmem : t.mem = s.mem := by rw [hrows]
  have hhbm : t.hbm = s.hbm := by rw [hrows]
  rw [State.zeroFrame, ht]
  refine ⟨hhbm, Tab.find_del_same _ _, fun k => ?_⟩
  rw [← hmem]
  exact Mem.read_clear _ _ _ _

theorem State.retireFrames_of_none {s : State} (h : s.hbm.retiring = []) : s.retireFrames = s := by
  rw [State.retireFrames, h]
  rfl

-- ---------------------------------------------------------------- commands

section
variable {s : State} (hr : s.running = true)
include hr

theorem exec_pagerSweep {i f : Nat} {u : State} (hi : (s.inst? i).isSome = true) (hev : s.evicting i = false)
    (hneed : s.quotaFree i < s.regField offPgrCfg 15 8 ∨ s.frameWanted i = true)
    (hvictim : s.sweepVictim i (2 * (s.framesOf i).length + 1) = (some f, u)) :
    exec (.pagerSweep i) s = match u.pagesIn f with
      | [] => .next (u.releaseFrame f)
      | ps => match u.startEvicts ps with
        | .going v => .next v.retireFrames
        | .soon v => .next (v.handBack i f).retireFrames
        | .full => .next (if u.frameWanted i then u.failForRoom i else u) := by
  refine (if_neg ?_).trans ((if_pos hneed).trans ?_)
  · rw [hr, hev, ← Option.not_isSome, hi]; decide
  · rw [hvictim]
    rfl

theorem exec_pagerSweep_moves {i f : Nat} {u : State} (hi : (s.inst? i).isSome = true) (hev : s.evicting i = false)
    (hneed : s.quotaFree i < s.regField offPgrCfg 15 8 ∨ s.frameWanted i = true)
    (hvictim : s.sweepVictim i (2 * (s.framesOf i).length + 1) = (some f, u)) (hpages : u.pagesIn f ≠ []) :
    exec (.pagerSweep i) s = .next (match u.startEvicts (u.pagesIn f) with
      | .going v => v.retireFrames
      | .soon v => (v.handBack i f).retireFrames
      | .full => if u.frameWanted i then u.failForRoom i else u) := by
  rw [exec_pagerSweep hr hi hev hneed hvictim]
  cases hp : u.pagesIn f with
  | nil => exact absurd hp hpages
  | cons p ps =>
    dsimp only
    cases u.startEvicts (p :: ps) <;> rfl

theorem exec_frameZeroComplete {f : Nat} {d : FrameDesc} (hf : f < 262144) (hd : s.frame? f = some d) (huse : d.use = 4) :
    exec (.frameZeroComplete f) s = .next (s.zeroFrame f).retireFrames := by
  refine (if_neg (by simp [hr])).trans ((if_pos hf).trans ?_)
  rw [hd]
  exact if_pos huse

theorem exec_pageTableWalk {v : Word} (hcold : s.dev.cold = false) (hgo : v.getLsbD 0 = true) :
    exec (.pageTableWalk v) s = .next (s.setReg offWalkCtrl (s.reg offWalkCtrl ||| 1)) :=
  if_pos (by rw [hr, hcold, bitAt_toNat, hgo]; rfl)

theorem exec_pageTableWalkComplete {lvl w0 w1 : Nat} (hgo : bitAt (s.reg offWalkCtrl) 0 = true)
    (hlock : s.tdiLocked (bits (s.reg offWalkAddr) 54 48) = false)
    (hwalk : s.walk (bits (s.reg offWalkAddr) 54 48) (bits (s.reg offWalkAddr) 47 0) = (lvl, w0, w1)) :
    exec .pageTableWalkComplete s =
      .next (((s.setReg 0x300040 w0).setReg 0x300048 w1).setReg offWalkCtrl (2 * (w0 / 2 ^ 63) + 16 * lvl)) := by
  have hentry : (if s.tdiLocked (bits (s.reg offWalkAddr) 54 48) = true then (0, 0, 0)
      else s.walk (bits (s.reg offWalkAddr) 54 48) (bits (s.reg offWalkAddr) 47 0)) = (lvl, w0, w1) :=
    (if_neg (by rw [hlock]; decide)).trans hwalk
  show execPageTableWalkComplete s = _
  rw [execPageTableWalkComplete, if_pos (by rw [hr, hgo]; rfl)]
  dsimp only
  rw [hentry]
  rfl

end

/-- Settles O52: each row by its branch; the zeroed frame by what zeroing does to memory. -/
theorem pagerRowsComplete : Obligations.PagerRowsComplete := by
  intro s hr
  refine ⟨fun i f u hi hev hneed hvictim => ⟨fun hp => ?release, exec_pagerSweep_moves hr hi hev hneed hvictim⟩,
    fun i va => if_pos hr, fun i va bad => if_pos hr, fun f d hf hd huse => exec_frameZeroComplete hr hf hd huse,
    fun f d hf hd huse hnone => ⟨_, exec_frameZeroComplete hr hf hd huse, ?zero⟩,
    fun v hcold hgo => ⟨_, exec_pageTableWalk hr hcold hgo, ?go, fun off h => s.reg_setReg_ne _ _ _ h⟩,
    fun lvl w0 w1 hgo hlock hwalk => ⟨_, exec_pageTableWalkComplete hr hgo hlock hwalk, ?word0, ?word1, ?ended, rfl⟩⟩
  case release =>
    rw [exec_pagerSweep hr hi hev hneed hvictim, hp]
  case zero =>
    obtain ⟨hhbm, hframe, hread⟩ := s.zeroFrame_spec f
    rw [State.retireFrames_of_none (by rw [hhbm]; exact hnone)]
    refine ⟨hframe, fun a ha => (hread _).trans (if_pos ?_), fun k hk => (hread _).trans (if_neg ?_)⟩
    · exact ⟨Nat.le_add_right _ _, Nat.add_lt_add_left ha _⟩
    · rw [mib2]; omega
  case go =>
    rw [State.reg_setReg_same, bitAt, Nat.shiftRight_zero, Nat.mod_mod_of_dvd _ (by decide), beq_iff_eq, Nat.or_mod_two_eq_one]
    exact .inr rfl
  case word0 =>
    rw [State.reg_setReg_ne _ _ _ _ (by decide), State.reg_setReg_ne _ _ _ _ (by decide), State.reg_setReg_same]
  case word1 => rw [State.reg_setReg_ne _ _ _ _ (by decide), State.reg_setReg_same]
  case ended =>
    rw [State.reg_setReg_same, bitAt, Nat.shiftRight_zero, Nat.mod_mod_of_dvd _ (by decide), beq_eq_false_iff_ne]
    omega

end Sys2Proof.Machine
end

section
/-! SUPPORT. Region sets, scrub, march tests and Thumb banks (R137–R147, R164–R170, R186). -/
namespace Sys2Proof.Machine

-- ---------------------------------------------------------------- quires

section
variable {α : Type} (t : Tab α) {k : Nat} (f : α → α)

theorem Tab.find_upd_some {x : α} (hx : Tab.find t k = some x) : Tab.find (Tab.upd t k f) k = some (f x) := by
  rw [Tab.find_upd, if_pos rfl, hx]
  rfl

theorem Tab.find_upd_ne {j : Nat} (h : j ≠ k) : Tab.find (Tab.upd t k f) j = Tab.find t j := by
  rw [Tab.find_upd, if_neg h]

end

theorem State.quire_updQuire_same (s : State) (q : Nat) (f : Quire → Quire) : (s.updQuire q f).quire q = f (s.quire q) :=
  Tab.get_set_same _ _ _ _

theorem State.quire_updQuire_ne (s : State) {q j : Nat} (f : Quire → Quire) (h : j ≠ q) :
    (s.updQuire q f).quire j = s.quire j := Tab.get_set_ne _ _ _ _ _ h

theorem Posted.quires {s t : State} (h : Posted s t) : t.quires = s.quires := by rw [h.1]

theorem State.setDev_quires (s : State) (f : Dev → Dev) : (s.setDev f).quires = s.quires := by
  unfold State.setDev
  dsimp only
  split
  · rfl
  · exact (State.raiseAll_posted _ _ _ _ _).quires

/-- A holder starts or ends without a change of any quire. -/
theorem State.quire_holder (s : State) (b : Nat) (on : Bool) (q : Nat) : (s.holder b on).quire q = s.quire q := by
  rw [State.quire, State.holder, State.setDev_quires]
  rfl

-- ---------------------------------------------------------------- region sets (R137)

section
variable {s : State} {i k : Nat} (v : Word) (hs : s.serving = true) (hi : i < 128) (hk : k < 8) (hopen : s.rsetOpen i = true)
include hs hi hk hopen

theorem exec_qmRsetWrite_stores
    (hfree : ∀ j, j < 128 → j ≠ i → ∀ m, m < 8 →
      rsetOverlap (v.toNat &&& 0x807007FF000007FF) (s.reg (offRset j m)) = false)
    (horder : bits (v.toNat &&& 0x807007FF000007FF) 10 0 ≤ bits (v.toNat &&& 0x807007FF000007FF) 42 32)
    (hmax : bits (v.toNat &&& 0x807007FF000007FF) 42 32 ≤ 0x5FF) :
    exec (.qmRsetWrite i k v) s = .next (s.setReg (offRset i k) (v.toNat &&& 0x807007FF000007FF)) := by
  refine congrArg ok ((if_neg ?_).trans (if_neg ?_))
  · simp [hs, hopen, hi, hk]
  · simp only [Bool.or_eq_true, decide_eq_true_eq, List.any_eq_true, List.mem_range, Bool.and_eq_true, bne_iff_ne]
    rintro ((h | h) | ⟨j, hj, hne, m, hm, hover⟩)
    · omega
    · omega
    · rw [hfree j hj hne m hm] at hover
      contradiction

theorem exec_qmRsetWrite_reversed
    (horder : bits (v.toNat &&& 0x807007FF000007FF) 42 32 < bits (v.toNat &&& 0x807007FF000007FF) 10 0) :
    exec (.qmRsetWrite i k v) s = .next s := by
  refine congrArg ok ((if_neg ?_).trans (if_pos ?_))
  · simp [hs, hopen, hi, hk]
  · simp only [Bool.or_eq_true, decide_eq_true_eq]
    exact .inl (.inl horder)

end

-- ---------------------------------------------------------------- scrub (R138)

section
variable {s : State} {q off : Nat} (hr : s.running = true) (hq : q < 16) (hoff : off < 0x1100000)
include hr hq hoff

theorem exec_qmScrubRead_clean :
    exec (.qmScrubRead q off .clean) s = .next (if off < 0x800000 then s.qmCount q 21 1 else s) := by
  show execQmScrubRead q off .clean s = _
  rw [execQmScrubRead.eq_def, if_neg (by simp [hr]; omega)]
  rfl

theorem exec_qmScrubRead_uncorrectable (hquire : off < 0x800000) :
    exec (.qmScrubRead q off .uncorrectable) s = .next (((s.qmCount q 21 1).addPoison (.quire q) (off / 8 * 8) 8).logFh
      { kind := 0x0201, status := 0x3001, outcome := 2, mech := 9, resType := 2
        resIdx := q + bits (off / 8 * 8) 8 3 * 256, addr := off / 8 * 8, data := leBytes 8 (off / 8 * 8) }) := by
  have hspace : scrubSpace q off = (.quire q, off / 8 * 8) := if_pos hquire
  show execQmScrubRead q off .uncorrectable s = _
  rw [execQmScrubRead.eq_def, if_neg (by simp [hr]; omega), hspace]
  dsimp only
  rw [if_pos hquire, if_pos hquire]
  rfl

end

-- ---------------------------------------------------------------- march tests (R138, R144)

section
variable {s : State} {q : Nat} (hr : s.running = true)
include hr

/-- A START outside a placement pause starts the MARCH holder and the drain. -/
theorem exec_marchStart {v : Word} (hcold : s.dev.cold = false) (hp : s.paused = false) (hq : q < 16)
    (hstart : v.getLsbD 0 = true) (hmode : bits v.toNat 5 4 < 2) (hbusy : (s.quire q).march.busy = false)
    (hwait : (s.quire q).march.wait = false) :
    exec (.marchStart q v) s = .next (((((s.setReg (offMarch q) ((v.toNat &&& 0x70) + s.reg (offMarch q) % 2)).setReg
      (offMarch q) ((v.toNat &&& 0x70) + 1)).holder 0 true)).updQuire q (fun x => { x with
        drain := true
        march := { x.march with wait := true, mode := bits v.toNat 5 4, target := bits v.toNat 6 6 } })) := by
  have hbit : bitAt v.toNat 0 = true := (bitAt_toNat v 0).trans hstart
  refine congrArg ok ((if_neg ?_).trans ((if_neg ?_).trans (if_neg ?_)))
  · simp [hr, hcold]; omega
  · simp [hbit, hbusy, hwait]; omega
  · rw [show (State.setReg s _ _).paused = s.paused from rfl, hp]; decide

theorem exec_marchRun_engines (hwait : (s.quire q).march.wait = true) (hbusy : s.quireBusy q = false)
    (htarget : (s.quire q).march.target = 1) :
    exec (.marchRun q [] false) s = .next ((s.marchZero q 1).updQuire q (fun x => { x with
      march := { x.march with wait := false, busy := true, run := some (0, 0, 0, false) } })) := by
  show execMarchRun q [] false s = _
  rw [execMarchRun, if_neg (by simp [hr, hwait, hbusy])]
  dsimp only
  rw [htarget, if_pos (show 1 = 1 ∨ (s.quire q).march.mode = 1 from .inl rfl)]
  simp only [if_neg Nat.one_ne_zero]
  rfl

/-- The quire back in dispatch with its march register idle. -/
def State.marchLeft (s : State) (q : Nat) : State :=
  (s.updQuire q (fun x => { x with drain := false })).setReg (offMarch q)
    ((s.updQuire q (fun x => { x with drain := false })).reg (offMarch q) &&& 0x70)

omit hr in
theorem State.marchResult_clean (s : State) (q : Nat) : s.marchResult q { found := 0 } false =
    s.updQuire q (fun x => { x with march := { x.march with busy := false, run := none, result := 1, fails := 0 } }) := rfl

theorem exec_marchComplete_clean (hrun : (s.quire q).march.run = some (0, 0, 0, false)) :
    exec (.marchComplete q) s = .next
      (if (((s.marchLeft q).marchResult q { found := 0 } false).quires.any (fun p => p.2.march.wait || p.2.march.busy)) = true
        then (s.marchLeft q).marchResult q { found := 0 } false
        else ((s.marchLeft q).marchResult q { found := 0 } false).holder 0 false) := by
  show execMarchComplete q s = _
  rw [execMarchComplete, hrun]
  exact if_neg (by simp [hr])

omit hr in
/-- A test that found nothing leaves RESULT 1 and its quire in dispatch. -/
theorem State.quire_marchResult_clean (s : State) (q : Nat) (c : Prop) [Decidable c] :
    (if c then (s.marchLeft q).marchResult q { found := 0 } false
      else ((s.marchLeft q).marchResult q { found := 0 } false).holder 0 false).quire q =
      { s.quire q with
        drain := false
        march := { (s.quire q).march with busy := false, run := none, result := 1, fails := 0 } } := by
  have hleft : (s.marchLeft q).quire q = { s.quire q with drain := false } := State.quire_updQuire_same s q (fun x => { x with drain := false })
  split
  · rw [State.marchResult_clean, State.quire_updQuire_same, hleft]
  · rw [State.quire_holder, State.marchResult_clean, State.quire_updQuire_same, hleft]

end

-- ---------------------------------------------------------------- Thumb banks (R164–R170)

section
variable {s : State} {q bank : Nat} {b : Bank} (hr : s.running = true) (hbank : bank < 64)
  (hb : Tab.find s.banks (q * 64 + bank) = some b)
include hr hbank

theorem exec_thumbBankRetention (hidle : s.regField offThxIdle 15 0 ≠ 0) (hheld : s.heldAwake q bank = false) :
    exec (.thumbBankRetention q bank) s =
      .next { s with banks := Tab.upd s.banks (q * 64 + bank) (fun b => { b with retained := true }) } :=
  if_neg (by simp [hr, hheld, hidle]; omega)

theorem exec_thumbBankWakeComplete (hbuild : ∀ p ∈ s.runs, p.2.sigs.any (·.building) = false) :
    exec (.thumbBankWakeComplete q bank) s = .next { s with banks := Tab.upd s.banks (q * 64 + bank) (fun b =>
      if b.waking then { b with retained := false, waking := false } else b) } := by
  have hnone : s.runs.filter (fun p => p.2.sigs.any (·.building)) = [] :=
    List.filter_eq_nil_iff.mpr fun p hp => by rw [hbuild p hp]; decide
  refine (if_neg (by simp [hr]; omega)).trans ?_
  dsimp only
  rw [hnone]
  rfl

end

/-- Settles O53: each row by its branch. -/
theorem quireAndThumbRows : Obligations.QuireAndThumbRows := by
  refine ⟨fun s i k v hs hi hk hopen => ⟨exec_qmRsetWrite_stores v hs hi hk hopen, exec_qmRsetWrite_reversed v hs hi hk hopen⟩,
    fun s q off hr hq hoff => ⟨exec_qmScrubRead_clean hr hq hoff, exec_qmScrubRead_uncorrectable hr hq hoff⟩,
    fun s q v hr hcold hp hq hstart hmode hbusy hwait =>
      ⟨_, exec_marchStart hr hcold hp hq hstart hmode hbusy hwait, ?drain, ?wait, ?mode, ?maint, fun j hj => ?frame⟩,
    fun s q hr => ⟨fun hwait hbusy htarget => ⟨_, exec_marchRun_engines hr hwait hbusy htarget, ?busy, ?run⟩,
      fun hrun => ⟨_, exec_marchComplete_clean hr hrun, ?done⟩⟩,
    fun s q bank b hr hbank hb => ⟨fun hidle hheld => ⟨_, exec_thumbBankRetention hr hbank hidle hheld, ?retained, fun j hj => ?others⟩,
      fun hwaking hbuild => ⟨_, exec_thumbBankWakeComplete hr hbank hbuild, ?awake⟩⟩,
    fun s q hr hq => ⟨_, if_neg (by simp [hr]; omega), rfl⟩⟩
  case drain => rw [State.quire_updQuire_same]
  case wait => rw [State.quire_updQuire_same]
  case mode => rw [State.quire_updQuire_same]
  case maint => exact (State.holder_maint _ 0 true).2.1
  case frame =>
    rw [State.quire_updQuire_ne _ _ hj, State.quire_holder]
    rfl
  case busy => rw [State.quire_updQuire_same]
  case run => rw [State.quire_updQuire_same]
  case done =>
    rw [State.quire_marchResult_clean]
    exact ⟨rfl, rfl, rfl, rfl⟩
  case retained =>
    dsimp only
    rw [Tab.find_upd_some _ _ hb]
  case others =>
    dsimp only
    rw [Tab.find_upd_ne _ _ hj]
  case awake =>
    dsimp only
    rw [Tab.find_upd_some _ _ hb, if_pos hwaking]

end Sys2Proof.Machine
end

section
/-! SUPPORT. The memory controllers and the expander links (R253–R275). -/
namespace Sys2Proof.Machine

theorem State.chan_updChan_same (s : State) (c : Nat) (f : Chan → Chan) : (s.updChan c f).chan c = f (s.chan c) :=
  Tab.get_set_same _ _ _ _

theorem Posted.chans {s t : State} (h : Posted s t) : t.chans = s.chans := by rw [h.1]

theorem State.setDev_chans (s : State) (f : Dev → Dev) : (s.setDev f).chans = s.chans := by
  unfold State.setDev
  dsimp only
  split
  · rfl
  · exact (State.raiseAll_posted _ _ _ _ _).chans

/-- A refresh closes the bank's row and counts; the last of each 8,192 clears the bank's activate table (R256, R257). -/
theorem Chan.refresh_spec (ch : Chan) (bank : Nat) :
    Tab.find (ch.refresh bank 1).openRow bank = none ∧
      Tab.get (ch.refresh bank 1).refreshed bank 0 = Tab.get ch.refreshed bank 0 + 1 ∧
      (Tab.get ch.refreshed bank 0 / 8192 < (Tab.get ch.refreshed bank 0 + 1) / 8192 →
        Tab.find (ch.refresh bank 1).acts bank = none) := by
  refine ⟨Tab.find_del_same _ _, Tab.get_set_same _ _ _ _, fun h => ?_⟩
  rw [show (ch.refresh bank 1).acts = Tab.del ch.acts bank from if_pos h]
  exact Tab.find_del_same _ _

section
variable {s : State} {c : Nat} (hr : s.running = true) (hc : c < 256)
include hr hc

theorem exec_hbmRefresh {bank : Nat} (hbank : bank < 128) (hstate : (s.chan c).state = 1 ∨ (s.chan c).state = 2) :
    exec (.hbmRefresh c bank) s = if Tab.get (s.chan c).refreshed bank 0 < s.owed (s.chan c) + 8
      then .next (s.updChan c (fun ch => ch.refresh bank 1)) else .next s := by
  show execHbmRefresh c bank s = _
  rw [execHbmRefresh, if_neg (by simp [hr]; omega)]
  by_cases hdue : Tab.get (s.chan c).refreshed bank 0 < s.owed (s.chan c) + 8
  · exact (if_pos ⟨hstate, hdue⟩).trans (if_pos hdue).symm
  · exact (if_neg fun h => hdue h.2).trans (if_neg hdue).symm

/-- A patrol read that meets no upset opens its row and moves the pass on. -/
theorem exec_hbmScrubRead_clean (hstate : (s.chan c).state = 1) (hmore : (s.chan c).scrub + 1 ≠ 33554432)
    (hclean : Tab.find s.upsets (Space.hbm.base + scrubAddr s.hbm.order c (s.chan c).scrub) = none) :
    exec (.hbmScrubRead c .clean) s = .next ((s.touchRow (scrubAddr s.hbm.order c (s.chan c).scrub)).retireFrames.updChan c
      (fun ch => { ch with scrub := (s.chan c).scrub + 1 })) := by
  have hrows := s.touchRow_opensRows (scrubAddr s.hbm.order c (s.chan c).scrub)
  have hupsets : (s.touchRow (scrubAddr s.hbm.order c (s.chan c).scrub)).upsets = s.upsets := by rw [hrows]
  have hlast : ((s.chan c).scrub + 1 == 33554432) = false := by simpa using hmore
  show execHbmScrubRead c .clean s = _
  rw [execHbmScrubRead.eq_def, if_neg (by simp [hr, hstate]; omega)]
  dsimp only
  rw [hupsets, hclean, hlast]
  rfl

theorem exec_hbmRecalibration (hstate : (s.chan c).state = 1) (found : Bool) :
    exec (.hbmRecalibration c found) s = .next (if found then s else s.startMapOut c) :=
  if_neg (by simp [hr, hstate]; omega)

theorem exec_channelMigration (hstate : (s.chan c).state = 2) (hleaves : (Tab.get s.trims c {}).leaves = []) :
    exec (.channelMigration c) s = .next (s.migrateChannel c) :=
  if_pos (by rw [hr, hstate, hleaves]; simpa using hc)

/-- A channel without a used frame becomes MAPPED_OUT. -/
theorem exec_channelMapOutComplete (hstate : (s.chan c).state = 2) (hunused : s.usedIn c = []) :
    ∃ t, exec (.channelMapOutComplete c) s = .next t ∧ (t.chan c).state = 3 := by
  have hexec : exec (.channelMapOutComplete c) s = execChannelMapOutComplete c s := rfl
  rw [execChannelMapOutComplete, if_neg (by rw [hr, hstate, hunused]; simpa using hc)] at hexec
  extract_lets s1 s2 moved s3 col s4 s5 at hexec
  have hout : (s4.chan c).state = 3 := congrArg Chan.state (State.chan_updChan_same s2 c (fun ch => { ch with state := 3 }))
  clear_value s4
  have hlog : s5.chans = s4.chans := (State.logFh_posted s4 _).chans
  clear_value s5
  refine ⟨_, hexec, ?_⟩
  rw [← hout, State.chan, State.chan, ← hlog]
  split
  · rfl
  · rw [State.holder, State.setDev_chans]

end

theorem State.startMapOut_maint {s : State} {c : Nat} (hstate : (s.chan c).state = 1) :
    (s.startMapOut c).dev.maint.contains 1 = true := by
  rw [State.startMapOut, if_pos hstate]
  exact (State.holder_maint _ 1 true).2.1

-- ---------------------------------------------------------------- expander links (R270–R275)

section
variable {s : State} {p : Nat} (hr : s.running = true) (hp : p < 2)
include hr hp

theorem exec_cxlLinkDown_up (hstate : (s.port p).state = 2) :
    exec (.cxlLinkDown p) s =
      .next (({ s with ports := Tab.set s.ports p { s.port p with state := 1, width := 0, speed := 0 } } : State).count
        (cxlReg p 0x20) 1) :=
  (if_pos (by simp [hr, hp])).trans (congrArg ok (if_pos hstate))

theorem exec_cxlRetrainTimeout (hstate : (s.port p).state = 1) : exec (.cxlRetrainTimeout p) s = .next (s.mapOutPort p) :=
  if_pos (by simp [hr, hp, hstate])

theorem exec_cxlLinkRetrainComplete (hstate : (s.port p).state = 1) :
    exec (.cxlLinkRetrainComplete p) s = .next
      ({ s with ports := Tab.set s.ports p { s.port p with state := 2, width := 4, speed := 2 } } : State).releaseHolds :=
  if_pos (by simp [hr, hp, hstate])

end

/-- Settles O54: each row by its branch. -/
theorem memoryControllerRows : Obligations.MemoryControllerRows := by
  intro s hr
  refine ⟨fun c bank hc hbank hstate => ⟨fun hdue => ?refresh, fun hahead => ?ahead⟩,
    fun c hc hstate => ⟨fun n a hn ha hmore hclean => ?scrub, exec_hbmRecalibration hr hc hstate true,
      exec_hbmRecalibration hr hc hstate false, State.startMapOut_maint hstate⟩,
    fun c hc hstate => ⟨exec_channelMigration hr hc hstate, exec_channelMapOutComplete hr hc hstate⟩,
    fun p hp => ⟨fun hstate => ⟨_, exec_cxlLinkDown_up hr hp hstate, ?down, ?width, State.reg_setReg_same _ _ _⟩,
      fun hstate => ⟨exec_cxlRetrainTimeout hr hp hstate, _, rfl, exec_cxlLinkRetrainComplete hr hp hstate⟩⟩⟩
  case refresh =>
    obtain ⟨hrow, hcount, hacts⟩ := Chan.refresh_spec (s.chan c) bank
    refine ⟨_, (exec_hbmRefresh hr hc hbank hstate).trans (if_pos hdue), ?_⟩
    rw [State.chan_updChan_same]
    exact ⟨hrow, hcount, hacts, rfl⟩
  case ahead => exact (exec_hbmRefresh hr hc hbank hstate).trans (if_neg (Nat.not_lt.mpr hahead))
  case scrub =>
    subst hn ha
    exact exec_hbmScrubRead_clean hr hc hstate hmore hclean
  case down => exact congrArg CxlPort.state (Tab.get_set_same s.ports p { s.port p with state := 1, width := 0, speed := 0 } {})
  case width => exact congrArg CxlPort.width (Tab.get_set_same s.ports p { s.port p with state := 1, width := 0, speed := 0 } {})

end Sys2Proof.Machine
end

section
/-! SUPPORT. The Lookup Aperture, the HBM window and the mailbox (R296–R321, R362–R369). -/
namespace Sys2Proof.Machine

-- ---------------------------------------------------------------- bits of numbers

theorem bitAt_eq_testBit (v k : Nat) : bitAt v k = v.testBit k := by
  rw [Nat.testBit_eq_decide_div_mod_eq, bitAt, Nat.shiftRight_eq_div_pow]
  rfl

theorem bitAt_setBit (v k j : Nat) : bitAt (setBit v k) j = (bitAt v j || decide (k = j)) := by
  rw [bitAt_eq_testBit, bitAt_eq_testBit, setBit, Nat.testBit_or, Nat.one_shiftLeft, Nat.testBit_two_pow]

/-- A bit that is set is cleared by taking its weight off. -/
theorem bitAt_sub_two_pow {v k : Nat} (h : bitAt v k = true) : 2 ^ k ≤ v ∧ bitAt (v - 2 ^ k) k = false := by
  simp only [bitAt, Nat.shiftRight_eq_div_pow, beq_iff_eq, beq_eq_false_iff_ne] at h ⊢
  have hle : 2 ^ k ≤ v := by
    refine Nat.le_of_not_lt fun hlt => ?_
    rw [Nat.div_eq_of_lt hlt] at h
    contradiction
  have hdiv : v / 2 ^ k = (v - 2 ^ k) / 2 ^ k + 1 := by
    conv => lhs; rw [← Nat.sub_add_cancel hle]
    exact Nat.add_div_right _ (Nat.two_pow_pos k)
  exact ⟨hle, by omega⟩

theorem bitAt_clrBit_same (v k : Nat) : bitAt (clrBit v k) k = false := by
  rw [clrBit]
  split
  · rename_i h
    exact (bitAt_sub_two_pow h).2
  · rename_i h
    exact eq_false_of_ne_true h

-- ---------------------------------------------------------------- the mailbox's page

/-- The page after a request timed out. -/
def Mbx.timedOut (m : Mbx) (up : Bool) : Mbx :=
  { m with status := setBit (clrBit m.status (mbxWait up)) (mbxTimedOut up) }.setTimed up (some (m.seqOf up))

theorem Mbx.timedOut_status (m : Mbx) (up : Bool) :
    bitAt (m.timedOut up).status (mbxWait up) = false ∧ bitAt (m.timedOut up).status (mbxTimedOut up) = true := by
  have hstatus : (m.timedOut up).status = setBit (clrBit m.status (mbxWait up)) (mbxTimedOut up) := by cases up <;> rfl
  rw [hstatus, bitAt_setBit, bitAt_setBit, bitAt_clrBit_same]
  cases up <;> exact ⟨rfl, by simp⟩

theorem State.inst?_signalManager (s : State) (i j : Nat) : (s.signalManager i).inst? j = s.inst? j := by
  rw [State.signalManager, State.inst?, State.signal_insts]
  rfl

theorem State.inst?_signalTenant (s : State) (i j : Nat) : (s.signalTenant i).inst? j = s.inst? j := by
  rw [State.signalTenant]
  split
  · rw [State.inst?, State.signal_insts]
    rfl
  · rfl

-- ---------------------------------------------------------------- aperture reads (R299–R308)

section
variable {s : State} (hs : s.serving = true)
include hs

theorem State.running_of_serving : s.powerGood = true ∧ s.stopped = false ∧ s.running = true := by
  simp only [State.serving, Bool.and_eq_true, Bool.not_eq_true'] at hs
  obtain ⟨⟨⟨hp, hstop⟩, _⟩, _⟩ := hs
  exact ⟨hp, hstop, by rw [State.running, hp, hstop]; rfl⟩

section
variable {w : Nat} (hw : w < 16) (off : Nat)
include hw

theorem exec_apertureRead_closed (hen : bitAt (s.reg (offWinCfg w)) 63 = false) :
    exec (.apertureRead w off) s = .next { s with outbox := s.outbox ++ [.line w (flagLine 8 (off / 64 % 8))] } := by
  obtain ⟨hp, hstop, _⟩ := State.running_of_serving hs
  refine (if_neg ?_).trans (if_pos ?_)
  · simp [hp, hstop]; omega
  · simp [hen]

/-- A read of an enabled window starts a search where its quire serves, its banks are awake and room is left. -/
theorem exec_apertureRead_held (hen : bitAt (s.reg (offWinCfg w)) 63 = true)
    (hin : s.col.mapQuires.contains (bits (s.reg (offWinCfg w)) 35 32) = false)
    (hroom : (s.apr.reads.filter (fun p => !p.2.expired)).length < 512)
    (hawake : s.thumbWake (bits (s.reg (offWinCfg w)) 35 32) (s.reg (offWinMask w)) = none) :
    exec (.apertureRead w off) s = .next { s with apr := { s.apr with
      no := s.apr.no + 1
      reads := Tab.set s.apr.reads s.apr.no
        { win := w, array := bits (s.reg (offWinCfg w)) 35 32, mask := s.reg (offWinMask w), page := off / 64 % 8
          waked := false, key := BitVec.ofNat 128 (apertureKey (s.reg (offWinKeyHi w)) (s.reg (offWinKeyLo w))
            (bits (s.reg (offWinCfg w)) 5 0) off) } } } := by
  obtain ⟨hp, hstop, _⟩ := State.running_of_serving hs
  show execApertureRead w off s = _
  rw [execApertureRead]
  refine (if_neg ?_).trans ((if_neg ?_).trans ((if_neg (Nat.not_le.mpr hroom)).trans ?_))
  · simp [hp, hstop]; omega
  · rw [hs, hen, hin]; decide
  · simp only [hawake]
    rfl

/-- A write is counted, and may be recorded; no other register changes. -/
theorem exec_apertureWrite : ∃ t, exec (.apertureWrite w off) s = .next t ∧
    ∀ o, t.reg o = (s.count (winReg_ w 0x38) 1).reg o := by
  have hexec : exec (.apertureWrite w off) s = execApertureWrite w off s := rfl
  rw [execApertureWrite, if_neg (by simp [hs]; omega)] at hexec
  extract_lets s1 now apr s2 at hexec
  refine ⟨_, hexec.trans (apply_ite Host.Outcome.next _ _ _).symm, fun o => ?_⟩
  split
  · rfl
  · exact (State.logErr_posted _ _ _ _ _ _ _ _ _ _ _).reg o

end

-- ---------------------------------------------------------------- the window's configuration (R298)

omit hs in
/-- Clearing ENABLE keeps the instance and sets the state 1. -/
theorem winCfg_disabled {old : Nat} (h : bitAt old 63 = true) :
    bitAt ((((old - 2 ^ 63) &&& 0xC0007F0F0000003F) + 1 * 2 ^ 60) % 2 ^ 64) 63 = false ∧
      bits ((((old - 2 ^ 63) &&& 0xC0007F0F0000003F) + 1 * 2 ^ 60) % 2 ^ 64) 46 40 = bits old 46 40 := by
  obtain ⟨hle, hclear⟩ := bitAt_sub_two_pow h
  have htop : ((old - 2 ^ 63) &&& 0xC0007F0F0000003F) / 2 ^ 63 = 0 := by
    rw [← Nat.shiftRight_eq_div_pow, Nat.shiftRight_and_distrib]
    refine (Nat.and_one_is_mod _).trans ?_
    simpa [bitAt, Nat.mod_two_ne_one] using hclear
  have hstate : ((old - 2 ^ 63) &&& 0xC0007F0F0000003F) / 2 ^ 60 % 2 ^ 2 = 0 := by
    rw [← Nat.shiftRight_eq_div_pow, Nat.shiftRight_and_distrib, Nat.and_mod_two_pow]
    exact Nat.and_zero _
  have hinst : ((old - 2 ^ 63) &&& 0xC0007F0F0000003F) / 2 ^ 40 % 2 ^ 7 = (old - 2 ^ 63) / 2 ^ 40 % 2 ^ 7 := by
    rw [← Nat.shiftRight_eq_div_pow, ← Nat.shiftRight_eq_div_pow, Nat.shiftRight_and_distrib, Nat.and_mod_two_pow]
    refine (Nat.and_two_pow_sub_one_eq_mod _ 7).trans (Nat.mod_mod _ _)
  simp only [bitAt, bits, Nat.shiftRight_eq_div_pow, beq_eq_false_iff_ne]
  generalize (old - 2 ^ 63) &&& 0xC0007F0F0000003F = m at *
  omega

theorem exec_apertureWindowConfigWrite_clears {w : Nat} (hw : w < 16) {v : Word}
    (hen : bitAt (s.reg (offWinCfg w)) 63 = true) (hv : v.getLsbD 63 = false) :
    exec (.apertureWindowConfigWrite w v) s = .next (s.setReg (offWinCfg w)
      (((s.reg (offWinCfg w) - 2 ^ 63) &&& 0xC0007F0F0000003F) + 1 * 2 ^ 60)) := by
  have hclear : bitAt v.toNat 63 = false := (bitAt_toNat v 63).trans hv
  refine (if_pos (by simp [hs, hw])).trans (congrArg ok ((if_pos hen).trans (if_neg ?_)))
  rw [hclear]
  decide

-- ---------------------------------------------------------------- answers and deadlines (R303–R306)

section
variable {n : Nat} {r : ApRead} (hr : Tab.find s.apr.reads n = some r) (hopen : r.expired = false)
include hr hopen

/-- The search of a held read has begun, and the read is held no more. -/
theorem exec_apertureAnswer (hawake : s.thumbWake r.array r.mask = none) (hturn : s.thumbTurn r.array .aperture = true)
    (faulty : Bool) : ∃ t line, exec (.apertureAnswer { read := n, faulty := faulty }) s = .next t ∧
      Tab.find t.apr.reads n = none ∧ t.outbox = s.outbox ++ [.line r.win line] ∧ t.thumb = s.thumb ∧
      (faulty = true ∨ s.col.mapQuires.contains r.array = true → line = flagLine 8 r.page) := by
  have hexec : exec (.apertureAnswer { read := n, faulty := faulty }) s = execApertureAnswer { read := n, faulty := faulty } s := rfl
  rw [execApertureAnswer] at hexec
  simp only [hr] at hexec
  rw [if_neg (by simp [hs])] at hexec
  simp only [hawake] at hexec
  rw [if_neg (by simp [hturn])] at hexec
  rw [if_neg (by simp [hopen])] at hexec
  generalize hs1 : ((s.thumbTook r.array .aperture).dropRead n).count (0x900020 + 0x1000 * r.array) 1 = s1 at hexec
  have hreads : Tab.find s1.apr.reads n = none := by rw [← hs1]; exact Tab.find_del_same _ _
  have hout : ∀ o, s1.outbox ++ [o] = s.outbox ++ [o] := fun o => by rw [← hs1]; rfl
  have hthumb : s1.thumb = s.thumb := by rw [← hs1]; rfl
  have hquires : s1.col.mapQuires = s.col.mapQuires := by rw [← hs1]; rfl
  rw [hquires] at hexec
  split at hexec
  · exact ⟨_, _, hexec, hreads, hout _, hthumb, fun _ => rfl⟩
  · rename_i hgood
    exact ⟨_, _, hexec, hreads, hout _, hthumb, fun h => absurd h hgood⟩

theorem exec_apertureDeadline : exec (.apertureDeadline n) s = .next (s.expire (.aperture n)) := by
  show execApertureDeadline n s = _
  rw [execApertureDeadline, hr]
  exact if_neg (by simp [hopen, hs])

theorem State.late_aperture : s.late (.aperture n) =
    (({ s with apr := { s.apr with reads := Tab.set s.apr.reads n { r with expired := true } } } : State).count
      (winReg_ r.win 0x28) 1).emit (.line r.win (flagLine 4 r.page)) := by
  rw [State.late, State.apertureLate, hr]
  exact if_neg (by simp [hopen, hs])

end

-- ---------------------------------------------------------------- the HBM window (R311, R312)

theorem exec_hbmWindowAccess_closed (off n : Nat) (h : bitAt (s.reg offHbmw) 63 = false) :
    exec (.hbmWindowAccess off n none) s = .next { s with outbox := s.outbox ++ [.hbmwErr] } := by
  obtain ⟨hp, hstop, _⟩ := State.running_of_serving hs
  show execHbmWindowAccess off n none s = _
  rw [execHbmWindowAccess.eq_def, if_neg (by simp [hp, hstop])]
  dsimp only
  rw [h]
  exact if_pos (by simp)

section
variable {off : Nat} {h : Hdm} {r : Range} (hen : bitAt (s.reg offHbmw) 63 = true) (hdec : Tab.find s.hdm 16 = some h)
  (hcom : h.committed = true)
  (hrange : s.range? (bits (s.reg offHbmw) 62 56) (bits (s.reg offHbmw) 47 21 * mib2 + off) = some r)
  (hdirect : r.direct = false) (hhome : r.home = 0)
include hen hdec hcom hrange hdirect hhome

theorem exec_hbmWindowAccess_read {n : Nat} {b : Bytes} {u : State} (hsize : off + n ≤ h.size)
    (hread : s.devRead .window (bits (s.reg offHbmw) 62 56) (bits (s.reg offHbmw) 47 21 * mib2 + off) n = .ok b u) :
    exec (.hbmWindowAccess off n none) s = .next (u.emit (.hbmw b)) := by
  obtain ⟨hp, hstop, _⟩ := State.running_of_serving hs
  show execHbmWindowAccess off n none s = _
  rw [execHbmWindowAccess.eq_def, if_neg (by simp [hp, hstop])]
  dsimp only
  rw [hdec, hrange]
  refine (if_neg (by simp [hs, hen, hcom, hsize, hdirect, hhome])).trans ?_
  rw [hread]
  rfl

theorem exec_hbmWindowAccess_write (n : Nat) {b : Bytes} {u : State} (hsize : off + b.length ≤ h.size)
    (hwrite : s.devWrite .window (bits (s.reg offHbmw) 62 56) (bits (s.reg offHbmw) 47 21 * mib2 + off) b = .ok () u) :
    exec (.hbmWindowAccess off n (some b)) s = .next (u.forget .window) := by
  obtain ⟨hp, hstop, _⟩ := State.running_of_serving hs
  show execHbmWindowAccess off n (some b) s = _
  rw [execHbmWindowAccess.eq_def, if_neg (by simp [hp, hstop])]
  dsimp only
  rw [hdec, hrange]
  refine (if_neg (by simp [hs, hen, hcom, hsize, hdirect, hhome])).trans ?_
  rw [hwrite]
  rfl

end

-- ---------------------------------------------------------------- the mailbox (R362–R369)

section
variable {i : Nat} {x : Inst} (hi : i ≠ 0) (hx : s.inst? i = some x)
include hx

omit hs in
/-- A request that waits past its time is marked timed out and waits no more. -/
theorem State.late_mailbox (hr : s.running = true) {up : Bool} (hwait : bitAt x.mbx.status (mbxWait up) = true) :
    ∃ y, (s.late (.mailbox i up)).inst? i = some y ∧ bitAt y.mbx.status (mbxWait up) = false ∧
      bitAt y.mbx.status (mbxTimedOut up) = true := by
  have hlate : s.late (.mailbox i up) = if up then (s.updMbx i (·.timedOut up)).signalTenant i
      else (s.updMbx i (·.timedOut up)).signalManager i := by
    rw [State.late, State.mailboxLate, hx]
    exact if_neg (by simp [hr, hwait])
  have hinst : (s.late (.mailbox i up)).inst? i = some { x with mbx := x.mbx.timedOut up } := by
    have hupd : (s.updMbx i (·.timedOut up)).inst? i = some { x with mbx := x.mbx.timedOut up } := by
      rw [State.updMbx, State.inst?_updInst, if_pos rfl, hx]
      rfl
    rw [hlate]
    cases up
    · exact (State.inst?_signalManager _ i i).trans hupd
    · exact (State.inst?_signalTenant _ i i).trans hupd
  exact ⟨_, hinst, x.mbx.timedOut_status up⟩

theorem exec_mailboxTimeout {up : Bool} (hwait : bitAt x.mbx.status (mbxWait up) = true) :
    exec (.mailboxTimeout i up) s = .next (s.expire (.mailbox i up)) := by
  obtain ⟨_, _, hr⟩ := State.running_of_serving hs
  show execMailboxTimeout i up s = _
  rw [execMailboxTimeout, hx]
  exact if_neg (by simp [hr, hwait])

include hi

/-- A doorbell that the page's state allows signals the other side, and one that it refuses does not. -/
theorem State.mbxDoorbell_spec (up : Bool) (v : Nat) :
    s.mbxDoorbell i up v = if x.mbx.refuses up v then s.updMbx i (fun m => m.ring up v)
      else if up then (s.updMbx i (fun m => m.ring up v)).signalManager i
      else (s.updMbx i (fun m => m.ring up v)).signalTenant i := by
  rw [State.mbxDoorbell, hx]
  refine (if_neg (by simp [hs, hi])).trans ?_
  cases x.mbx.refuses up v <;> rfl

end

end

/-- Settles O55: each row by its branch. -/
theorem apertureAndMailboxRows : Obligations.ApertureAndMailboxRows := by
  intro s hs
  obtain ⟨_, _, hrun⟩ := State.running_of_serving hs
  refine ⟨fun w off hw => ⟨exec_apertureRead_held hs hw off, exec_apertureRead_closed hs hw off, ?write, rfl,
      fun v hen hv => ⟨_, exec_apertureWindowConfigWrite_clears hs hw hen hv, ?cleared, ?bound,
        fun o ho => s.reg_setReg_ne _ _ _ ho⟩⟩,
    fun n r hr hopen => ⟨exec_apertureAnswer hs hr hopen, exec_apertureDeadline hs hr hopen, _, rfl, ?late, ?lateLine⟩,
    fun off n => exec_hbmWindowAccess_closed hs off n, fun off h r hen hdec hcom hrange hdirect hhome =>
      ⟨fun n b u => exec_hbmWindowAccess_read hs hen hdec hcom hrange hdirect hhome,
        fun b n u => exec_hbmWindowAccess_write hs hen hdec hcom hrange hdirect hhome n⟩,
    fun i x v hi hx => ⟨fun h => ?up, fun h => ?down, fun h => ?refused,
      fun up hwait => ⟨exec_mailboxTimeout hs hx hwait, State.late_mailbox hx hrun hwait⟩⟩⟩
  case write =>
    obtain ⟨t, hexec, hreg⟩ := exec_apertureWrite hs hw off
    refine ⟨t, hexec, (hreg _).trans (State.reg_setReg_same _ _ _), fun o ho => (hreg o).trans (s.reg_setReg_ne _ _ _ ho)⟩
  case cleared => rw [State.reg_setReg_same]; exact (winCfg_disabled hen).1
  case bound => rw [State.reg_setReg_same]; exact (winCfg_disabled hen).2
  case late => rw [State.late_aperture hs hr hopen]; exact Tab.find_set_same _ _ _
  case lateLine => rw [State.late_aperture hs hr hopen]; rfl
  case up => exact congrArg ok ((State.mbxDoorbell_spec hs hi hx true v.toNat).trans ((if_neg (by simp [h])).trans (if_pos rfl)))
  case down => exact congrArg ok ((State.mbxDoorbell_spec hs hi hx false v.toNat).trans ((if_neg (by simp [h])).trans (if_neg (by simp))))
  case refused => exact congrArg ok ((State.mbxDoorbell_spec hs hi hx true v.toNat).trans (if_pos h))

end Sys2Proof.Machine
end

section
/-! SUPPORT. The Slipcase's restarts and reserve, the policy and the fuse (R389–R400), and the host's side requests. -/
namespace Sys2Proof.Machine

theorem Posted.slc {s t : State} (h : Posted s t) : t.slc = s.slc := by rw [h.1]

theorem Posted.assocs {s t : State} (h : Posted s t) : t.assocs = s.assocs := by rw [h.1]

theorem Posted.act {s t : State} (h : Posted s t) : t.dev.act = s.dev.act := by rw [h.dev]

theorem Tab.has_set_same {α : Type} (t : Tab α) (k : Nat) (v : α) : Tab.has (Tab.set t k v) k = true := by
  induction t with
  | nil => simp [Tab.has, Tab.set]
  | cons p r ih =>
    obtain ⟨a, w⟩ := p
    rw [Tab.set]
    split
    · simp [Tab.has]
    · split
      · simp [Tab.has]
      · rw [Tab.has] at *
        simp only [List.any_cons, ih, Bool.or_true]

-- ---------------------------------------------------------------- restarts (R395)

/-- The Slipcase unavailable, with the restart counted and its sessions gone. -/
def State.slcDown (s : State) (third : Bool) : State :=
  { s with slc := { s.slc with
      state := 2, restarts := s.slc.restarts + 1, golden := s.slc.golden || third, sessions := 0 } }

theorem State.countEvent_keeps (s : State) (kind idx window limit : Nat) :
    (s.countEvent kind idx window limit).2.2.slc = s.slc ∧ (s.countEvent kind idx window limit).2.2.dev = s.dev := by
  unfold State.countEvent
  dsimp only
  split <;> exact ⟨rfl, rfl⟩

/-- A restart is counted, recorded and reported, and ends a live activation. -/
theorem State.slcRestart_eq {s : State} (hr : s.running = true) (hup : s.slcUp = true) (mech cause : Nat) :
    ∃ (u : State) (third : Bool) (a : FhArgs), u.slc = s.slc ∧ u.dev = s.dev ∧
      s.slcRestart mech cause = (((u.slcDown third).logFh a).raiseAll 7 0 0 0).dropActivation 0x5003 := by
  obtain ⟨hslc, hdev⟩ := s.countEvent_keeps 8 0 3600000000000 3
  exact ⟨_, (s.countEvent 8 0 3600000000000 3).2.1, _, hslc, hdev, if_neg (by simp [hr, hup])⟩

/-- Without a live activation a restart leaves the Slipcase unavailable, the restart counted and no session. -/
theorem State.slcRestart_spec {s : State} (hr : s.running = true) (hup : s.slcUp = true) (hact : s.dev.act = none) (mech cause : Nat) :
    (s.slcRestart mech cause).slc.state = 2 ∧ (s.slcRestart mech cause).slc.restarts = s.slc.restarts + 1 ∧
      (s.slcRestart mech cause).slc.sessions = 0 := by
  obtain ⟨u, third, a, hslc, hdev, heq⟩ := State.slcRestart_eq hr hup mech cause
  have hposted : Posted (u.slcDown third) (((u.slcDown third).logFh a).raiseAll 7 0 0 0) :=
    (State.logFh_posted _ a).trans (State.raiseAll_posted _ _ _ _ _)
  have hnone : (((u.slcDown third).logFh a).raiseAll 7 0 0 0).dev.act = none :=
    hposted.act.trans ((congrArg Dev.act hdev).trans hact)
  rw [heq, State.dropActivation, hnone]
  dsimp only
  rw [hposted.slc]
  exact ⟨rfl, congrArg (·.restarts + 1) hslc, rfl⟩

theorem State.drawXts_slc (s : State) (i : Nat) : (s.drawXts i).slc = s.slc := rfl

theorem State.endCreates_slc (s : State) : s.endCreates.slc = s.slc := by
  rw [State.endCreates]
  generalize s.cmds.filter _ = l
  induction l generalizing s with
  | nil => rfl
  | cons c l ih =>
    rw [List.foldl_cons, ih]
    exact (State.finish_posted _ _ _ _ _).slc

/-- The end of a restart brings the Slipcase back. -/
theorem exec_slipcaseRestartComplete {s : State} (hr : s.running = true) (hstate : s.slc.state = 2) :
    ∃ u, exec .slipcaseRestartComplete s = .next u ∧ (s.assocs = [] → u.slc.state = if s.slc.golden then 3 else 1) := by
  have hexec : exec .slipcaseRestartComplete s = execSlipcaseRestartComplete s := rfl
  rw [execSlipcaseRestartComplete, if_neg (by simp [hr, hstate])] at hexec
  extract_lets slc s1 s2 s3 at hexec
  refine ⟨_, hexec, fun hnone => ?_⟩
  have hposted : Posted s1 s2 := s1.raiseAll_posted _ _ _ _
  have hassocs : s2.assocs = [] := hposted.assocs.trans hnone
  have hfold : s3 = s2 := by
    dsimp only [s3]
    rw [hassocs]
    rfl
  rw [hfold, hassocs, State.endCreates_slc]
  exact congrArg Slc.state hposted.slc

-- ---------------------------------------------------------------- the policy and the fuse (R391, R392)

section
variable {s : State} (hr : s.running = true) (hup : s.slcUp = true)
include hr hup

/-- A request over DOE runs while the Slipcase serves. -/
theorem State.doe_eq (f : State → State) : s.doe f = f s := by
  have hdoe : s.doeUp = true := by
    simp only [State.slcUp, Bool.or_eq_true, beq_iff_eq] at hup
    simp only [State.doeUp, hr, Bool.true_and, bne_iff_ne]
    omega
  rw [State.doe, if_neg (by simp [hdoe]), if_neg (by simp [hup])]

theorem exec_setDomainPolicy_first {x : Session} (dom : Bytes) (hours : Nat) (owner : Bytes) (hx : s.secured x = true)
    (hnone : s.col.domain = none) :
    exec (.setDomainPolicy x dom hours owner) s = .next (({ s with col := { s.col with
      domain := some { domain := padTo dom 16, rekeyHours := hours, ownerHash := padTo owner 48 } } } : State).emit
        (spdmAnswer 0x7E [])) := by
  refine congrArg ok ((State.doe_eq hr hup _).trans (if_pos ?_))
  rw [hx, hnone]
  rfl

theorem exec_advanceFuseSvn_owner {x : Session} {svn : Nat} (hx : s.secured x = true) (ho : s.isOwner x = true)
    (hle : s.col.fuseSvn ≤ svn) (hactive : svn ≤ s.slc.activeSvn) (hmax : svn ≤ 64) :
    exec (.advanceFuseSvn x svn) s = .next (({ s with col := { s.col with fuseSvn := svn } } : State).emit (spdmAnswer 0x7E [])) := by
  refine congrArg ok ((State.doe_eq hr hup _).trans (if_pos ?_))
  simp [hx, ho, hle, hactive, hmax]

theorem exec_xtsReserveRefill_none (hall : ∀ p ∈ s.insts, Tab.has s.xts p.1 = true) :
    exec .xtsReserveRefill s = .next { s with slc := { s.slc with reserve := min 16 (s.slc.reserve + 1) } } := by
  have hnone : s.insts.find? (fun p => !Tab.has s.xts p.1) = none := by
    rw [List.find?_eq_none]
    intro p hp
    rw [hall p hp]
    decide
  refine (if_neg (by simp [hr, hup])).trans ?_
  rw [hnone]
  rfl

theorem exec_xtsReserveRefill_some {p : Nat × Inst} (hp : s.insts.find? (fun p => !Tab.has s.xts p.1) = some p) :
    exec .xtsReserveRefill s = .next (s.drawXts p.1).releaseHolds := by
  refine (if_neg (by simp [hr, hup])).trans ?_
  rw [hp]
  rfl

end

/-- The fuse never falls, and moves for the policy owner's secured session alone (R392). -/
theorem exec_advanceFuseSvn_le {s t : State} {x : Session} {svn : Nat} (h : exec (.advanceFuseSvn x svn) s = .next t) :
    s.col.fuseSvn ≤ t.col.fuseSvn ∧ (t.col.fuseSvn ≠ s.col.fuseSvn →
      s.secured x = true ∧ s.isOwner x = true ∧ t.col.fuseSvn ≤ s.slc.activeSvn) := by
  have hstay : ∀ u : State, u.col.fuseSvn = s.col.fuseSvn → s.col.fuseSvn ≤ u.col.fuseSvn ∧ (u.col.fuseSvn ≠ s.col.fuseSvn →
      s.secured x = true ∧ s.isOwner x = true ∧ u.col.fuseSvn ≤ s.slc.activeSvn) :=
    fun u hu => ⟨Nat.le_of_eq hu.symm, fun hne => absurd hu hne⟩
  obtain rfl := Host.Outcome.next.inj h
  rw [State.doe]
  split
  · exact hstay s rfl
  · split
    · exact hstay _ rfl
    · split
      · rename_i hcond
        simp only [Bool.and_eq_true, decide_eq_true_eq] at hcond
        obtain ⟨⟨⟨⟨hx, ho⟩, hle⟩, hactive⟩, _⟩ := hcond
        exact ⟨hle, fun _ => ⟨hx, ho, hactive⟩⟩
      · exact hstay _ rfl

-- ---------------------------------------------------------------- the host's side (R316, R503)

section
variable {s : State} (hr : s.running = true)
include hr

theorem exec_hdmDecoderCommit {k : Nat} (b n : Nat) (hk : k < 20) :
    exec (.hdmDecoderCommit k b n) s = .next { s with hdm := Tab.set s.hdm k { base := b, size := n, committed := true } } :=
  if_pos (by rw [show (s.powerGood && !s.stopped) = true from hr]; simpa using hk)

theorem exec_atsInvalidation (i a n : Nat) :
    exec (.atsInvalidation i a n) s = .next { s with outbox := s.outbox ++ [.atsDone i a n] } := if_pos hr

/-- A message is answered, and a read of the held event releases ALERT_N unless the pin is held secure. -/
theorem exec_smbusMctpMessage (r : Bool) (hcold : 2 ≤ s.dev.coldStep ∨ s.dev.cold = false) :
    ∃ t o, exec (.smbusMctpMessage r) s = .next t ∧ t.outbox = s.outbox ++ [.mctp o] ∧
      t.pins.alertN = ((r && !s.securePin 1) || s.pins.alertN) ∧ t.regs = s.regs := by
  have hexec : exec (.smbusMctpMessage r) s = execSmbusMctpMessage r s := rfl
  have hserves : ¬ (!s.running || (s.dev.cold && decide (s.dev.coldStep < 2))) = true := by
    rcases hcold with h | h
    · simp [hr]; omega
    · simp [hr, h]
  rw [execSmbusMctpMessage, if_neg hserves] at hexec
  cases hread : r && !s.securePin 1 with
  | true =>
    rw [hread] at hexec
    exact ⟨_, _, hexec, rfl, rfl, rfl⟩
  | false =>
    rw [hread] at hexec
    exact ⟨_, _, hexec, rfl, rfl, rfl⟩

end

/-- Settles O56: each row by its branch. -/
theorem slipcaseLifeRows : Obligations.SlipcaseLifeRows := by
  refine ⟨fun s hr hup hact => ⟨⟨_, rfl, State.slcRestart_spec hr hup hact 0 0⟩, ⟨_, rfl, State.slcRestart_spec hr hup hact 7 1⟩,
      fun x dom hours owner hx hnone => ⟨_, exec_setDomainPolicy_first hr hup dom hours owner hx hnone, rfl⟩,
      fun x svn hx ho hle hactive hmax => ⟨_, exec_advanceFuseSvn_owner hr hup hx ho hle hactive hmax, rfl⟩,
      fun hall => ⟨_, exec_xtsReserveRefill_none hr hup hall, rfl, rfl⟩,
      fun p hp => ⟨_, exec_xtsReserveRefill_some hr hup hp, Tab.has_set_same _ _ _, rfl⟩⟩,
    fun s t x svn h => exec_advanceFuseSvn_le h, fun s hr hstate => exec_slipcaseRestartComplete hr hstate,
    fun s hr => ⟨fun k b n hk => exec_hdmDecoderCommit hr b n hk, exec_atsInvalidation hr, exec_smbusMctpMessage hr⟩⟩

end Sys2Proof.Machine
end

section
/-! SUPPORT. Association commands and received frames (R276–R295). -/
namespace Sys2Proof.Machine

-- ---------------------------------------------------------------- Association commands

section
variable {s : State} {i sq cid : Nat} {c : Cmd}

theorem exec_associationBind_ok (hc : s.takeAssocCmd i sq cid 1 = some c) (hop : c.fld 0x18 1 = 1) (hbox : c.fld 0x1A 2 < 4096)
    (hfree : Tab.has s.inboxes (boxKey i (c.fld 0x1A 2)) = false)
    (hregion : s.boxRegionOk i (c.fld 0x28 8) (c.fld 0x30 8) = true) :
    exec (.associationBind i sq cid) s = .next (({ s with
      inboxes := Tab.set s.inboxes (boxKey i (c.fld 0x1A 2))
        { inst := i, base := c.fld 0x28 8, len := c.fld 0x30 8 } } : State).finish c.no 0 0 0) := by
  show execAssociationBind i sq cid s = _
  rw [execAssociationBind, hc]
  exact if_pos ⟨hop, hbox, by rw [hfree]; rfl, hregion⟩

theorem exec_associationUnbind_ok (hc : s.takeAssocCmd i sq cid 2 = some c) (hbox : c.fld 0x1A 2 < 4096)
    (hbound : Tab.has s.inboxes (boxKey i (c.fld 0x1A 2)) = true) (hfeeders : s.feeders (boxKey i (c.fld 0x1A 2)) = [])
    (hidle : s.inboxBusy i (c.fld 0x1A 2) = false) :
    exec (.associationUnbind i sq cid) s =
      .next (({ s with inboxes := Tab.del s.inboxes (boxKey i (c.fld 0x1A 2)) } : State).finish c.no 0 0 0) := by
  show execAssociationUnbind i sq cid s = _
  rw [execAssociationUnbind, hc]
  exact if_pos ⟨hbox, hbound, hfeeders, by rw [hidle]; rfl⟩

section
variable (hc : s.takeAssocCmd i sq cid 3 = some c)
include hc

theorem exec_associationOpen_down (hdown : s.slcUp = false) :
    exec (.associationOpen i sq cid) s = .next (s.finish c.no 0x5003 0 0) := by
  show execAssociationOpen i sq cid s = _
  rw [execAssociationOpen, hc]
  exact if_pos (by rw [hdown]; rfl)

/-- OPEN with good paths and room opens the association. -/
theorem exec_associationOpen_ok {b : Bytes} {u : State} {x : Inst} {ps : List Path} (hup : s.slcUp = true)
    (hdom : s.col.domain.isSome = true) (hn : 1 ≤ c.fld 0x22 1 ∧ c.fld 0x22 1 ≤ 16) (hbox : c.fld 0x1A 2 < 4096)
    (hremote : c.fld 0x1C 2 < 4096) (hgroup : c.fld 0x1E 2 < 4096) (hlen : 32 * c.fld 0x22 1 ≤ c.dataLen)
    (hbound : Tab.has s.inboxes (boxKey i (c.fld 0x1A 2)) = true) (hx : s.inst? i = some x)
    (hread : s.bufRead c c.dataAddr (32 * c.fld 0x22 1) = .ok b u)
    (hpaths : (groups 32 (c.fld 0x22 1) b).map u.pathOfRecord = ps.map some)
    (hlimit : (u.assocs.filter (fun p => p.2.inst == i)).length < x.alloc.assocs)
    (hroom : u.boxRoom (boxKey i (c.fld 0x1A 2)) 1 = true) :
    exec (.associationOpen i sq cid) s = .next (u.openAssoc c ps) := by
  have hgood : (ps.map some).any (·.isNone) = false := by simp
  have hall : (ps.map some).filterMap id = ps := by simp
  show execAssociationOpen i sq cid s = _
  rw [execAssociationOpen, hc, hx]
  refine (if_neg (by rw [hup]; decide)).trans ((if_neg ?_).trans ((if_neg ?_).trans ?_))
  · rw [← Option.not_isSome, hdom]; decide
  · rw [hbound]; simp; omega
  · simp only [hread, hpaths, hgood, hall]
    refine (if_neg (by decide)).trans (if_neg ?_)
    rw [hroom]
    simpa using hlimit

end

section
variable {x : Assoc} (hx : s.assoc? (c.fld 0x20 2) = some x)
include hx

theorem exec_associationClose_open (hc : s.takeAssocCmd i sq cid 4 = some c) (hi : x.inst = i) (hstate : x.state = 2) :
    exec (.associationClose i sq cid) s =
      .next (((s.start c.no).updAssoc (c.fld 0x20 2) (fun x => { x with state := 3, est := none })).tryClose (c.fld 0x20 2)) := by
  show execAssociationClose i sq cid s = _
  rw [execAssociationClose, hc]
  simp only [hx]
  exact (if_neg (by omega)).trans (if_neg (by omega))

theorem exec_associationClose_other (hc : s.takeAssocCmd i sq cid 4 = some c) (hi : x.inst ≠ i) :
    exec (.associationClose i sq cid) s = .next (s.finish c.no 0x1002 0 0) := by
  show execAssociationClose i sq cid s = _
  rw [execAssociationClose, hc]
  simp only [hx]
  exact if_pos (.inl hi)

theorem exec_associationRekey_idle (hc : s.takeAssocCmd i sq cid 5 = some c) (hi : x.inst = i) (hstate : x.state = 2 ∨ x.state = 5)
    (hest : x.est = none) (hnext : x.txNext = none) :
    exec (.associationRekey i sq cid) s = .next ((s.start c.no).startRekey (c.fld 0x20 2)) := by
  show execAssociationRekey i sq cid s = _
  rw [execAssociationRekey, hc]
  simp only [hx]
  refine (if_neg ?_).trans (if_neg ?_)
  · rcases hstate with h | h <;> simp [hi, h]
  · simp [hest, hnext]

theorem exec_associationRekey_other (hc : s.takeAssocCmd i sq cid 5 = some c) (hi : x.inst ≠ i) :
    exec (.associationRekey i sq cid) s = .next (s.finish c.no 0x1002 0 0) := by
  show execAssociationRekey i sq cid s = _
  rw [execAssociationRekey, hc]
  simp only [hx]
  exact if_pos (.inl hi)

end

end

-- ---------------------------------------------------------------- received frames

section
variable {s : State} {f : Frame} (hhears : s.hears f = true)
include hhears

/-- A good frame of a type has its NONCE_SEQ spent and goes to the rule of the type. -/
theorem State.onFrame_good {a t flags path seq off psn : Nat} {d : Bytes} (h : s.classify f = .good a t flags path seq off psn d)
    (g : State → Nat → (path seq off psn flags : Nat) → Bytes → State) :
    s.onFrame f t g = g ((s.rxCount f).spendNonce a (flags % 2) seq) a path seq off psn flags d := by
  rw [State.onFrame, if_neg (by simp [hhears]), h]
  exact if_pos rfl

/-- A good frame of each type goes to its rule. -/
theorem exec_receive_good {a t flags path seq off psn : Nat} {d : Bytes} {u : State}
    (h : s.classify f = .good a t flags path seq off psn d) (hu : u = (s.rxCount f).spendNonce a (flags % 2) seq) :
    (t = 1 → exec (.receiveData f) s = .next (u.takeData f a path off psn flags d)) ∧
    (t = 2 → exec (.receiveAck f) s = .next (u.takeAck a d)) ∧
    (∀ x, t = 3 → u.assoc? a = some x → x.state ≠ 1 → x.state ≠ 4 →
      exec (.receiveProbe f) s = .next (u.sendSealed a (x.pathOf f) 4 0 0 0 (leBytes 8 seq))) ∧
    (t = 4 → exec (.receiveProbeReply f) s = .next (u.takeProbeReply a d)) ∧
    (t = 5 → exec (.receiveRekey f) s = .next (u.takeRekey a)) ∧
    (t = 6 → exec (.receiveClose f) s = .next (u.takeClose f a d)) ∧
    (∀ x, t = 7 → u.assoc? a = some x → x.state = 3 → x.closing = true →
      exec (.receiveCloseAck f) s = .next (u.closeDone a)) := by
  have hgood := State.onFrame_good hhears h
  rw [← hu] at hgood
  refine ⟨fun ht => ?_, fun ht => ?_, fun x ht hx h1 h4 => ?_, fun ht => ?_, fun ht => ?_, fun ht => ?_, fun x ht hx h3 hclosing => ?_⟩
  · subst ht; exact congrArg ok (hgood _)
  · subst ht; exact congrArg ok (hgood _)
  · subst ht
    refine congrArg ok ((hgood _).trans ?_)
    simp only [hx]
    exact if_neg (by omega)
  · subst ht; exact congrArg ok (hgood _)
  · subst ht; exact congrArg ok (hgood _)
  · subst ht; exact congrArg ok (hgood _)
  · subst ht
    refine congrArg ok ((hgood _).trans ?_)
    simp only [hx]
    exact if_pos ⟨h3, hclosing⟩

omit hhears in
/-- Counting a frame leaves the timebase and the windows of the rate limits. -/
theorem State.rxCount_windows (s : State) (f : Frame) : (s.rxCount f).timebase = s.timebase ∧
    (s.rxCount f).fab.estWin = s.fab.estWin ∧ (s.rxCount f).fab.slow = s.fab.slow := ⟨rfl, rfl, rfl⟩

/-- An ESTABLISH frame within the rate limit goes to the rule of its step, and one beyond it is counted. -/
theorem exec_receiveEstablish {p : Bytes} {w : Nat × Nat} {in_ : Bool} (h : s.classify f = .establish p)
    (hw : windowTake s.timebase 1000000000 16384 s.fab.estWin = (in_, w)) {u : State}
    (hu : u = { s.rxCount f with fab := { (s.rxCount f).fab with estWin := w } }) :
    exec (.receiveEstablish f) s =
      if !in_ then .next { u with fab := { u.fab with estDrops := u.fab.estDrops + 1 } }
      else if p.length ≠ 512 then .next u
      else match fld p 0 1 with
        | 1 => .next (u.onHello f.port f.srcAddr.toNat p)
        | 2 => .next (u.onReply p)
        | 3 => .next (u.onFinish p)
        | 4 => .next (u.onReject p)
        | _ => .next u := by
  obtain ⟨htime, hest, hslow⟩ := s.rxCount_windows f
  show execReceiveEstablish f s = _
  rw [execReceiveEstablish, if_neg (by simp [hhears]), h]
  dsimp only
  rw [htime, hest, hw, hu]
  rfl

theorem exec_receiveSlowPathFrame {w : Nat × Nat} {in_ : Bool} (h : s.classify f = .slow)
    (hw : windowTake s.timebase 1000000000 32768 (Tab.get s.fab.slow (f.port / 16) (0, 0)) = (in_, w)) {u : State}
    (hu : u = { s.rxCount f with fab := { (s.rxCount f).fab with slow := Tab.set (s.rxCount f).fab.slow (f.port / 16) w } }) :
    exec (.receiveSlowPathFrame f) s =
      if in_ then .next (u.slowQueue f) else .next (u.count (groupBase f.port + 0x28) 1) := by
  obtain ⟨htime, hest, hslow⟩ := s.rxCount_windows f
  show execReceiveSlowPathFrame f s = _
  rw [execReceiveSlowPathFrame, if_neg (by simp [hhears]), h]
  dsimp only
  rw [htime, hslow, hw, hu]
  rfl

/-- A frame of no use is dropped and counted by its kind. -/
theorem exec_receiveOtherFrame : exec (.receiveOtherFrame f) s = match s.classify f with
    | .mac => .next (s.macDrop f)
    | .other => .next ((s.rxCount f).count 0x600030 1)
    | .stranger => .next (s.dropAhnig f 0x08 1)
    | .authFail => .next (s.dropAhnig f 0x10 2)
    | .replay => .next (s.dropAhnig f 0x18 3)
    | _ => .next s := by
  show execReceiveOtherFrame f s = _
  rw [execReceiveOtherFrame, if_neg (by simp [hhears])]
  rfl

end

/-- Settles O58: each command by its checks, each frame by its class. -/
theorem associationsAndFrames : Obligations.AssociationsAndFrames := by
  refine ⟨fun s i sq cid c => ⟨exec_associationBind_ok, exec_associationUnbind_ok,
      fun hc => ⟨exec_associationOpen_down hc, fun b u x ps hup hdom h1 h16 => exec_associationOpen_ok hc hup hdom ⟨h1, h16⟩⟩,
      fun x hx => ⟨exec_associationClose_open hx, exec_associationClose_other hx, exec_associationRekey_idle hx,
        exec_associationRekey_other hx⟩⟩,
    fun s f hh => ⟨fun a t flags path seq off psn d u => exec_receive_good hh,
      fun p w h in_ hw u hu => ⟨fun hin => ?late, fun hin hlen => ⟨fun h1 => ?hello, fun h2 => ?reply, fun h3 => ?finish, fun h4 => ?reject⟩⟩,
      fun w in_ h hw u hu => ⟨fun hin => (exec_receiveSlowPathFrame hh h hw hu).trans (if_pos hin),
        fun hin => (exec_receiveSlowPathFrame hh h hw hu).trans (if_neg (by simp [hin]))⟩,
      fun h => by rw [exec_receiveOtherFrame hh, h], fun h => by rw [exec_receiveOtherFrame hh, h],
      fun h => by rw [exec_receiveOtherFrame hh, h], fun h => by rw [exec_receiveOtherFrame hh, h],
      fun h => by rw [exec_receiveOtherFrame hh, h]⟩⟩
  case late => exact (exec_receiveEstablish hh h hw hu).trans (if_pos (by rw [hin]; rfl))
  all_goals
    refine (exec_receiveEstablish hh h hw hu).trans ((if_neg (by rw [hin]; decide)).trans ((if_neg (by omega)).trans ?_))
  case hello => simp only [h1]
  case reply => simp only [h2]
  case finish => simp only [h3]
  case reject => simp only [h4]

end Sys2Proof.Machine
end

section
/-! SUPPORT. Sending, the timers of associations, priority pauses, and ports (R281–R308). -/
namespace Sys2Proof.Machine

-- ---------------------------------------------------------------- what handing a frame to its port leaves

/-- The associations and the timebase are as they were. -/
def KeepsAssocs (s t : State) : Prop := t.assocs = s.assocs ∧ t.timebase = s.timebase

theorem KeepsAssocs.trans {s t u : State} (h : KeepsAssocs s t) (k : KeepsAssocs t u) : KeepsAssocs s u :=
  ⟨k.1.trans h.1, k.2.trans h.2⟩

/-- The frames that leave a port change counters and outputs alone. -/
theorem State.emitFrames_keeps (port : Nat) (l : List (Nat × Bytes)) (s : State) :
    KeepsAssocs s (l.foldl (fun s x => (s.count (portReg port 0x18) 1).emit (.frame port x.2)) s) ∧
      (l.foldl (fun s x => (s.count (portReg port 0x18) 1).emit (.frame port x.2)) s).fab = s.fab := by
  induction l generalizing s with
  | nil => exact ⟨⟨rfl, rfl⟩, rfl⟩
  | cons x r ih => exact ih _

theorem State.flushPort_keepsAssocs (s : State) (port : Nat) : KeepsAssocs s (s.flushPort port) := by
  rw [State.flushPort]
  split
  · exact ⟨rfl, rfl⟩
  · exact (State.emitFrames_keeps port _ _).1

theorem State.transmit_keepsAssocs (s : State) (port prio : Nat) (b : Bytes) : KeepsAssocs s (s.transmit port prio b) := by
  rw [State.transmit]
  split
  · exact State.flushPort_keepsAssocs (s.updPort port _) port
  · exact ⟨rfl, rfl⟩

theorem State.sendWire_keepsAssocs (s : State) (port fam dst hash : Nat) (data : Bool) (d : Bytes) :
    KeepsAssocs s (s.sendWire port fam dst hash data d) := by
  rw [State.sendWire]
  split
  · exact ⟨rfl, rfl⟩
  · exact State.transmit_keepsAssocs (s.freshBytes 6).2 _ _ _

-- ---------------------------------------------------------------- SEND_DATA (R289)

theorem State.assoc_updAssoc_same {s : State} {a : Nat} {x : Assoc} (hx : s.assoc? a = some x) (f : Assoc → Assoc) :
    (s.updAssoc a f).assoc? a = some (f x) := Tab.find_upd_some _ _ hx

theorem State.updAssoc_assocs_length (s : State) (a : Nat) (f : Assoc → Assoc) :
    (s.updAssoc a f).assocs.length = s.assocs.length := List.length_map _

/-- A sealed DATA frame spends the association's next sequence number and the time of its path. -/
theorem State.sendSealed_data {s : State} {a : Nat} {x : Assoc} (hx : s.assoc? a = some x) (hmay : x.maySend = true)
    (hseq : x.txSeq + 1 < 2 ^ 63) (p flags off psn : Nat) (d : Bytes) :
    (s.sendSealed a p 1 flags off psn d).timebase = s.timebase ∧
      ∃ ps, (s.sendSealed a p 1 flags off psn d).assoc? a = some { x with txSeq := x.txSeq + 1, paths := ps } := by
  have hhalf : x.txSeq + 1 ≠ 2 ^ 63 := Nat.ne_of_lt hseq
  have hlast : x.txSeq + 1 ≠ 2 ^ 64 - 1 := by omega
  rw [State.sendSealed, hx]
  simp only [hmay, Bool.not_true, Bool.false_eq_true, if_false, if_true, if_neg hhalf, if_neg hlast]
  generalize hu : s.sendWire _ _ _ _ _ _ = u
  obtain ⟨hassocs, htime⟩ : KeepsAssocs s u := hu ▸ State.sendWire_keepsAssocs _ _ _ _ _ _ _
  have hux : u.assoc? a = some x := by rw [State.assoc?, hassocs]; exact hx
  exact ⟨htime, _, State.assoc_updAssoc_same (State.assoc_updAssoc_same hux _) _⟩

/-- An association with credit, a message and a path sends the message's next bytes as the next PSN. -/
theorem State.sendNew_ok {s : State} {a : Nat} {x : Assoc} {m : Message} {p n : Nat} (hx : s.assoc? a = some x)
    (hmay : x.maySend = true) (hseq : x.txSeq + 1 < 2 ^ 63) (hcredit : x.sent < x.credit)
    (hspan : x.psn - ((x.flight.head?).map (·.psn)).getD x.psn < 65536) (hm : x.messageAt x.sent = some m)
    (hp : s.pickPath x none = some p)
    (hn : n = min x.seg (min (m.off + m.bytes.length - x.sent) (x.credit - x.sent))) :
    ∃ y, (s.sendNew a x).assoc? a = some y ∧ y.txSeq = x.txSeq + 1 ∧ y.psn = x.psn + 1 ∧ y.sent = x.sent + n ∧
      y.flight = x.flight ++
        [{ psn := x.psn, off := x.sent, len := n, eos := m.eos, path := p, at_ := s.timebase }] := by
  rw [State.sendNew]
  simp only [hm, hp, ← hn]
  rw [if_neg (by omega)]
  generalize hu : s.sendSealed _ _ _ _ _ _ _ = u
  obtain ⟨htime, ps, hux⟩ := hu ▸ State.sendSealed_data hx hmay hseq p (4 * b2n m.eos) x.sent (x.psn % 2 ^ 32)
    (x.bytesAt x.sent n)
  rw [htime]
  split
  · exact ⟨_, State.assoc_updAssoc_same (State.assoc_updAssoc_same hux _) _, rfl, rfl, rfl, rfl⟩
  · exact ⟨_, State.assoc_updAssoc_same hux _, rfl, rfl, rfl, rfl⟩

theorem exec_sendData_ok {s : State} {a : Nat} {x : Assoc} {m : Message} {p n : Nat} (hr : s.running = true)
    (hx : s.assoc? a = some x) (hstate : x.state = 2 ∨ x.state = 3) (hmay : x.maySend = true) (hseq : x.txSeq + 1 < 2 ^ 63)
    (hresend : x.resend = []) (hcredit : x.sent < x.credit)
    (hspan : x.psn - ((x.flight.head?).map (·.psn)).getD x.psn < 65536) (hm : x.messageAt x.sent = some m)
    (hp : s.pickPath x none = some p)
    (hn : n = min x.seg (min (m.off + m.bytes.length - x.sent) (x.credit - x.sent))) :
    ∃ t y, exec (.sendData a) s = .next t ∧ t.assoc? a = some y ∧ y.txSeq = x.txSeq + 1 ∧ y.psn = x.psn + 1 ∧
      y.sent = x.sent + n ∧ y.flight = x.flight ++
        [{ psn := x.psn, off := x.sent, len := n, eos := m.eos, path := p, at_ := s.timebase }] := by
  have hopen : (!(x.state == 2 || x.state == 3) || !x.maySend) = false := by
    rcases hstate with h | h <;> rw [h, hmay] <;> rfl
  have hsend : s.sendData a = s.sendNew a x := by
    rw [State.sendData, hx]
    simp only [hopen, hresend, Bool.false_eq_true, if_false]
  obtain ⟨y, hy⟩ := State.sendNew_ok hx hmay hseq hcredit hspan hm hp hn
  exact ⟨_, y, if_pos hr, hsend ▸ hy⟩

-- ---------------------------------------------------------------- timers of associations

section
variable {s : State} {a : Nat} (hr : s.running = true)
include hr

theorem exec_rekeyPolicyTimer_ok {d : DomainPolicy} (hd : s.col.domain = some d) (hhours : d.rekeyHours ≠ 0) :
    exec (.rekeyPolicyTimer a) s = .next (s.startRekey a) := by
  refine if_pos ?_
  rw [hr, hd]
  simpa using hhours

theorem exec_unpairedHelloExpiry_ok {n : Nat} {y : Hello} (hy : s.fab.hellos[n]? = some y) (hup : s.slcUp = true) :
    exec (.unpairedHelloExpiry n) s =
      .next (({ s with fab := { s.fab with hellos := s.fab.hellos.eraseIdx n } } : State).reject y.port y.src y.payload 3) := by
  show execUnpairedHelloExpiry n s = _
  rw [execUnpairedHelloExpiry, hy]
  exact if_pos ⟨hr, hup⟩

variable {x : Assoc} (hx : s.assoc? a = some x)
include hx

theorem exec_ackDelayTimer_ok (hrun : 0 < x.ackRun) : exec (.ackDelayTimer a) s = .next (s.sendAck a) := by
  show execAckDelayTimer a s = _
  rw [execAckDelayTimer, hx]
  exact if_pos ⟨hr, hrun⟩

theorem exec_backlogAckTimer_ok (hstate : x.state = 2 ∨ x.state = 3) (hwaiting : 0 < x.waiting) (hcredit : x.credit ≤ x.sent) :
    exec (.backlogAckTimer a) s = .next (s.sendAck a) := by
  show execBacklogAckTimer a s = _
  rw [execBacklogAckTimer, hx]
  exact if_pos ⟨hr, hstate, hwaiting, hcredit⟩

/-- The retransmission timer is noted when it runs out and acts at the tick's end. -/
theorem exec_retransmitTimeout_ok (hstate : x.state = 2 ∨ x.state = 3 ∨ x.state = 5) (hstarted : x.rtoAt ≠ s.timebase) :
    exec (.retransmitTimeout a) s = .next (s.expire (.retransmit a)) ∧ s.late (.retransmit a) = s.retransmit a x := by
  have hruns : s.timerRuns x = true := by simp [State.timerRuns, hr, hstate, hstarted, or_assoc]
  constructor
  · show execRetransmitTimeout a s = _
    rw [execRetransmitTimeout, hx]
    exact if_pos hruns
  · rw [State.late, State.retransmitLate, hx]
    exact if_pos hruns

theorem exec_pathProbeTimer_ok {p : Nat} {q : Path} (hq : x.paths[p]? = some q) (hsuspect : q.suspect = true)
    (hopening : x.state ≠ 1) (hclosed : x.state ≠ 4) (hmay : x.maySend = true)
    (hsends : s.portSends q.lane q.family = true) :
    exec (.pathProbeTimer a p) s = .next ((s.updAssoc a (fun y => { y with
      probes := (y.probes ++ [(y.txSeq, p, s.timebase)]).drop (y.probes.length - 63) })).sendSealed a p 3 0 0 0 []) := by
  show execPathProbeTimer a p s = _
  rw [execPathProbeTimer, hx]
  simp only [hq]
  exact if_pos ⟨hr, hsuspect, hopening, hclosed, hmay, hsends⟩

theorem exec_assocNoPathTimeout_ok (hstate : x.state = 3 ∨ x.state = 5) (hpaths : x.paths.any s.usable = false) :
    exec (.assocNoPathTimeout a) s = .next (s.failAssoc a) := by
  show execAssocNoPathTimeout a s = _
  rw [execAssocNoPathTimeout, hx]
  exact if_pos ⟨hr, hstate, by rw [hpaths]; rfl⟩

theorem exec_assocOpenTimeout_ok (h : x.state = 1 ∨ x.est.isSome = true) :
    exec (.assocOpenTimeout a) s = .next (s.endExchange a 0x5005) := by
  show execAssocOpenTimeout a s = _
  rw [execAssocOpenTimeout, hx]
  exact if_pos ⟨hr, h⟩

theorem exec_establishHelloRepeat_initiator {e : Est} (hup : s.slcUp = true) (he : x.est = some e)
    (hinitiator : e.initiator = true) : exec (.establishHelloRepeat a) s = .next (s.sendEstAll a x e.hello) := by
  show execEstablishHelloRepeat a s = _
  rw [execEstablishHelloRepeat, hx]
  simp only [he]
  exact (if_neg (by rw [hr, hup]; decide)).trans (if_pos hinitiator)

theorem exec_establishHelloRepeat_idle (hup : s.slcUp = true) (he : x.est = none) :
    exec (.establishHelloRepeat a) s = .next (s.startRekeys s.assocs.length) := by
  show execEstablishHelloRepeat a s = _
  rw [execEstablishHelloRepeat, hx]
  simp only [he]
  exact if_neg (by rw [hr, hup]; decide)

theorem exec_rekeyKeyEraseTimer_ok (herase : x.erase = true) : exec (.rekeyKeyEraseTimer a) s =
    .next ((s.updAssoc a (fun x => { x with rx := x.rx.drop 1, erase := false })).startRekeys s.assocs.length) := by
  show execRekeyKeyEraseTimer a s = _
  rw [execRekeyKeyEraseTimer, hx]
  refine (if_pos ⟨hr, herase⟩).trans ?_
  dsimp only
  rw [State.updAssoc_assocs_length]
  rfl

end

-- ---------------------------------------------------------------- priority pauses (R282)

theorem bitAt_or (a b k : Nat) : bitAt (a ||| b) k = (bitAt a k || bitAt b k) := by
  rw [bitAt_eq_testBit, bitAt_eq_testBit, bitAt_eq_testBit, Nat.testBit_or]

theorem bitAt_one_shiftLeft_same (k : Nat) : bitAt (1 <<< k) k = true := by
  rw [bitAt_eq_testBit, Nat.one_shiftLeft, Nat.testBit_two_pow_self]

/-- Taking a bit's weight away with `without` clears the bit. -/
theorem bitAt_without_same (a : Nat) {k : Nat} (hk : k < 8) : bitAt (without a (1 <<< k)) k = false := by
  have hmask : ∀ k < 8, (allOnes ^^^ (1 <<< k &&& allOnes)).testBit k = false := by decide
  rw [bitAt_eq_testBit, without, Nat.testBit_and, hmask k hk, Bool.and_false]

section
variable {s : State} {port : Nat} {p : FabPort} (hp : s.fabPort? port = some p)
include hp

theorem State.fabPort_updPort_same (f : FabPort → FabPort) : (s.updPort port f).fabPort? port = some (f p) :=
  Tab.find_upd_some _ _ hp

/-- Flushing a port lets waiting frames go and leaves its pauses as they are. -/
theorem State.fabPort_flushPort : ∃ y, (s.flushPort port).fabPort? port = some y ∧ y.paused = p.paused ∧ y.ignore = p.ignore := by
  rw [State.flushPort, hp]
  dsimp only
  rw [State.fabPort?, (State.emitFrames_keeps port _ _).2]
  exact ⟨_, State.fabPort_updPort_same hp _, rfl, rfl⟩

end

theorem Posted.fabPort? {s t : State} (h : Posted s t) (port : Nat) : t.fabPort? port = s.fabPort? port := by rw [h.1]; rfl

section
variable {s : State} {port prio : Nat} {p : FabPort} (hr : s.running = true) (hp : s.fabPort? port = some p) (hprio : prio < 8)
include hr hp hprio

/-- A PAUSE of a priority that is not ignored pauses it. -/
theorem exec_receivePfcFrame_pause (hup : s.portUp port = true) (henabled : bitAt (s.regField offFabCfg 15 8) prio = true)
    (hignore : bitAt p.ignore prio = false) :
    ∃ t y, exec (.receivePfcFrame port prio true) s = .next t ∧ t.fabPort? port = some y ∧ bitAt y.paused prio = true := by
  have hguard : (s.running && s.portUp port && decide (prio < 8) && bitAt (s.regField offFabCfg 15 8) prio) = true := by
    rw [hr, hup, henabled, decide_eq_true hprio]; rfl
  have hexec : exec (.receivePfcFrame port prio true) s = .next ((s.updPort port (fun p => if bitAt p.ignore prio then p
      else { p with paused := without p.paused (1 <<< prio) ||| 1 <<< prio })).flushPort port) := if_pos hguard
  have hu := State.fabPort_updPort_same hp (fun p => if bitAt p.ignore prio then p
      else { p with paused := without p.paused (1 <<< prio) ||| 1 <<< prio })
  obtain ⟨y, hy, hpaused, -⟩ := State.fabPort_flushPort hu
  refine ⟨_, y, hexec, hy, ?_⟩
  rw [hpaused, hignore, if_neg Bool.false_ne_true, bitAt_or, bitAt_one_shiftLeft_same, Bool.or_true]

/-- A priority that has been paused too long is resumed, and its PAUSE is ignored from then on. -/
theorem exec_pfcWatchdogExpiry_paused (hpaused : bitAt p.paused prio = true) :
    ∃ t y, exec (.pfcWatchdogExpiry port prio) s = .next t ∧ t.fabPort? port = some y ∧
      bitAt y.paused prio = false ∧ bitAt y.ignore prio = true := by
  have hguard : (s.running && decide (prio < 8) && bitAt p.paused prio) = true := by
    rw [hr, hpaused, decide_eq_true hprio]; rfl
  have hexec : exec (.pfcWatchdogExpiry port prio) s = ok ((((s.updPort port (fun p =>
      { p with paused := without p.paused (1 <<< prio), ignore := p.ignore ||| (1 <<< prio) })).flushPort port).count
      (portReg port 0x30) 1).logFh
        { kind := 0x0504, outcome := 7, resType := 5, resIdx := port, data := leBytes 4 port ++ leBytes 4 prio }) := by
    show execPfcWatchdogExpiry port prio s = _
    rw [execPfcWatchdogExpiry, hp]
    exact if_pos hguard
  obtain ⟨y, hy, hypaused, hyignore⟩ := State.fabPort_flushPort (State.fabPort_updPort_same hp
    (fun p => { p with paused := without p.paused (1 <<< prio), ignore := p.ignore ||| (1 <<< prio) }))
  refine ⟨_, y, hexec, ((State.logFh_posted _ _).fabPort? port).trans hy, ?_, ?_⟩
  · rw [hypaused]; exact bitAt_without_same _ hprio
  · rw [hyignore, bitAt_or, bitAt_one_shiftLeft_same, Bool.or_true]

/-- At the end of its time a priority's PAUSE counts again. -/
theorem exec_pfcIgnoreEnd_ok :
    ∃ t y, exec (.pfcIgnoreEnd port prio) s = .next t ∧ t.fabPort? port = some y ∧ bitAt y.ignore prio = false :=
  ⟨_, _, if_pos hr, State.fabPort_updPort_same hp _, bitAt_without_same _ hprio⟩

end

-- ---------------------------------------------------------------- ports (R301–R308)

section
variable {s : State} {port : Nat} {p : FabPort} (hr : s.running = true) (hp : s.fabPort? port = some p)
include hr hp

theorem exec_portAlignmentLoss_up (hup : p.state = 2) {lanes own : List Nat}
    (hown : own = dedup (lanes.filter (fun l => decide (port ≤ l) && decide (l < port + p.lanes)))) :
    exec (.portAlignmentLoss port lanes) s = .next ((s.updPort port (fun p =>
      p.goDown 1 (if own = [] then [p.worst port] else own))).portGone (fun l => l == port)) := by
  refine (if_pos hr).trans (congrArg Host.Outcome.next ?_)
  rw [State.retrainPort, hp, hown]
  exact if_pos hup

/-- A port in retraining comes UP, or is retired with a lane that its count retires. -/
theorem exec_portRetrainComplete_ok {ret : Bool} {u : State} {bad : List Nat} (hstate : p.state = 1)
    (hcharge : s.chargeLanes bad (dedup (p.lost ++ bad)) = (ret, u)) (hown : ∀ l, l ∈ bad → port ≤ l ∧ l < port + p.lanes) :
    exec (.portRetrainComplete port bad) s = .next ((u.updPort port (fun p =>
      { p with state := if ret then 4 else 2, lost := [], errs := [] })).reholdAll) := by
  have hall : bad.filter (fun l => decide (port ≤ l) && decide (l < port + p.lanes)) = bad :=
    List.filter_eq_self.mpr (fun l hl => by simpa using hown l hl)
  show execPortRetrainComplete port bad s = _
  rw [execPortRetrainComplete, hp]
  simp only [hall, hcharge]
  exact if_pos ⟨hr, hstate⟩

end

theorem exec_fabGroupModeWrite_ok {s : State} {g : Nat} {v : Word} (hs : s.serving = true) (hg : g < 8) (hpause : s.paused = false)
    (hlegal : regLegal (offGroupCfg g) (v.toNat &&& 0x37) = true) :
    exec (.fabGroupModeWrite g v) s = .next (s.writeGroup g (v.toNat &&& 0x37)) :=
  (if_pos ⟨hs, hg, hlegal⟩).trans (if_neg (by rw [hpause]; decide))

theorem exec_portAddressWrite_ok {s : State} {off g k m : Nat} {r : RegInfo} {v : Word} (hs : s.serving = true)
    (haddr : portAddrReg off = some (g, k, m)) (hinfo : regInfo off = some r) (hfree : s.portInUse (16 * g + k) = false) :
    exec (.portAddressWrite off v) s = .next ((s.storeReg off (regMerge r (s.reg off) off 8 v.toNat)).reholdAll) := by
  show execPortAddressWrite off v s = _
  rw [execPortAddressWrite, haddr, hinfo]
  exact if_pos (by rw [hs, hfree]; rfl)

-- ---------------------------------------------------------------- the obligation

/-- Settles O59: sending, each timer, each priority pause and each port change does what its rule says. -/
theorem fabricTimersAndPorts : Obligations.FabricTimersAndPorts := by
  unfold Obligations.FabricTimersAndPorts
  intro s hr
  refine ⟨fun a x m p hx hstate hmay hseq hresend hcredit hspan hm hp =>
      exec_sendData_ok hr hx hstate hmay hseq hresend hcredit hspan hm hp rfl,
    fun a => if_pos hr, fun a => if_pos hr, fun a x hx => ?timers, fun a d => exec_rekeyPolicyTimer_ok hr,
    fun n y => exec_unpairedHelloExpiry_ok hr, fun port prio p hp hprio => ?ports,
    fun hs => ⟨fun g v => exec_fabGroupModeWrite_ok hs, fun off g k m r v => exec_portAddressWrite_ok hs⟩⟩
  case timers =>
    exact ⟨exec_ackDelayTimer_ok hr hx, exec_backlogAckTimer_ok hr hx, exec_retransmitTimeout_ok hr hx,
      fun p q => exec_pathProbeTimer_ok hr hx, exec_assocNoPathTimeout_ok hr hx, exec_assocOpenTimeout_ok hr hx,
      fun e => exec_establishHelloRepeat_initiator hr hx, exec_establishHelloRepeat_idle hr hx,
      exec_rekeyKeyEraseTimer_ok hr hx⟩
  case ports =>
    exact ⟨exec_receivePfcFrame_pause hr hp hprio, exec_pfcWatchdogExpiry_paused hr hp hprio,
      exec_pfcIgnoreEnd_ok hr hp hprio, fun hup lanes own => exec_portAlignmentLoss_up hr hp hup,
      fun ret u bad => exec_portRetrainComplete_ok hr hp⟩

end Sys2Proof.Machine
end
